-- ==== Sys2Proof/Word.lean ====
section
/-!
DEFINITION. Words, bytes and the plainest arithmetic on them.
-/
namespace Sys2Proof

/-- A 64-bit stack entry, address or register. -/
abbrev Word := BitVec 64
/-- A 32-bit slot, accumulator element or control register. -/
abbrev Half := BitVec 32
/-- One byte of memory. -/
abbrev Byte := BitVec 8
/-- One bit for each of the 32 lanes of a group (R81). -/
abbrev Mask := BitVec 32

/-- The low half of an entry (R130). -/
def lo32 (w : Word) : Half := w.setWidth 32
/-- The high half of an entry. -/
def hi32 (w : Word) : Half := (w >>> 32).setWidth 32
/-- A 32-bit value zero-extended to an entry (R130). -/
def zx32 (h : Half) : Word := h.setWidth 64
/-- A 32-bit value sign-extended to an entry (R130). -/
def sx32 (h : Half) : Word := h.signExtend 64
/-- Two halves joined, the low one first. -/
def join32 (lo hi : Half) : Word := zx32 lo ||| (zx32 hi <<< 32)

/-- `bit b` is 1 or 0. -/
def bit (b : Bool) : Nat := if b then 1 else 0
/-- Field [hi:lo] of a number, bit 0 the least significant (R4). -/
def field (w hi lo : Nat) : Nat := (w >>> lo) % 2 ^ (hi + 1 - lo)
/-- `w` read as a two's-complement number of `n` bits. -/
def toSigned (n w : Nat) : Int := if w < 2 ^ (n - 1) then (w : Int) else (w : Int) - (2 ^ n : Nat)
/-- The smallest lane of a mask, 32 for the empty mask. -/
def lowestLane (m : Mask) : Nat := (List.range 32).find? (fun i => m.getLsbD i) |>.getD 32
/-- The number of lanes of a mask. -/
def countLanes (m : Mask) : Nat := (List.range 32).countP (fun i => m.getLsbD i)
/-- The mask of one lane. -/
def laneBit (i : Nat) : Mask := BitVec.ofNat 32 (if i < 32 then 2 ^ i else 0)
/-- The mask of the lanes that `p` holds of. -/
def maskOf (p : Nat → Bool) : Mask :=
  BitVec.ofNat 32 ((List.range 32).foldl (fun a i => if p i then a + 2 ^ i else a) 0)

end Sys2Proof
end

