-- ==== Sys2Proof/Syntax.lean ====
section
/-!
DEFINITION. The syntax of one step: one constructor of `Instr` for each row of spec/opcode_table.json. A row with an
encoding is an instruction of the lane stream (06_lane_formats.md), of the matrix stream (14_matrix_instr.md) or of a
Tison core (22_tison.md); a row without one is an event, and its constructor carries what the event is about.
-/
namespace Sys2Proof

/-- The operand types, in the order of their TY codes (R113). Code 15 is reserved. -/
inductive Ty where
  | b32 | i32 | n32 | f32 | b64 | i64 | n64 | f64 | h2 | bh2 | e4m3 | e5m2 | f4 | ds8 | i8
  deriving DecidableEq, Repr

/-- The mode field MD in code order (R41). On integer types `rne` (0b000) is wrap and `sat` (0b111) saturates (R43). -/
inductive Rm where
  | rne | rtz | rdn | rup | rna | rsr | dyn | sat
  deriving DecidableEq, Repr

/-- Algebra dimensions 2, 4 and 8 (R116). -/
inductive Dim where
  | d2 | d4 | d8
  deriving DecidableEq, Repr

/-- A guard: predicate number and the inversion bit PN (R102). -/
structure Guard where
  p   : Fin 8
  neg : Bool
  deriving DecidableEq, Repr

/-- Conditions in COND order (R121). -/
inductive Cond where
  | eq | ne | lt | le | gt | ge | unord | ord | eqz | nez | ltz | gez | tst
  deriving DecidableEq, Repr

/-- Compare combines in CT order (R121). -/
inductive Combine where
  | norm | unc | and | or | orAndcm | andOrcm
  deriving DecidableEq, Repr

/-- Spaces in SPACE order (R59). -/
inductive Space where
  | g | l | c | w | d
  deriving DecidableEq, Repr

/-- Load sizes in SZ order (R122). -/
inductive LdSize where
  | s8 | z8 | s16 | z16 | w32 | w64
  deriving DecidableEq, Repr

/-- Store sizes (R122). -/
inductive StSize where
  | b8 | b16 | b32 | b64
  deriving DecidableEq, Repr

/-- Reuse hints in RH order (R193). -/
inductive Hint where
  | near | long | far | noal
  deriving DecidableEq, Repr

/-- Atomic operations in AOP order (R123). -/
inductive AtomOp where
  | add | imin | imax | nmin | nmax | and | or | xor | xchg | cas | inc | dec | fadd
  deriving DecidableEq, Repr

/-- Reduction operators in ARG4 order (R124). -/
inductive RedOp where
  | add | min | max | and | or | xor
  deriving DecidableEq, Repr

/-- Vote kinds (R124). -/
inductive VoteKind where
  | any | all | eq
  deriving DecidableEq, Repr

/-- Fence scopes in ARG4 order (R78). -/
inductive FenceScope where
  | host | die | dev
  deriving DecidableEq, Repr

/-- Tile-view spaces c, w and d (R252). -/
inductive TSpace where
  | c | w | d
  deriving DecidableEq, Repr

/-- Down-conversion formats in DCF order (R250). -/
inductive Dcf where
  | f32 | bf16 | e4m3 | ds8 | f16 | e5m2 | f4 | i8
  deriving DecidableEq, Repr

/-- The fields of `mma` (R249, R259). -/
structure MmaArgs where
  c : Fin 16
  aa : Bool
  a : Fin 32
  bq : Bool
  b : Fin 32
  x5 : Fin 32
  rd : Bool
  kq : BitVec 12
  nc : Fin 4
  mc : Fin 4
  tb : Bool
  ta : Bool
  zero : Bool
  rev : Bool
  alg : Fin 5
  rm : Rm
  dcf : Dcf
  deriving DecidableEq, Repr

/-- The fields of `mmay` (R262). -/
structure MmayArgs where
  a : Fin 32
  x5 : Fin 32
  b : Fin 32
  kq : BitVec 12
  nc : Fin 4
  mc : Fin 4
  tb : Bool
  ta : Bool
  zero : Bool
  rev : Bool
  alg : Fin 5
  deriving DecidableEq, Repr

/-- The three forms of `mlin` (R254). -/
inductive LinForm where
  | off
  | imm (space : TSpace) (lbase : BitVec 32) (lsh : Fin 13)
  | view (v : Fin 16)
  deriving DecidableEq, Repr

/-- Names a resident team: its core (module core number, R10) and its launch context (R21). -/
structure TeamRef where
  core : Nat
  ctx  : Nat
  deriving DecidableEq, Repr

/-- Names a fragment: core, group slot and lowest lane, the parts of its agent number (R69). -/
structure FragRef where
  core  : Nat
  gslot : Nat
  lane  : Nat
  deriving DecidableEq, Repr

/-- Where Tison puts one cluster: die and lowest row and column (R18, R300). -/
structure Rect where
  die  : Nat
  row0 : Nat
  col0 : Nat
  deriving DecidableEq, Repr

/-- How a host link trains (R325). -/
inductive LinkMode where
  | pcie | cxl
  deriving DecidableEq, Repr

/-- Who writes a register: the physical function of a host link, one of the 32 virtual functions, or Tison on behalf of its firmware or
of the debugger (R325, R343, R357). -/
inductive Writer where
  | pf (link : Fin 2) | vf (n : Fin 32) | tison
  deriving DecidableEq, Repr

/-- Registers without a behaviour of their own, for REGISTER_WRITE (R6; R329, R330, R338, R357, R362 to R364); `bar0` names a place in the
writer's BAR0 (R338, R343). -/
inductive RegId where
  | queueFn (q : Fin 64) | queueCbase (q : Fin 64) | queueRbase (q : Fin 64) | queueCtl (q : Fin 64)
  | scnt (s : Fin 64) | sroute (s : Fin 64) | stime (s : Fin 64) | sstat (s : Fin 64)
  | fabricStatus (link : Fin 16)
  | istat (isl : Fin 48)
  | tctl | tbase | tsize | trd | tlost
  | bp (ctx : Fin 8) (n : Fin 4) | wbase (ctx : Fin 8) (n : Fin 4) | wctl (ctx : Fin 8) (n : Fin 4)
  | attach (ctx : Fin 8) | snapSource | snapTime
  | bar0 (off : Nat)
  deriving DecidableEq, Repr

/-- The limits of one island from what is sensed in a control interval, each a 5-bit point (R348); the third, LR, is computed (R351). -/
structure Limits where
  li : BitVec 5
  lt : BitVec 5
  deriving DecidableEq, Repr

/-- What reaches the switch for a reduction session: the contribution of a `fred` of this module, or the partial sum of a round of a module
below on a fabric link, with the number of contributions in it (R331, R332). -/
inductive Arrival where
  | own (op : Nat)
  | below (s : Fin 64) (link : Fin 16) (count : Nat) (sums : List Int) (bad : List Bool)
  deriving DecidableEq, Repr

/-- What a trace record says beside the time (R356). -/
structure TraceRec where
  engine : BitVec 16
  kind   : Byte
  queue  : Byte
  seq    : BitVec 32
  tcb    : Word
  data   : Word
  deriving DecidableEq, Repr

/-- The life-cycle states (R370). -/
inductive LifeCycle where
  | manufacture | deployed | returned
  deriving DecidableEq, Repr

/-- One step of the module: a row of the opcode table. -/
inductive Instr where
  -- lane stream: stack and arithmetic (R133 to R146)
  | dup (d : Bool) | drop (d : Bool) | swap (d : Bool) | over (d : Bool) | rot (d : Bool) | nip (d : Bool)
  | depth (d : Bool)
  | add (md : Rm) (ty : Ty) (d : Bool) | sub (md : Rm) (ty : Ty) (d : Bool) | mul (md : Rm) (ty : Ty) (d : Bool)
  | mulhi (ty : Ty) (d : Bool)
  | fma (md : Rm) (ty : Ty) (d : Bool)
  | div (md : Rm) (ty : Ty) (d : Bool)
  | rem (ty : Ty) (d : Bool)
  | neg (md : Rm) (ty : Ty) (d : Bool) | abs (md : Rm) (ty : Ty) (d : Bool)
  | min (ty : Ty) (d : Bool) | max (ty : Ty) (d : Bool)
  | and (ty : Ty) (d : Bool) | or (ty : Ty) (d : Bool) | xor (ty : Ty) (d : Bool) | not (ty : Ty) (d : Bool)
  | shl (ty : Ty) (d : Bool) | shr (ty : Ty) (d : Bool) | sar (ty : Ty) (d : Bool) | rotl (ty : Ty) (d : Bool)
  | popc (ty : Ty) (d : Bool) | clz (ty : Ty) (d : Bool) | ctz (ty : Ty) (d : Bool)
  | bfx (ty : Ty) (d : Bool) | bfi (ty : Ty) (d : Bool)
  | sqrt (md : Rm) (ty : Ty) (d : Bool)
  | rsqrt (d : Bool) | rcp (d : Bool) | exp2 (d : Bool) | log2 (d : Bool) | sin (d : Bool) | cos (d : Bool)
  | tanh (d : Bool)
  | floor (ty : Ty) (d : Bool) | ceil (ty : Ty) (d : Bool) | trunc (ty : Ty) (d : Bool)
  | rint (md : Rm) (ty : Ty) (d : Bool)
  | clamp (ty : Ty) (d : Bool)
  | conj (dim : Dim) (t : Fin 2) (d : Bool) | norm (dim : Dim) (t : Fin 2) (d : Bool)
  | copysign (ty : Ty) (d : Bool)
  -- lane stream: slots and literals (R135, R137)
  | get (d : Bool) (k : BitVec 11) | set (d : Bool) (k : BitVec 11) | tee (d : Bool) (k : BitVec 11)
  | inc (d : Bool) (k : BitVec 11) (imm : BitVec 12)
  | get2 (d : Bool) (k : BitVec 11) | set2 (d : Bool) (k : BitVec 11) | tee2 (d : Bool) (k : BitVec 11)
  | clr (d : Bool) (k : BitVec 11)
  | lit (d : Bool) (imm : BitVec 26) | lit32 (d : Bool) (imm : BitVec 32) | lith (d : Bool) (imm : BitVec 32)
  -- lane stream: branches (R160 to R169)
  | br (g : Guard) (off : BitVec 20) | brl (g : Guard) (off : BitVec 20) | bru (g : Guard) (off : BitVec 20)
  | call (g : Guard) (off : BitVec 20) | loop (g : Guard) (off : BitVec 20) | rep (g : Guard) (n : BitVec 20)
  | jmp (g : Guard)
  | brFar (g : Guard) (off : BitVec 32) | callFar (g : Guard) (off : BitVec 32)
  -- lane stream: compares, memory, atomics (R156, R191, R199)
  | cmp (d : Bool) (cond : Cond) (ty : Ty) (pa pb : Fin 8) (ct : Combine) (g : Guard)
  | ld (d : Bool) (sp : Space) (sz : LdSize) (rh : Hint) (off : BitVec 13)
  | st (d : Bool) (sp : Space) (sz : StSize) (rh : Hint) (g : Guard) (off : BitVec 13)
  | atom (d : Bool) (op : AtomOp) (sp : Space) (w64 : Bool) (g : Guard) (ret : Bool) (off : BitVec 13)
  -- lane stream: cross-lane, transfer slots, barriers, seams, predicates (R158, R159, R170 to R183)
  | perm (ty : Ty) | bcast (ty : Ty)
  | vote (k : VoteKind) (pd : Fin 8) (neg : Bool)
  | red (op : RedOp) (ty : Ty) | scan (op : RedOp) (ty : Ty) (excl : Bool)
  | xput (x : Fin 16) | xget (x : Fin 16)
  | barArrive (b : Fin 16) (absent gang : Bool) | barWait (b : Fin 16) (gang : Bool)
  | gangPhaseComplete (ctx : Fin 8) (gang : Nat) (b : Fin 16)
  | seam (j : Fin 8) | mend (j : Fin 8) (delta : BitVec 5)
  | lostReconvergenceRelease (core gslot : Nat)
  | plog (tbl : BitVec 4) (pd : Fin 8) (neg : Bool) (a b : Fin 8)
  -- lane stream: engines, work, accumulators, special registers (R78, R201 to R211, R283 to R319, R332)
  | wait (l s : BitVec 6) (c t : BitVec 5)
  | tld (v : Fin 16) | tst (v : Fin 16) | xfer (v : Fin 16)
  | ringSub (q v : Fin 16) | ringDrain (q v : Fin 16) | ringGet (q : Fin 16)
  | ringPut (q : Fin 16) (g : Guard) | ringDone (q : Fin 16) (g : Guard) | ringEos (q : Fin 16) (g : Guard)
  | taskDone (g : Guard) | taskArm (g : Guard)
  | wqPush (w : Fin 16) (g : Guard) | wqPushTry (w : Fin 16) (g : Guard) (r : Fin 8)
  | wqPop (w : Fin 16) (g : Guard) | wqPopTry (w : Fin 16) (g : Guard) (r : Fin 8)
  | spawn (e : Fin 64) (n : Fin 5) (g : Guard) | spawnTry (e : Fin 64) (n : Fin 5) (g : Guard)
  | acq (a : Fin 16) | rel (a : Fin 16) | accLd (a : Fin 16) | accSt (a : Fin 16)
  | mstart (off : BitVec 14)
  | fred (v : Fin 16) (s : Fin 64)
  | fence (sc : FenceScope) | fenceComplete (f : FragRef)
  | rdsr (r : BitVec 12) | wrsr (r : BitVec 12)
  | trap (k : Byte) | tret (next : Bool) | mark (k : Fin 16) | svc (n : BitVec 14)
  | spawnFlush (e : Fin 64)
  | vset (d : Bool) (f : Fin 15) (v : Fin 16) (imm : BitVec 32)
  | cvt (md : Rm) (src dst : Ty) (d : Bool)
  | sel (ty : Ty) (g : Guard) (d : Bool)
  | amul (md : Rm) (dim : Dim) (t : Fin 4) (rev : Bool) (d : Bool)
  | qcvt (src dst : Ty) (half : BitVec 6)
  | pick (n : BitVec 11) (d : Bool) | roll (n : BitVec 11) (d : Bool)
  | region (base : BitVec 11) (count : BitVec 12)
  -- events of the lane and transfer engines
  | loadDataReturn (op : Nat)
  | starvationPromotion (f : FragRef)
  | translationResolved (f : FragRef)
  | page (f : FragRef)
  | fetchFill (core : Nat) (line : Nat)
  | engineOpComplete (op : Nat)
  | engineOpStart (op : Nat)
  -- matrix stream (R248 to R271)
  | mma (x : MmaArgs) | mmay (x : MmayArgs)
  | mzero (c : Fin 16)
  | mld (c : Fin 16) (a : Fin 32) (nc mc : Fin 4) (ta zero : Bool) (rm : Rm)
  | mst (a : Fin 32) (c : Fin 16) (nc mc : Fin 4) (ta : Bool) (dcf : Dcf) (rm : Rm)
  | mqdual (a b : Fin 32) (c : Fin 16) (nc mc : Fin 4) (dcf : Dcf)
  | malg (g : Fin 4) (v : Fin 32) (dim : Fin 4)
  | myoke (ac au : Fin 16) | mguide (c : Fin 16)
  | mview (t : Fin 32) (sp : TSpace) (base : BitVec 32) (rs : BitVec 12) (ty : Ty)
  | mlin (t : Fin 32) (f : LinForm)
  | marv (b : Fin 16) | mwt (b : Fin 16) | mgive (a : Fin 16) | mtake (a : Fin 16)
  | mloop (n : BitVec 16) (off : BitVec 32) | mjmp (off : BitVec 32)
  | mseed (k : BitVec 16) | mscale (v : Fin 32)
  | matrixOpStart (t : TeamRef) | matrixOpComplete (t : TeamRef) | arrayGrant (core : Nat)
  -- events of rings, launches, tasks, pockets
  | ringSubscriptionFill (t : TeamRef) (q : Fin 16) | ringFillComplete (op : Nat)
  | ringDrainTake (t : TeamRef) (q : Fin 16) | ringDrainWriteComplete (op : Nat)
  | launch (q : Fin 64)
  | launchAdmit (q : Fin 64) (place : List Rect) (lanes : Mask)
  | teamRetire (t : TeamRef) | launchComplete (ctx : Fin 8) | launchStop (ctx : Fin 8)
  | taskArmApply (op : Nat) | taskDoneApply (op : Nat)
  | pocketTimerExpire (t : TeamRef) (e : Fin 64)
  | childGroupStart (t : TeamRef) | swapOut (t : TeamRef)
  | deadlockCheck (ctx : Fin 8)
  -- events of host, fabric and reduction
  | hostLinkTrain (link : Fin 2) (m : LinkMode) | hostLinkDown (link : Fin 2) | hostAckTimeout (link : Fin 2)
  | hostCxlMemRead (link : Fin 2) (pa len : Nat) | hostCxlMemWrite (link : Fin 2) (pa : Nat) (bytes : List Byte)
  | hostAtomic (link : Fin 2) (pa : Nat) (op : AtomOp) (w64 : Bool) (cmp v : Word)
  | bar2Access (w : Writer) (off : Nat) (wr : Option (List Byte)) (len : Nat)
  | fabricLinkTrain (link : Fin 16) (width : Fin 4) (peer : Byte)
  | flitCrcError (link : Fin 16) (recovered : Bool)
  | sctlWrite (s : Writer × Fin 64) (v : BitVec 32)
  | reductionContributionArrive (x : Arrival)
  | reductionUplinkResult (s : Fin 64) (round : BitVec 16) (vals : List (BitVec 32))
  | fredComplete (op : Nat)
  | reductionRoundTimeout (s : Fin 64)
  -- Tison (R335 to R342)
  | tnRingf (rd : Fin 32) (q : Fin 64)
  | tnBfx (rd rs1 : Fin 32) (pos lenM1 : Fin 64)
  | tnSigw (rd rs1 : Fin 32) (t : BitVec 12)
  | tnSigwTimeout (core : Fin 4)
  | tnDisp (rs1 rs2 : Fin 32)
  | doorbell (q : Writer × Fin 64) (tail : BitVec 12)
  | rheadWrite (q : Writer × Fin 64) (v : BitVec 32)
  | completionEntryWrite (q : Fin 64)
  | signal (q : Fin 64) | waitCommand (q : Fin 64) | waitCommandTimeout (q : Fin 64)
  | bias (q : Fin 64)
  | shrink (q : Fin 64) (place : List Rect)
  | powerTarget (q : Fin 64) | powerCollarCap (q : Fin 64)
  | dieGate (q : Fin 64) | dieUngate (q : Fin 64) | powerSafeCap (q : Fin 64)
  | copy (q : Fin 64)
  | svcEcho (f : FragRef) | svcNotice (f : FragRef) | svcReadProgress (f : FragRef) | svcMakeResident (f : FragRef)
  -- power (R345 to R355)
  | controlInterval (lims : List Limits)
  | ictlWrite (isl : Fin 48) (v : BitVec 5)
  | moveComplete (isl : Fin 48)
  | collarGrant (isl : Fin 48)
  | overCurrentCheck (isl : Fin 48) (milliamps : Nat)
  | rackCapMessage (seq cap valid : Nat)
  | quiesceRequest (isl : Fin 48) | quiesceCancel (isl : Fin 48) | coreQuiesced (isl : Fin 48) (c : Fin 12)
  | retentionSave (isl : Fin 48) | retentionSaveComplete (isl : Fin 48)
  | clockGate (isl : Fin 48) | clockUngate (isl : Fin 48) | railRetain (isl : Fin 48) | railOff (isl : Fin 48)
  | wake (isl : Fin 48) | wakeComplete (isl : Fin 48)
  | icollarWrite (isl : Fin 48) (v : BitVec 16)
  | registerWrite (r : Writer × RegId) (v : Word)
  -- debug (R356 to R365)
  | traceRecordWrite (r : TraceRec)
  | singleStep (t : TeamRef) (b : Fin 16) (p : Nat)
  | debugAccRead (t : TeamRef) (a : Fin 16)
  | breakpoint (f : FragRef) | debugResume (f : FragRef) (next : Bool)
  | causalExperimentStart (ctx : Fin 8) (lo hi : Word) (f : Nat)
  | causalDelay (ctx : Fin 8) (core : Nat)
  -- bring-up and reliability (R366 to R375)
  | fabricLinkRetryTimer (link : Fin 16) (width : Fin 4) (peer : Byte)
  | firmwareStage (image : List Byte)
  | recoveryImageStage (image : List Byte)
  | attestationRequest (nonce : List Byte)
  | lifeCycleToken (target : LifeCycle) (token : List Byte)
  | selfTest (sp line : Nat) (uncorrected : Bool)
  | selfTestComplete (sp line : Nat) (pass spare : Bool)
  | storeAcknowledged (op : Nat)
  | burstReservationRelease (isl : Fin 48)
  | yieldExpiry (f : FragRef)
  | fabricLinkDown (link : Fin 16)
  | causalExperimentEnd (ctx : Fin 8)
  -- rows that name nothing: of the lane stream, of the matrix stream, events
  | nop | ret | exit | yield | brk | lane | s2l | ballot | ppush | ppop | disp | taskGet | cwait
  | mnop | mhalt
  | biasFlipComplete | capExpiry | thermalTrip | systemStop | systemResume | stepComplete | snapshotTrigger | moduleReset
  | powerLoss
  deriving DecidableEq, Repr

end Sys2Proof
end

