-- ==== Sys2Proof/Machine/Float.lean ====
section
/-!
DEFINITION. Number formats to the bit, the rounding modes, the flags and the stochastic generator (R32 to R46), and the
exact operations on decoded values from which the arithmetic instructions are built.
-/
namespace Sys2Proof.Machine

/-! ## Flags (R41, R44): bit 4 NV, 3 DZ, 2 OF, 1 UF, 0 NX -/

/-- The five sticky flags. -/
abbrev Flags := BitVec 5
/-- Invalid operation. -/
def fNV : Flags := 16
/-- Division by zero. -/
def fDZ : Flags := 8
/-- Overflow. -/
def fOF : Flags := 4
/-- Underflow. -/
def fUF : Flags := 2
/-- Inexact. -/
def fNX : Flags := 1
/-- `f` where `b` holds, no flag elsewhere. -/
def flagIf (b : Bool) (f : Flags) : Flags := if b then f else 0

/-! ## Formats (R32, R35, R36) -/

/-- How a format treats its top exponent (R32, R35, R36). -/
inductive FmtKind where
  | ieee | e4m3 | f4
  deriving DecidableEq, Repr

/-- A binary format: exponent bits, fraction bits, bias, kind. -/
structure Fmt where
  eb   : Nat
  mb   : Nat
  bias : Int
  kind : FmtKind
  deriving DecidableEq, Repr

def fmtF64 : Fmt := { eb := 11, mb := 52, bias := 1023, kind := .ieee }
def fmtF32 : Fmt := { eb := 8, mb := 23, bias := 127, kind := .ieee }
def fmtF16 : Fmt := { eb := 5, mb := 10, bias := 15, kind := .ieee }
def fmtBf16 : Fmt := { eb := 8, mb := 7, bias := 127, kind := .ieee }
def fmtE5m2 : Fmt := { eb := 5, mb := 2, bias := 15, kind := .ieee }
def fmtE4m3 : Fmt := { eb := 4, mb := 3, bias := 7, kind := .e4m3 }
def fmtF4 : Fmt := { eb := 2, mb := 1, bias := 1, kind := .f4 }

/-- Width of the format in bits. -/
def Fmt.bits (f : Fmt) : Nat := f.eb + f.mb + 1
/-- The sign bit's weight. -/
def Fmt.signW (f : Fmt) : Nat := 2 ^ (f.eb + f.mb)
/-- Exponent of the subnormal unit in the last place. -/
def Fmt.qmin (f : Fmt) : Int := 1 - f.bias - f.mb
/-- The exponent of the smallest normal number. -/
def Fmt.emin (f : Fmt) : Int := 1 - f.bias
/-- The largest finite code (R32, R35, R36), sign clear. -/
def Fmt.maxCode (f : Fmt) : Nat :=
  match f.kind with
  | .ieee => (2 ^ f.eb - 1) * 2 ^ f.mb - 1
  | .e4m3 => 0x7E
  | .f4 => 7
/-- The code of +infinity in an IEEE-like format. -/
def Fmt.infCode (f : Fmt) : Nat := (2 ^ f.eb - 1) * 2 ^ f.mb
/-- The canonical NaN (R32, R33, R35); a format without NaN gives 0 (R42). -/
def Fmt.nanCode (f : Fmt) : Nat :=
  match f.kind with
  | .ieee => f.infCode + 2 ^ (f.mb - 1)
  | .e4m3 => 0x7F
  | .f4 => 0

/-- A decoded value: `fin neg m e` is (-1)^neg * m * 2^e. -/
inductive FVal where
  | nan (signalling : Bool)
  | inf (neg : Bool)
  | fin (neg : Bool) (m : Nat) (e : Int)
  deriving DecidableEq, Repr

/-- Decodes a code of format `f` (R32, R35, R36). -/
def decodeF (f : Fmt) (w : Nat) : FVal :=
  let neg := field w (f.eb + f.mb) (f.eb + f.mb) == 1
  let ef := field w (f.eb + f.mb - 1) f.mb
  let mf := w % 2 ^ f.mb
  if f.kind = .ieee ∧ ef = 2 ^ f.eb - 1 then
    if mf = 0 then .inf neg else .nan (mf < 2 ^ (f.mb - 1))
  else if f.kind = .e4m3 ∧ ef = 15 ∧ mf = 7 then .nan false
  else if ef = 0 then .fin neg mf f.qmin
  else .fin neg (mf + 2 ^ f.mb) (f.qmin + (ef : Int) - 1)

/-- The value is zero. -/
def FVal.isZero : FVal → Bool
  | .fin _ m _ => m == 0
  | _ => false
/-- The value is a NaN. -/
def FVal.isNan : FVal → Bool
  | .nan _ => true
  | _ => false
/-- The value is a signalling NaN. -/
def FVal.isSnan : FVal → Bool
  | .nan s => s
  | _ => false
/-- The sign, false for a NaN. -/
def FVal.sign : FVal → Bool
  | .fin n _ _ => n
  | .inf n => n
  | .nan _ => false
/-- The value with its sign flipped. -/
def FVal.negate : FVal → FVal
  | .fin n m e => .fin (!n) m e
  | .inf n => .inf (!n)
  | .nan s => .nan s

/-- `m * 2^k` for a possibly negative `k`, rounding toward zero. -/
def shiftBy (m : Nat) (k : Int) : Nat := if 0 ≤ k then m <<< k.toNat else m >>> (-k).toNat

/-! ## Rounding (R41, R45) -/

/-- Rounds the magnitude (m + s)*2^e, where s is 0, or strictly between 0 and 1 if `sticky`, to a multiple of 2^q. Answers
the multiple and whether it differs from the value. `u` is the generator's value for rsr (R45). -/
def roundAt (md : Rm) (u : Nat) (neg : Bool) (m : Nat) (e : Int) (sticky : Bool) (q : Int) : Nat × Bool :=
  if q ≤ e then (m <<< (e - q).toNat, sticky)
  else
    let sh := (q - e).toNat
    let k := m >>> sh
    let r := m % 2 ^ sh
    let h := 2 ^ (sh - 1)
    let inexact := r != 0 || sticky
    let above := decide (h < r) || (r == h && sticky)
    let tie := r == h && !sticky
    let up := match md with
      | .rne | .sat | .dyn => above || (tie && k % 2 == 1)
      | .rna => above || tie
      | .rtz | .rsr => false
      | .rdn => neg && inexact
      | .rup => !neg && inexact
    match md with
    | .rsr => ((m * 65536 + u * 2 ^ sh) / 2 ^ (sh + 16), inexact)
    | _ => (if up then k + 1 else k, inexact)

/-- The delivered code where a finite value overflows (R42). -/
def overflowCode (f : Fmt) (md : Rm) (neg : Bool) : Nat :=
  let s := if neg then f.signW else 0
  let big := match f.kind with
    | .ieee => s + f.infCode
    | .e4m3 => s + 0x7F
    | .f4 => s + f.maxCode
  match md with
  | .rne | .rna | .rsr | .dyn => big
  | .rtz | .sat => s + f.maxCode
  | .rdn => if neg then big else f.maxCode
  | .rup => if neg then s + f.maxCode else big

/-- Rounds the value (-1)^neg * (m + s)*2^e into `f` (R41, R42): code and flags. With `sticky`, `m` has at least two bits
below the place the format rounds at. -/
def roundTo (f : Fmt) (md : Rm) (u : Nat) (neg : Bool) (m : Nat) (e : Int) (sticky : Bool) : Nat × Flags :=
  let s := if neg then f.signW else 0
  if m = 0 ∧ sticky = false then (s, 0)
  else
    let top : Int := e + (Nat.log2 m : Int)
    let qu : Int := top - f.mb
    let q : Int := if qu < f.qmin then f.qmin else qu
    let (k, inexact) := roundAt md u neg m e sticky q
    let (ku, _) := roundAt md u neg m e sticky qu
    let tiny := decide (top < f.emin) && !(ku == 2 ^ (f.mb + 1) && top + 1 == f.emin)
    let (k, q) := if k = 2 ^ (f.mb + 1) then (2 ^ f.mb, q + 1) else (k, q)
    let code := if k < 2 ^ f.mb then k else (q - f.qmin + 1).toNat * 2 ^ f.mb + (k - 2 ^ f.mb)
    if f.maxCode < code then (overflowCode f md neg, fOF ||| fNX)
    else (s + code, flagIf inexact fNX ||| flagIf (inexact && tiny) fUF)

/-- The code an infinity of sign `neg` converts to, with its flags (R42). -/
def infTo (f : Fmt) (md : Rm) (neg : Bool) : Nat × Flags :=
  let s := if neg then f.signW else 0
  match f.kind with
  | .ieee =>
    let c := overflowCode f md neg
    if c = s + f.infCode then (c, 0) else (c, fNX)
  | _ => (overflowCode f md neg, fNV)

/-- One conversion of a decoded value into `f` (R33, R42, R148). -/
def convertTo (f : Fmt) (md : Rm) (u : Nat) (v : FVal) : Nat × Flags :=
  match v with
  | .nan s => (f.nanCode, flagIf (s || f.kind = .f4) fNV)
  | .inf n => infTo f md n
  | .fin n m e => roundTo f md u n m e false

/-- An infinity as the result of an operation in an IEEE format (no rounding takes place). -/
def infCodeOf (f : Fmt) (neg : Bool) : Nat := (if neg then f.signW else 0) + f.infCode

/-- The mode in force: dyn takes `%lcw`.DRM (R41, R44). -/
def resolveMode (md : Rm) (drm : Nat) : Rm :=
  match md with
  | .dyn => match drm with
    | 0 => .rne | 1 => .rtz | 2 => .rdn | 3 => .rup | 4 => .rna | 5 => .rsr | _ => .rne
  | m => m

/-! ## The stochastic generator (R45, R46) -/

/-- One step of the xorshift generator (R45). -/
def genStep (x : Half) : Half :=
  let x := x ^^^ (x <<< 13)
  let x := x ^^^ (x >>> 17)
  x ^^^ (x <<< 5)

/-- The uniform value after a step (R45). -/
def genU (x : Half) : Nat := x.toNat >>> 16

/-- The seed of index `i` (R46, R258). -/
def genSeed (seed : Half) (i : Nat) : Half :=
  let x := seed ^^^ BitVec.ofNat 32 ((i + 1) * 0x9E3779B9)
  if x = 0 then 0x9E3779B9 else x

/-- A rounding's generator value and the generator after it: one step in rsr, none elsewhere (R45). -/
def genFor (md : Rm) (x : Half) : Nat × Half :=
  match md with
  | .rsr => (genU (genStep x), genStep x)
  | _ => (0, x)

/-! ## Exact operations -/

/-- The exact sum as mantissa and exponent. -/
def exactAdd (z1 : Int) (e1 : Int) (z2 : Int) (e2 : Int) : Int × Int :=
  if e1 ≤ e2 then (z1 + z2 * (2 ^ (e2 - e1).toNat : Nat), e1) else (z1 * (2 ^ (e1 - e2).toNat : Nat) + z2, e2)

/-- The signed mantissa. -/
def signedM (neg : Bool) (m : Nat) : Int := if neg then -(m : Int) else (m : Int)

/-- Compares two finite values. -/
def finCmp (n1 : Bool) (m1 : Nat) (e1 : Int) (n2 : Bool) (m2 : Nat) (e2 : Int) : Ordering :=
  compare (exactAdd (signedM n1 m1) e1 (-(signedM n2 m2)) e2).1 0

/-- Orders two values that are not NaN, with -0 equal to +0 (R156). -/
def FVal.cmp : FVal → FVal → Ordering
  | .inf n1, .inf n2 => if n1 = n2 then .eq else if n1 then .lt else .gt
  | .inf n1, _ => if n1 then .lt else .gt
  | _, .inf n2 => if n2 then .gt else .lt
  | .fin n1 m1 e1, .fin n2 m2 e2 => finCmp n1 m1 e1 n2 m2 e2
  | _, _ => .eq

/-- `a` precedes `b` in the order of min and max, where -0 is below +0 (R142). -/
def FVal.lt (a b : FVal) : Bool :=
  match FVal.cmp a b with
  | .lt => true
  | .gt => false
  | .eq => a.sign && !b.sign

/-- Integer square root by bits: the largest `r` with r*r at most `n`, for n below 4^k. -/
def isqrt (n : Nat) : Nat → Nat → Nat
  | 0, r => r
  | k + 1, r =>
    let c := r + 2 ^ k
    isqrt n k (if c * c ≤ n then c else r)

/-- The code and flags of a result that is NaN through an invalid operation. -/
def invalidF (f : Fmt) : Nat × Flags := (f.nanCode, fNV)

/-- Whether any of the values is a signalling NaN. -/
def anySnan (vs : List FVal) : Bool := vs.any FVal.isSnan
/-- Whether any of the values is a NaN. -/
def anyNan (vs : List FVal) : Bool := vs.any FVal.isNan

/-- The zero that an exact zero sum delivers: the common sign of two zeros of one sign, else -0 in rdn and +0 elsewhere
(R141). -/
def zeroSum (f : Fmt) (md : Rm) (n1 n2 : Bool) : Nat :=
  if (if n1 = n2 then n1 else md = .rdn) then f.signW else 0

/-- IEEE addition (R141). -/
def addF (f : Fmt) (md : Rm) (u : Nat) (a b : FVal) : Nat × Flags :=
  if anyNan [a, b] then (f.nanCode, flagIf (anySnan [a, b]) fNV)
  else match a, b with
  | .inf n1, .inf n2 => if n1 = n2 then (infCodeOf f n1, 0) else invalidF f
  | .inf n1, _ => (infCodeOf f n1, 0)
  | _, .inf n2 => (infCodeOf f n2, 0)
  | .fin n1 m1 e1, .fin n2 m2 e2 =>
    let (z, e) := exactAdd (signedM n1 m1) e1 (signedM n2 m2) e2
    if z = 0 then
      (if m1 = 0 ∧ m2 = 0 then zeroSum f md n1 n2 else if md = .rdn then f.signW else 0, 0)
    else roundTo f md u (decide (z < 0)) z.natAbs e false
  | _, _ => invalidF f

/-- IEEE multiplication (R141). -/
def mulF (f : Fmt) (md : Rm) (u : Nat) (a b : FVal) : Nat × Flags :=
  if anyNan [a, b] then (f.nanCode, flagIf (anySnan [a, b]) fNV)
  else if (a.isZero && !b.isZero && b matches .inf _) || (b.isZero && a matches .inf _) then invalidF f
  else match a, b with
  | .fin n1 m1 e1, .fin n2 m2 e2 => roundTo f md u (n1 != n2) (m1 * m2) (e1 + e2) false
  | _, _ => (infCodeOf f (a.sign != b.sign), 0)

/-- IEEE division (R141). -/
def divF (f : Fmt) (md : Rm) (u : Nat) (a b : FVal) : Nat × Flags :=
  if anyNan [a, b] then (f.nanCode, flagIf (anySnan [a, b]) fNV)
  else match a, b with
  | .inf _, .inf _ => invalidF f
  | .inf n1, _ => (infCodeOf f (n1 != b.sign), 0)
  | .fin n1 _ _, .inf n2 => (if n1 != n2 then f.signW else 0, 0)
  | .fin n1 m1 e1, .fin n2 m2 e2 =>
    if m2 = 0 then (if m1 = 0 then invalidF f else (infCodeOf f (n1 != n2), fDZ))
    else if m1 = 0 then (if n1 != n2 then f.signW else 0, 0)
    else
      let n := m1 <<< 200
      roundTo f md u (n1 != n2) (n / m2) (e1 - e2 - 200) (n % m2 != 0)
  | _, _ => invalidF f

/-- Fused multiply-add with one rounding (R141). -/
def fmaF (f : Fmt) (md : Rm) (u : Nat) (a b c : FVal) : Nat × Flags :=
  let infZero := (a.isZero && b matches .inf _) || (b.isZero && a matches .inf _)
  if anyNan [a, b, c] then (f.nanCode, flagIf (anySnan [a, b, c] || infZero) fNV)
  else if infZero then invalidF f
  else match a, b, c with
  | .fin n1 m1 e1, .fin n2 m2 e2, .fin n3 m3 e3 =>
    let np := n1 != n2
    let (z, e) := exactAdd (signedM np (m1 * m2)) (e1 + e2) (signedM n3 m3) e3
    if z = 0 then
      (if m1 * m2 = 0 ∧ m3 = 0 then zeroSum f md np n3 else if md = .rdn then f.signW else 0, 0)
    else roundTo f md u (decide (z < 0)) z.natAbs e false
  | .fin _ _ _, .fin _ _ _, _ => (infCodeOf f c.sign, 0)
  | _, _, .inf n3 => if (a.sign != b.sign) = n3 then (infCodeOf f n3, 0) else invalidF f
  | _, _, _ => (infCodeOf f (a.sign != b.sign), 0)

/-- IEEE square root (R141). -/
def sqrtF (f : Fmt) (md : Rm) (u : Nat) (a : FVal) : Nat × Flags :=
  match a with
  | .nan s => (f.nanCode, flagIf s fNV)
  | .inf n => if n then invalidF f else (f.infCode, 0)
  | .fin n m e =>
    if m = 0 then (if n then f.signW else 0, 0)
    else if n then invalidF f
    else
      let m1 := if e % 2 = 0 then m else 2 * m
      let e1 := if e % 2 = 0 then e else e - 1
      let t := m1 <<< 200
      let r := isqrt t 130 0
      roundTo f md u false r ((e1 - 200) / 2) (r * r != t)

/-- 1/x rounded once (R144). -/
def rcpF (f : Fmt) (a : FVal) : Nat × Flags :=
  match a with
  | .nan s => (f.nanCode, flagIf s fNV)
  | .inf n => (if n then f.signW else 0, 0)
  | .fin n m e => divF f .rne 0 (.fin false 1 0) (.fin n m e)

/-- 1/sqrt(x) rounded once (R144). -/
def rsqrtF (f : Fmt) (a : FVal) : Nat × Flags :=
  match a with
  | .nan s => (f.nanCode, flagIf s fNV)
  | .inf n => if n then invalidF f else (0, 0)
  | .fin n m e =>
    if m = 0 then (infCodeOf f n, fDZ)
    else if n then invalidF f
    else
      let m1 := if e % 2 = 0 then m else 2 * m
      let e1 := if e % 2 = 0 then e else e - 1
      let r := isqrt (2 ^ 400 / m1) 202 0
      roundTo f .rne 0 false r (-(e1 / 2) - 200) (r * r * m1 != 2 ^ 400)

/-- min (R142), without the code's canonicalisation: the chosen value. -/
def minF (a b : FVal) : FVal :=
  if a.isNan then b else if b.isNan then a else if b.lt a then b else a
/-- max (R142). -/
def maxF (a b : FVal) : FVal :=
  if a.isNan then b else if b.isNan then a else if a.lt b then b else a

/-- Encodes a value that is representable in `f`. -/
def encodeF (f : Fmt) (v : FVal) : Nat := (match v with
  | .nan _ => (f.nanCode, (0 : Flags))
  | .inf n => (infCodeOf f n, 0)
  | .fin n m e => roundTo f .rtz 0 n m e false).1

/-- Rounding to an integral value of the same format (R143). NX is set when `nx` and the result differs. -/
def integralF (f : Fmt) (md : Rm) (u : Nat) (nx : Bool) (a : FVal) : Nat × Flags :=
  match a with
  | .nan s => (f.nanCode, flagIf s fNV)
  | .inf n => (infCodeOf f n, 0)
  | .fin n m e =>
    let (k, inexact) := roundAt md u n m e false 0
    if 0 ≤ e then (encodeF f a, 0)
    else ((roundTo f .rtz 0 n k 0 false).1, flagIf (nx && inexact) fNX)

/-- Float to integer of the range [lo, hi] (R43): value and flags. -/
def floatToInt (md : Rm) (u : Nat) (lo hi : Int) (a : FVal) : Int × Flags :=
  match a with
  | .nan _ => (0, fNV)
  | .inf n => (if n then lo else hi, fNV)
  | .fin n m e =>
    let (k, inexact) := roundAt md u n m e false 0
    let z := signedM n k
    if z < lo then (lo, fNV) else if hi < z then (hi, fNV) else (z, flagIf inexact fNX)

/-! ## DS8 (R38 to R40) and I8 (R37) -/

/-- 64 times the term of a DS8 code (R38). -/
def ds8Term64 (c : Nat) : Int := if c = 0 then 0 else (2 ^ (7 - c) : Nat)

/-- The value of a DS8 byte (R38). -/
def decodeDs8 (w : Nat) : FVal :=
  let z := (if field w 7 7 = 1 then -1 else 1) * ds8Term64 (field w 6 4)
    + (if field w 3 3 = 1 then -1 else 1) * ds8Term64 (field w 2 0)
  .fin (decide (z < 0)) z.natAbs (-6)

/-- The code of the term nearest to m*2^e, a tie going to the larger (R40): 0 for the zero term. -/
def ds8Nearest (m : Nat) (e : Int) : Nat → Nat → Nat
  | 0, _ => 0
  | k + 1, c =>
    -- the midpoint below term(c): 3*2^(-c-1), or 2^-7 below the last
    let (n, q) : Nat × Int := if c = 7 then (1, -7) else (3, -(c : Int) - 1)
    if finCmp false m e false n q != .lt then c else ds8Nearest m e k (c + 1)

/-- Encodes a real value to DS8 (R40): byte and flags. -/
def encodeDs8 (v : FVal) : Nat × Flags :=
  match v with
  | .nan _ => (0, fNV)
  | .inf n => (if n then 0x99 else 0x11, fNV)
  | .fin n m e =>
    let c1 := ds8Nearest m e 7 1
    if c1 = 0 then (0, flagIf (m != 0) fNX)
    else
      let t1 := signedM n (ds8Term64 c1).natAbs
      let (z, ez) := exactAdd (signedM n m) e (-t1) (-6)
      let c2 := ds8Nearest z.natAbs ez 7 1
      let n2 := decide (z < 0) && c2 != 0
      let byte := (bit n) * 128 + c1 * 16 + (bit n2) * 8 + c2
      let (d, _) := exactAdd z ez (-(signedM n2 (ds8Term64 c2).natAbs)) (-6)
      (byte, flagIf (d != 0) fNX)

/-! ## Quantization (R52, R53) -/

/-- floor(log2) of a nonzero finite magnitude. -/
def floorLog2 (m : Nat) (e : Int) : Int := (Nat.log2 m : Int) + e

/-- The larger magnitude of two finite values. -/
def maxMag (a b : Nat × Int) : Nat × Int :=
  if finCmp false a.1 a.2 false b.1 b.2 = .lt then b else a

/-- The scale byte of a block (R52, steps 1 to 5; R53 for ds8): none where the block holds a NaN or infinity. -/
def blockScale (dst : Ty) (vs : List FVal) : Option Nat :=
  if vs.any (fun v => v.isNan || v matches .inf _) then none
  else
    let amax := (vs.map (fun v => match v with | .fin _ m e => (m, e) | _ => (0, 0))).foldl maxMag (0, 0)
    if amax.1 = 0 then some 0
    else
      let emax : Int := match dst with
        | .e4m3 => 8 | .e5m2 => 15 | .f4 => 2 | .i8 => 6 | _ => 0
      let x := floorLog2 amax.1 amax.2 - emax + 127
      some (if x < 0 then 0 else if 254 < x then 254 else x.toNat)

/-- The flags a quantized element can set: OF and NX (R52, R149). -/
def quantFlags (r : Nat × Flags) : Nat × Flags := (r.1, r.2 &&& (fOF ||| fNX))

/-- One element of a block quantized with scale byte `s` (R52 step 6, R53): code and flags. -/
def quantElem (dst : Ty) (s : Nat) (v : FVal) : Nat × Flags :=
  match v with
  | .fin n m e =>
    let v' := FVal.fin n m (e - ((s : Int) - 127))
    match dst with
    | .ds8 => quantFlags (encodeDs8 v')
    | .e4m3 => quantFlags (convertTo fmtE4m3 .sat 0 v')
    | .e5m2 => quantFlags (convertTo fmtE5m2 .sat 0 v')
    | .f4 => quantFlags (convertTo fmtF4 .sat 0 v')
    | _ =>
      let (k, inexact) := roundAt .rne 0 n m (e - ((s : Int) - 127)) false 0
      let z := signedM n k
      if z < -127 then (129, fOF ||| fNX) else if 127 < z then (127, fOF ||| fNX)
      else ((z % 256).toNat, flagIf inexact fNX)
  | _ => (0, 0)

/-- One element of the block `vs`, whose scale byte is `sc`: where the largest magnitude is 0, every element is code 0 (R52 step 3). -/
def quantIn (dst : Ty) (vs : List FVal) (sc : Nat) (v : FVal) : Nat × Flags :=
  if vs.all (fun x => x matches .fin _ 0 _) then (0, 0) else quantElem dst sc v

/-- The value of an element code of a narrow or IEEE grain type (R50); i8 codes are integers (R37). -/
def decodeTy (ty : Ty) (w : Nat) : FVal :=
  match ty with
  | .f64 => decodeF fmtF64 w
  | .f32 => decodeF fmtF32 w
  | .h2 => decodeF fmtF16 w
  | .bh2 => decodeF fmtBf16 w
  | .e4m3 => decodeF fmtE4m3 (w % 256)
  | .e5m2 => decodeF fmtE5m2 (w % 256)
  | .f4 => decodeF fmtF4 (w % 16)
  | .ds8 => decodeDs8 (w % 256)
  | .i8 => let z := toSigned 8 (w % 256); .fin (decide (z < 0)) z.natAbs 0
  | _ => .fin false w 0

end Sys2Proof.Machine
end

