-- ==== Sys2Proof/Config.lean ====
section
/-!
DEFINITION. What the spec leaves open as values: free values without a body, which no proof can see. Each is named in the
assumption log.
-/
namespace Sys2Proof.Config

/-- How many ns the `n`-th step takes: no duration is fixed by R377 (log entry 7). -/
opaque stepNs : Nat → Nat

/-- How many cycles the `n`-th wait of R85 blocks a group; R377 fixes none (log entry 7). -/
opaque stallCycles : Nat → Nat

/-- Whether a core's L1 still holds its copy of a line at the `n`-th step: replacement is invisible but for which copies are used (R66,
R193; log entry 69). -/
opaque l1Kept : Nat → Nat → Bool

/-- Whether a core's scale cache still holds a block of lining at the `n`-th step: no rule gives its replacement (R238; log entry 69). -/
opaque scaleKept : Nat → Nat → Bool

/-- A transcendental result and its flags where the model's error bounds do not decide the rounding that R144 states
(log entry 8): the operation's OP code and its operand. -/
opaque undecided : Nat → Half → Half × BitVec 5

/-- The SHAKE256 digest of a list of bytes (R367, R369), whose algorithm stands outside the spec (log entry 9). -/
opaque digest : List Byte → List Byte

/-- Whether an image or token carries a valid ML-DSA-65 signature (R367, R370), decided outside the spec (log entry 9). -/
opaque signatureValid : List Byte → Bool

/-- The security version an image carries (R367; log entry 9). -/
opaque imageVersion : List Byte → Nat

/-- The ML-DSA-65 signature of a report under the identity key of the given generation (R369; log entry 9). -/
opaque signReport : Nat → List Byte → List Byte

/-- The digests of the ROM and of the fused configuration (R369; log entry 9). -/
opaque romDigest : List Byte
/-- The digest of the fused configuration (R369; log entry 9). -/
opaque fusedDigest : List Byte

/-- How many 4 KB granules the swap record of a group takes, whose layout no rule gives (R316; log entry 28). -/
opaque swapGranules : Nat → Nat

/-- The Tison core whose firmware writes the completion entry of the `n`-th step (R342; log entry 29). -/
opaque writerCore : Nat → Fin 4

/-- The core on which the built-in copy kernel of the `n`-th step runs (R341; log entry 30). -/
opaque copyCore : Nat → Fin 576

/-- The unit that reports the error of the `n`-th step (R374), which no rule names (log entry 37). -/
opaque errorUnit : Nat → BitVec 16

/-- The code of the life-cycle state that a signed token asks for (R370; log entry 9). -/
opaque tokenTarget : List Byte → Nat

/-- Where a firmware image is placed in the Tison memories: pairs of a key and a byte (R370; log entry 71). -/
opaque imageBytes : List Byte → List (Nat × Byte)

/-- Whether Tison core 1, 2 or 3 runs once the bring-up after the `n`-th step has started core 0 (R366; log entry 71). -/
opaque coreStarts : Nat → Nat → Bool

/-- Where in the Tison memories the error ring lies (R374; log entry 37). -/
opaque errorRing : Nat

/-- The watts that an island draws at a point in the interval of the `n`-th step, by which the module controller divides a rack cap (R351;
log entry 72). -/
opaque watts : Nat → Nat → BitVec 5 → Nat

/-- Whether the input power fails to come up in the bring-up of the `n`-th step, whether a stack or channel fails its training, and
whether the wipe fails (R366; log entry 3). -/
opaque powerFails : Nat → Bool
opaque memFails : Nat → Nat → Bool
opaque wipeFails : Nat → Bool

/-- The LPDDR6 channel that holds an address of the second tier, over which no rule divides it (R60, R366; log entry 3). -/
opaque lpChannel : Nat → Fin 40

/-- Whether an island's converter fails to come up in the bring-up of the `n`-th step (R366; log entry 3). -/
opaque islandFails : Nat → Nat → Bool

end Sys2Proof.Config
end

