-- ==== Sys2Proof/WellFormed.lean ====
section
/-!
DEFINITION. Which instructions the encodings of spec/ can hold: every field value that R111 to R128, R248 to R271 and
R335 assign. An event has no encoding and nothing to check.
-/
namespace Sys2Proof

/-- The four integer types. -/
def Ty.isInt : Ty → Bool
  | .i32 | .n32 | .i64 | .n64 => true
  | _ => false

/-- The four float types that arithmetic takes: f32, f64 and the packed pairs (R115). -/
def Ty.isFloat : Ty → Bool
  | .f32 | .f64 | .h2 | .bh2 => true
  | _ => false

/-- The two bit types. -/
def Ty.isBits : Ty → Bool
  | .b32 | .b64 => true
  | _ => false

/-- The narrow types, codes 10 to 14 (R113). -/
def Ty.isNarrow : Ty → Bool
  | .e4m3 | .e5m2 | .f4 | .ds8 | .i8 => true
  | _ => false

/-- The MD values of integer types: wrap and saturate (R43). -/
def Rm.isInt : Rm → Bool
  | .rne | .sat => true
  | _ => false

/-- The arithmetic types 1, 2, 3, 5, 6, 7, 8, 9 (R115). -/
def Ty.isArith (t : Ty) : Bool := t.isInt || t.isFloat

/-- `add`, `sub`, `mul` (R115). -/
def wfArith (md : Rm) (ty : Ty) : Bool := ty.isFloat || (ty.isInt && md.isInt)
/-- `div` (R115). -/
def wfDiv (md : Rm) (ty : Ty) : Bool := ty.isFloat || (ty.isInt && md == .rne)
/-- `neg`, `abs` (R115). -/
def wfSign (md : Rm) (ty : Ty) : Bool := (ty.isFloat && md == .rne) || (ty.isInt && md.isInt)

/-- The types a condition takes (R121). -/
def wfCond (c : Cond) (ty : Ty) : Bool :=
  !ty.isNarrow && match c with
  | .unord | .ord => ty.isFloat
  | .tst => ty.isBits
  | .ltz | .gez => ty.isFloat || ty == .i32 || ty == .i64
  | .eq | .ne | .lt | .le | .gt | .ge | .eqz | .nez => true

/-- The types `red` and `scan` take (R124). -/
def wfRed (op : RedOp) (ty : Ty) : Bool :=
  match op with
  | .and | .or | .xor => ty.isBits
  | .add | .min | .max => !ty.isNarrow && ty != .b32

/-- The conversions of R147. -/
def wfCvtPair (src dst : Ty) : Bool :=
  src != dst &&
  ((src.isInt && dst.isInt) || (src.isInt && (dst == .f32 || dst == .f64)) ||
   ((src == .f32 || src == .f64) && (dst.isInt || dst == .f32 || dst == .f64)) ||
   (src == .f32 && (dst == .h2 || dst == .bh2 || dst.isNarrow)) ||
   (dst == .f32 && (src == .h2 || src == .bh2 || src.isNarrow)))

/-- `cvt` with its mode (R148). -/
def wfCvt (md : Rm) (src dst : Ty) : Bool := wfCvtPair src dst && (!(src.isInt && dst.isInt) || md.isInt)

/-- A hint stands in space g only, and the scalar domain has no space l (R122). -/
def wfMem (d : Bool) (sp : Space) (rh : Hint) : Bool := (sp == .g || rh == .near) && !(d && sp == .l)

/-- The scalar domain has 256 slots (R118). -/
def wfSlot (d : Bool) (k : BitVec 11) : Bool := !d || k.toNat < 256

/-- `pick` and `roll` indices (R134). -/
def wfPick (d : Bool) (n : BitVec 11) : Bool := n.toNat < 1032 && (!d || n.toNat < 32)

/-- The register numbers of R89. -/
def srNumbers : List Nat :=
  [0x000, 0x001, 0x002, 0x003, 0x004, 0x005, 0x006, 0x007, 0x008, 0x009, 0x00A, 0x00B, 0x00C, 0x00D, 0x00E, 0x00F,
   0x010, 0x011, 0x012, 0x020, 0x021, 0x022, 0x023]

/-- The types a tile view takes in `mview` (R252). -/
def wfViewTy (ty : Ty) : Bool := ty == .f32 || ty == .h2 || ty == .bh2 || ty.isNarrow

/-- `mma` (R249, R250, R259, R260). -/
def wfMma (x : MmaArgs) : Bool :=
  x.rm != .dyn && (x.bq || (x.x5 == 0 && !x.rd)) && (x.aa || (x.dcf == .f32 && x.rm == .rne)) &&
  (!x.aa || ((x.dcf == .bf16 || x.dcf == .e4m3 || x.dcf == .ds8) && x.a.val < 16)) && (!x.bq || x.b.val < 16)

/-- Formats of `mqdual` (R250). -/
def wfQdual : Dcf → Bool
  | .e4m3 | .ds8 | .e5m2 | .f4 | .i8 => true
  | _ => false

/-- Whether an encoding of spec/ holds the instruction. -/
def Instr.wf : Instr → Bool
  | .add md ty _ | .sub md ty _ | .mul md ty _ => wfArith md ty
  | .mulhi ty _ | .rem ty _ => ty.isInt
  | .fma _ ty _ | .sqrt _ ty _ | .rint _ ty _ => ty.isFloat
  | .div md ty _ => wfDiv md ty
  | .neg md ty _ | .abs md ty _ => wfSign md ty
  | .min ty _ | .max ty _ | .clamp ty _ => ty.isArith
  | .floor ty _ | .ceil ty _ | .trunc ty _ | .copysign ty _ => ty.isFloat
  | .and ty _ | .or ty _ | .xor ty _ | .not ty _ | .shl ty _ | .shr ty _ | .sar ty _ | .rotl ty _ | .popc ty _
  | .clz ty _ | .ctz ty _ | .bfx ty _ | .bfi ty _ => ty.isBits
  | .get d k | .set d k | .tee d k | .inc d k _ | .get2 d k | .set2 d k | .tee2 d k | .clr d k => wfSlot d k
  | .loop _ off => 2 < off.toInt
  | .rep _ n => n != 0
  | .cmp _ c ty _ _ _ _ => wfCond c ty
  | .ld d sp _ rh _ => wfMem d sp rh
  | .st d sp _ rh _ _ => wfMem d sp rh
  | .atom _ _ sp _ _ _ _ => sp != .l
  | .perm ty | .bcast ty => !ty.isNarrow
  | .red op ty | .scan op ty _ => wfRed op ty
  | .spawnTry _ _ g => g.p != 0
  | .rdsr r | .wrsr r => srNumbers.contains r.toNat
  | .vset d _ _ imm => !d || imm == 0
  | .cvt md src dst _ => wfCvt md src dst
  | .sel ty _ _ => !ty.isNarrow
  | .qcvt src dst half =>
    (src == .f32 || src == .h2 || src == .bh2) && dst.isNarrow && decide (1 ≤ half.toNat) && decide (half.toNat ≤ 32)
  | .pick n d | .roll n d => wfPick d n
  | .mma x => wfMma x
  | .mld _ _ _ _ _ _ rm => rm != .dyn
  | .mst _ _ _ _ _ dcf rm => rm != .dyn && dcf != .i8
  | .mqdual _ _ _ _ _ dcf => wfQdual dcf
  | .mview _ _ _ rs ty => rs != 0 && wfViewTy ty
  | .mloop _ off => 2 ≤ off.toInt
  | _ => true

/-- Whether the row has an encoding at all (R111, R248, R335); an event has none. -/
def Instr.encoded : Instr → Bool
  | .gangPhaseComplete .. | .lostReconvergenceRelease .. | .fenceComplete .. | .loadDataReturn .. | .starvationPromotion ..
  | .translationResolved .. | .page .. | .fetchFill .. | .engineOpComplete .. | .engineOpStart .. | .matrixOpStart ..
  | .matrixOpComplete .. | .arrayGrant .. | .ringSubscriptionFill .. | .ringFillComplete .. | .ringDrainTake ..
  | .ringDrainWriteComplete .. | .launch .. | .launchAdmit .. | .teamRetire .. | .launchComplete .. | .launchStop ..
  | .taskArmApply .. | .taskDoneApply .. | .pocketTimerExpire .. | .childGroupStart .. | .swapOut .. | .deadlockCheck ..
  | .hostLinkTrain .. | .hostLinkDown .. | .hostAckTimeout .. | .hostCxlMemRead .. | .hostCxlMemWrite .. | .hostAtomic ..
  | .bar2Access .. | .biasFlipComplete .. | .fabricLinkTrain .. | .flitCrcError .. | .sctlWrite ..
  | .reductionContributionArrive .. | .reductionUplinkResult .. | .fredComplete .. | .reductionRoundTimeout ..
  | .tnSigwTimeout .. | .doorbell .. | .rheadWrite .. | .completionEntryWrite .. | .signal .. | .waitCommand ..
  | .waitCommandTimeout .. | .bias .. | .shrink .. | .powerTarget .. | .powerCollarCap .. | .dieGate .. | .dieUngate ..
  | .powerSafeCap .. | .copy .. | .svcEcho .. | .svcNotice .. | .svcReadProgress .. | .svcMakeResident ..
  | .controlInterval .. | .ictlWrite .. | .moveComplete .. | .collarGrant .. | .overCurrentCheck .. | .rackCapMessage ..
  | .capExpiry | .quiesceRequest .. | .quiesceCancel .. | .coreQuiesced .. | .retentionSave .. | .retentionSaveComplete ..
  | .clockGate .. | .clockUngate .. | .railRetain .. | .railOff .. | .wake .. | .wakeComplete .. | .icollarWrite ..
  | .registerWrite .. | .thermalTrip | .traceRecordWrite .. | .systemStop | .systemResume | .singleStep .. | .stepComplete ..
  | .debugAccRead .. | .breakpoint .. | .debugResume .. | .snapshotTrigger | .causalExperimentStart .. | .causalDelay ..
  | .moduleReset .. | .fabricLinkRetryTimer .. | .firmwareStage .. | .recoveryImageStage .. | .attestationRequest ..
  | .lifeCycleToken .. | .selfTest .. | .selfTestComplete .. | .storeAcknowledged .. | .burstReservationRelease ..
  | .yieldExpiry .. | .fabricLinkDown .. | .powerLoss | .causalExperimentEnd .. => false
  | _ => true

end Sys2Proof
end

