-- ==== Sys2Proof/Decode.lean ====
section
/-!
DEFINITION. The decoders of the lane stream (R111 to R128), of the matrix stream (R248 to R271) and of Tison's custom-0
words (R335), total on any bytes and rejecting by name, and after them the encoder. A word is a number whose bit 0 is the
least significant bit of the first parcel.
-/
namespace Sys2Proof

/-- Why a word is no instruction: ILLOP or ILLTY (R112, R248), firmware exception cause 24 (R337), or a word outside
custom-0, whose encoding the spec does not give (R335). -/
inductive Reject where
  | illop | illty | cause24 | base
  deriving DecidableEq, Repr

/-- TY codes (R113); 15 is reserved. -/
def tyOfCode : Nat → Option Ty
  | 0 => some .b32 | 1 => some .i32 | 2 => some .n32 | 3 => some .f32 | 4 => some .b64 | 5 => some .i64 | 6 => some .n64
  | 7 => some .f64 | 8 => some .h2 | 9 => some .bh2 | 10 => some .e4m3 | 11 => some .e5m2 | 12 => some .f4
  | 13 => some .ds8 | 14 => some .i8 | _ => none
def tyCode : Ty → Nat
  | .b32 => 0 | .i32 => 1 | .n32 => 2 | .f32 => 3 | .b64 => 4 | .i64 => 5 | .n64 => 6 | .f64 => 7 | .h2 => 8 | .bh2 => 9
  | .e4m3 => 10 | .e5m2 => 11 | .f4 => 12 | .ds8 => 13 | .i8 => 14

/-- MD codes (R41). -/
def rmOfCode : Nat → Rm
  | 0 => .rne | 1 => .rtz | 2 => .rdn | 3 => .rup | 4 => .rna | 5 => .rsr | 6 => .dyn | _ => .sat
def rmCode : Rm → Nat
  | .rne => 0 | .rtz => 1 | .rdn => 2 | .rup => 3 | .rna => 4 | .rsr => 5 | .dyn => 6 | .sat => 7

/-- Dimension codes (R116). -/
def dimOfCode : Nat → Option Dim
  | 0 => some .d2 | 1 => some .d4 | 2 => some .d8 | _ => none
def dimCode : Dim → Nat
  | .d2 => 0 | .d4 => 1 | .d8 => 2

/-- COND codes (R121). -/
def condOfCode : Nat → Option Cond
  | 0 => some .eq | 1 => some .ne | 2 => some .lt | 3 => some .le | 4 => some .gt | 5 => some .ge | 6 => some .unord
  | 7 => some .ord | 8 => some .eqz | 9 => some .nez | 10 => some .ltz | 11 => some .gez | 12 => some .tst | _ => none
def condCode : Cond → Nat
  | .eq => 0 | .ne => 1 | .lt => 2 | .le => 3 | .gt => 4 | .ge => 5 | .unord => 6 | .ord => 7 | .eqz => 8 | .nez => 9
  | .ltz => 10 | .gez => 11 | .tst => 12

/-- CT codes (R121). -/
def combineOfCode : Nat → Option Combine
  | 0 => some .norm | 1 => some .unc | 2 => some .and | 3 => some .or | 4 => some .orAndcm | 5 => some .andOrcm | _ => none
def combineCode : Combine → Nat
  | .norm => 0 | .unc => 1 | .and => 2 | .or => 3 | .orAndcm => 4 | .andOrcm => 5

/-- SPACE codes (R122). -/
def spaceOfCode : Nat → Option Space
  | 0 => some .g | 1 => some .l | 2 => some .c | 3 => some .w | 4 => some .d | _ => none
def spaceCode : Space → Nat
  | .g => 0 | .l => 1 | .c => 2 | .w => 3 | .d => 4

/-- SZ codes of loads and of stores (R122). -/
def ldSizeOfCode : Nat → Option LdSize
  | 0 => some .s8 | 1 => some .z8 | 2 => some .s16 | 3 => some .z16 | 4 => some .w32 | 5 => some .w64 | _ => none
def ldSizeCode : LdSize → Nat
  | .s8 => 0 | .z8 => 1 | .s16 => 2 | .z16 => 3 | .w32 => 4 | .w64 => 5
def stSizeOfCode : Nat → Option StSize
  | 1 => some .b8 | 3 => some .b16 | 4 => some .b32 | 5 => some .b64 | _ => none
def stSizeCode : StSize → Nat
  | .b8 => 1 | .b16 => 3 | .b32 => 4 | .b64 => 5

/-- RH codes (R122). -/
def hintOfCode : Nat → Hint
  | 0 => .near | 1 => .long | 2 => .far | _ => .noal
def hintCode : Hint → Nat
  | .near => 0 | .long => 1 | .far => 2 | .noal => 3

/-- AOP codes (R123). -/
def atomOfCode : Nat → Option AtomOp
  | 0 => some .add | 1 => some .imin | 2 => some .imax | 3 => some .nmin | 4 => some .nmax | 5 => some .and | 6 => some .or
  | 7 => some .xor | 8 => some .xchg | 9 => some .cas | 10 => some .inc | 11 => some .dec | 12 => some .fadd | _ => none
def atomCode : AtomOp → Nat
  | .add => 0 | .imin => 1 | .imax => 2 | .nmin => 3 | .nmax => 4 | .and => 5 | .or => 6 | .xor => 7 | .xchg => 8 | .cas => 9
  | .inc => 10 | .dec => 11 | .fadd => 12

/-- ARG4 of `red` and `scan` (R124). -/
def redOfCode : Nat → Option RedOp
  | 0 => some .add | 1 => some .min | 2 => some .max | 3 => some .and | 4 => some .or | 5 => some .xor | _ => none
def redCode : RedOp → Nat
  | .add => 0 | .min => 1 | .max => 2 | .and => 3 | .or => 4 | .xor => 5

/-- Vote kinds (R124). -/
def voteOfCode : Nat → Option VoteKind
  | 0 => some .any | 1 => some .all | 2 => some .eq | _ => none
def voteCode : VoteKind → Nat
  | .any => 0 | .all => 1 | .eq => 2

/-- Fence scopes (R78). -/
def scopeOfCode : Nat → Option FenceScope
  | 0 => some .host | 1 => some .die | 2 => some .dev | _ => none
def scopeCode : FenceScope → Nat
  | .host => 0 | .die => 1 | .dev => 2

/-- SPACE codes of views (R252). -/
def tspaceOfCode : Nat → Option TSpace
  | 2 => some .c | 3 => some .w | 4 => some .d | _ => none
def tspaceCode : TSpace → Nat
  | .c => 2 | .w => 3 | .d => 4

/-- DCF codes (R250). -/
def dcfOfCode : Nat → Dcf
  | 0 => .f32 | 1 => .bf16 | 2 => .e4m3 | 3 => .ds8 | 4 => .f16 | 5 => .e5m2 | 6 => .f4 | _ => .i8
def dcfCode : Dcf → Nat
  | .f32 => 0 | .bf16 => 1 | .e4m3 => 2 | .ds8 => 3 | .f16 => 4 | .e5m2 => 5 | .f4 => 6 | .i8 => 7

/-- One bit of a word. -/
def flagAt (w n : Nat) : Bool := field w n n == 1

/-- A field as an index below `2 ^ k`. -/
def idx (n : Nat) [NeZero n] (v : Nat) : Fin n := Fin.ofNat n v

/-- A guard from its PG and PN fields. -/
def guardAt (w pg pn : Nat) : Guard := { p := idx 8 (field w (pg + 2) pg), neg := flagAt w pn }

/-- ILLOP unless `ok`. -/
def need (ok : Bool) (i : Instr) : Except Reject Instr := if ok then .ok i else .error .illop

/-- ILLTY unless `ok`. -/
def needTy (ok : Bool) (i : Instr) : Except Reject Instr := if ok then .ok i else .error .illty

/-- ILLOP unless a code is assigned. -/
def withCode {α : Type} (c : Option α) (k : α → Except Reject Instr) : Except Reject Instr :=
  match c with
  | some a => k a
  | none => .error .illop

/-- ILLOP unless `ok`, before anything else. -/
def andThen (ok : Bool) (r : Except Reject Instr) : Except Reject Instr := if ok then r else .error .illop

/-- One row of R115: the types an operation takes and the modes each of them takes. -/
structure Shape where
  tys : List Ty
  mds : Ty → List Rm

def mdOne : List Rm := [.rne]
def mdInt : List Rm := [.rne, .sat]
def mdAll : List Rm := [.rne, .rtz, .rdn, .rup, .rna, .rsr, .dyn, .sat]
def tyInt : List Ty := [.i32, .n32, .i64, .n64]
def tyFloat : List Ty := [.f32, .f64, .h2, .bh2]

/-- The rows of R115. -/
def shapeArith : Shape := ⟨tyInt ++ tyFloat, fun t => if t.isInt then mdInt else mdAll⟩
def shapeDiv : Shape := ⟨tyInt ++ tyFloat, fun t => if t.isInt then mdOne else mdAll⟩
def shapeInt : Shape := ⟨tyInt, fun _ => mdOne⟩
def shapeFloat : Shape := ⟨tyFloat, fun _ => mdAll⟩
def shapeSign : Shape := ⟨tyInt ++ tyFloat, fun t => if t.isInt then mdInt else mdOne⟩
def shapePick : Shape := ⟨tyInt ++ tyFloat, fun _ => mdOne⟩
def shapeFloatOne : Shape := ⟨tyFloat, fun _ => mdOne⟩
def shapeBits : Shape := ⟨[.b32, .b64], fun _ => mdOne⟩
def shapeF32 : Shape := ⟨[.f32], fun _ => mdOne⟩
def shapeNone : Shape := ⟨[.b32], fun _ => mdOne⟩

/-- The checks of R112, steps 2 to 4, on a Z16 parcel of one row of R115. -/
def Shape.decode (sh : Shape) (w : Nat) (k : Rm → Ty → Bool → Instr) : Except Reject Instr :=
  withCode (tyOfCode (field w 12 9)) fun ty =>
    let md := rmOfCode (field w 15 13)
    andThen (sh.tys.any fun t => (sh.mds t).contains md) <|
      if !sh.tys.contains ty then .error .illty else need ((sh.mds ty).contains md) (k md ty (flagAt w 2))

/-- A Z16 row without type, mode or domain. -/
def z16Plain (w : Nat) (i : Instr) : Except Reject Instr :=
  andThen (!flagAt w 2) (shapeNone.decode w fun _ _ _ => i)

/-- `conj` and `norm` (R116). -/
def z16Algebra (w : Nat) (k : Dim → Fin 2 → Bool → Instr) : Except Reject Instr :=
  withCode (tyOfCode (field w 12 9)) fun ty =>
    withCode (dimOfCode (field w 14 13)) fun dim => needTy (ty == .f32) (k dim (idx 2 (field w 15 15)) (flagAt w 2))

/-- Z16 (R113 to R116). -/
def decodeZ16 (w : Nat) : Except Reject Instr :=
  match field w 8 3 with
  | 0x00 => z16Plain w .nop
  | 0x01 => shapeNone.decode w fun _ _ d => .dup d
  | 0x02 => shapeNone.decode w fun _ _ d => .drop d
  | 0x03 => shapeNone.decode w fun _ _ d => .swap d
  | 0x04 => shapeNone.decode w fun _ _ d => .over d
  | 0x05 => shapeNone.decode w fun _ _ d => .rot d
  | 0x06 => shapeNone.decode w fun _ _ d => .nip d
  | 0x07 => shapeNone.decode w fun _ _ d => .depth d
  | 0x08 => shapeArith.decode w fun md ty d => .add md ty d
  | 0x09 => shapeArith.decode w fun md ty d => .sub md ty d
  | 0x0A => shapeArith.decode w fun md ty d => .mul md ty d
  | 0x0B => shapeInt.decode w fun _ ty d => .mulhi ty d
  | 0x0C => shapeFloat.decode w fun md ty d => .fma md ty d
  | 0x0D => shapeDiv.decode w fun md ty d => .div md ty d
  | 0x0E => shapeInt.decode w fun _ ty d => .rem ty d
  | 0x0F => shapeSign.decode w fun md ty d => .neg md ty d
  | 0x10 => shapeSign.decode w fun md ty d => .abs md ty d
  | 0x11 => shapePick.decode w fun _ ty d => .min ty d
  | 0x12 => shapePick.decode w fun _ ty d => .max ty d
  | 0x13 => shapeBits.decode w fun _ ty d => .and ty d
  | 0x14 => shapeBits.decode w fun _ ty d => .or ty d
  | 0x15 => shapeBits.decode w fun _ ty d => .xor ty d
  | 0x16 => shapeBits.decode w fun _ ty d => .not ty d
  | 0x17 => shapeBits.decode w fun _ ty d => .shl ty d
  | 0x18 => shapeBits.decode w fun _ ty d => .shr ty d
  | 0x19 => shapeBits.decode w fun _ ty d => .sar ty d
  | 0x1A => shapeBits.decode w fun _ ty d => .rotl ty d
  | 0x1B => shapeBits.decode w fun _ ty d => .popc ty d
  | 0x1C => shapeBits.decode w fun _ ty d => .clz ty d
  | 0x1D => shapeBits.decode w fun _ ty d => .ctz ty d
  | 0x1E => shapeBits.decode w fun _ ty d => .bfx ty d
  | 0x1F => shapeBits.decode w fun _ ty d => .bfi ty d
  | 0x20 => shapeFloat.decode w fun md ty d => .sqrt md ty d
  | 0x21 => shapeF32.decode w fun _ _ d => .rsqrt d
  | 0x22 => shapeF32.decode w fun _ _ d => .rcp d
  | 0x23 => shapeF32.decode w fun _ _ d => .exp2 d
  | 0x24 => shapeF32.decode w fun _ _ d => .log2 d
  | 0x25 => shapeF32.decode w fun _ _ d => .sin d
  | 0x26 => shapeF32.decode w fun _ _ d => .cos d
  | 0x27 => shapeF32.decode w fun _ _ d => .tanh d
  | 0x28 => shapeFloatOne.decode w fun _ ty d => .floor ty d
  | 0x29 => shapeFloatOne.decode w fun _ ty d => .ceil ty d
  | 0x2A => shapeFloatOne.decode w fun _ ty d => .trunc ty d
  | 0x2B => shapeFloat.decode w fun md ty d => .rint md ty d
  | 0x2C => shapePick.decode w fun _ ty d => .clamp ty d
  | 0x2D => z16Algebra w fun dim t d => .conj dim t d
  | 0x2E => z16Algebra w fun dim t d => .norm dim t d
  | 0x2F => shapeFloatOne.decode w fun _ ty d => .copysign ty d
  | 0x30 => z16Plain w .ret
  | 0x31 => z16Plain w .exit
  | 0x32 => z16Plain w .yield
  | 0x33 => z16Plain w .brk
  | 0x34 => z16Plain w .lane
  | 0x35 => z16Plain w .s2l
  | _ => .error .illop

/-- SLOT (R118). -/
def decodeSlot (w : Nat) : Except Reject Instr :=
  let d := flagAt w 5
  let k := BitVec.ofNat 11 (field w 19 9)
  let imm := field w 31 20
  andThen (!d || k.toNat < 256) <|
    match field w 8 6 with
    | 0 => need (imm == 0) (.get d k)
    | 1 => need (imm == 0) (.set d k)
    | 2 => need (imm == 0) (.tee d k)
    | 3 => .ok (.inc d k (BitVec.ofNat 12 imm))
    | 4 => need (imm == 0) (.get2 d k)
    | 5 => need (imm == 0) (.set2 d k)
    | 6 => need (imm == 0) (.tee2 d k)
    | _ => need (imm == 0) (.clr d k)

/-- BR (R120, R167). -/
def decodeBr (w : Nat) : Except Reject Instr :=
  let g := guardAt w 8 11
  let off := BitVec.ofNat 20 (field w 31 12)
  match field w 7 5 with
  | 0 => .ok (.br g off)
  | 1 => .ok (.brl g off)
  | 2 => .ok (.bru g off)
  | 3 => .ok (.call g off)
  | 4 => need (decide (2 < off.toInt)) (.loop g off)
  | 5 => need (off != 0) (.rep g off)
  | 6 => need (off == 0) (.jmp g)
  | _ => .error .illop

/-- CMP (R121). -/
def decodeCmp (w : Nat) : Except Reject Instr :=
  andThen (field w 31 27 == 0) <|
  withCode (condOfCode (field w 9 6)) fun c =>
  withCode (combineOfCode (field w 22 20)) fun ct =>
  withCode (tyOfCode (field w 13 10)) fun ty =>
    needTy (wfCond c ty) (.cmp (flagAt w 5) c ty (idx 8 (field w 16 14)) (idx 8 (field w 19 17)) ct (guardAt w 23 26))

/-- MEM (R122). -/
def decodeMem (w : Nat) : Except Reject Instr :=
  let d := flagAt w 5
  let rh := hintOfCode (field w 14 13)
  let off := BitVec.ofNat 13 (field w 31 19)
  withCode (spaceOfCode (field w 9 7)) fun sp =>
    if flagAt w 6 then
      withCode (stSizeOfCode (field w 12 10)) fun sz => need (wfMem d sp rh) (.st d sp sz rh (guardAt w 15 18) off)
    else
      withCode (ldSizeOfCode (field w 12 10)) fun sz => need (wfMem d sp rh && field w 18 15 == 0) (.ld d sp sz rh off)

/-- ATOM (R123). -/
def decodeAtom (w : Nat) : Except Reject Instr :=
  withCode (atomOfCode (field w 9 6)) fun op =>
  withCode (spaceOfCode (field w 12 10)) fun sp =>
    need (sp != .l) (.atom (flagAt w 5) op sp (flagAt w 13) (guardAt w 14 17) (flagAt w 18) (BitVec.ofNat 13 (field w 31 19)))

/-- XLN (R124). -/
def decodeXln (w : Nat) : Except Reject Instr :=
  let imm := field w 31 17
  let neg := flagAt w 16
  let pd := field w 15 13
  let arg := field w 12 9
  let pure := pd == 0 && !neg
  match field w 8 5 with
  | 0 => andThen (pure && arg == 0 && imm < 16) <| withCode (tyOfCode imm) fun ty => needTy (!ty.isNarrow) (.perm ty)
  | 1 => andThen (pure && arg == 0 && imm < 16) <| withCode (tyOfCode imm) fun ty => needTy (!ty.isNarrow) (.bcast ty)
  | 2 => andThen (arg == 0) <| withCode (voteOfCode imm) fun k => .ok (.vote k (idx 8 pd) neg)
  | 3 => need (pure && arg == 0 && imm == 0) .ballot
  | 4 => andThen (pure && imm < 16) <| withCode (redOfCode arg) fun op => withCode (tyOfCode imm) fun ty =>
      needTy (wfRed op ty) (.red op ty)
  | 5 => andThen (pure && imm < 32) <| withCode (redOfCode arg) fun op => withCode (tyOfCode (imm % 16)) fun ty =>
      needTy (wfRed op ty) (.scan op ty (decide (16 ≤ imm)))
  | 6 => need (pure && imm == 0) (.xput (idx 16 arg))
  | 7 => need (pure && imm == 0) (.xget (idx 16 arg))
  | 8 => need (pure && imm < 4) (.barArrive (idx 16 arg) (imm % 2 == 1) (imm / 2 == 1))
  | 9 => need (pure && (imm == 0 || imm == 2)) (.barWait (idx 16 arg) (imm == 2))
  | 10 => need (pure && arg < 8 && imm == 0) (.seam (idx 8 arg))
  | 11 => need (pure && arg < 8 && imm < 32) (.mend (idx 8 arg) (BitVec.ofNat 5 imm))
  | 12 => need (pure && arg == 0 && imm == 0) .ppush
  | 13 => need (pure && arg == 0 && imm == 0) .ppop
  | 14 => need (decide (imm < 64)) (.plog (BitVec.ofNat 4 arg) (idx 8 pd) neg (idx 8 (imm % 8)) (idx 8 (imm / 8)))
  | _ => .error .illop

/-- ENG (R125). -/
def decodeEng (w : Nat) : Except Reject Instr :=
  let arg := field w 13 10
  let a := idx 16 arg
  let g := guardAt w 14 17
  let imm := field w 31 18
  let free := field w 17 14 == 0
  let e := idx 64 (imm % 4 * 16 + arg)
  match field w 9 5 with
  | 0 => .ok (.wait (BitVec.ofNat 6 (field w 15 10)) (BitVec.ofNat 6 (field w 21 16)) (BitVec.ofNat 5 (field w 26 22))
      (BitVec.ofNat 5 (field w 31 27)))
  | 1 => need (free && imm == 0) (.tld a)
  | 2 => need (free && imm == 0) (.tst a)
  | 3 => need (free && imm == 0) (.xfer a)
  | 4 => need (free && imm < 16) (.ringSub a (idx 16 imm))
  | 5 => need (free && imm < 16) (.ringDrain a (idx 16 imm))
  | 6 => need (free && imm == 0) (.ringGet a)
  | 7 => need (imm == 0) (.ringPut a g)
  | 8 => need (imm == 0) (.ringDone a g)
  | 9 => need (imm == 0) (.ringEos a g)
  | 10 => need (free && arg == 0 && imm == 0) .disp
  | 11 => need (free && arg == 0 && imm == 0) .taskGet
  | 12 => need (arg == 0 && imm == 0) (.taskDone g)
  | 13 => need (arg == 0 && imm == 0) (.taskArm g)
  | 14 => andThen (decide (imm < 16)) <|
      if imm % 2 == 1 then .ok (.wqPushTry a g (idx 8 (imm / 2))) else need (imm == 0) (.wqPush a g)
  | 15 => andThen (decide (imm < 16)) <|
      if imm % 2 == 1 then .ok (.wqPopTry a g (idx 8 (imm / 2))) else need (imm == 0) (.wqPop a g)
  | 16 => andThen (decide (imm < 64) && decide (imm / 4 % 8 < 5)) <|
      if imm / 32 == 1 then need (g.p != 0) (.spawnTry e (idx 5 (imm / 4 % 8)) g) else .ok (.spawn e (idx 5 (imm / 4 % 8)) g)
  | 17 => need (free && arg == 0 && imm == 0) .cwait
  | 18 => need (free && imm == 0) (.acq a)
  | 19 => need (free && imm == 0) (.rel a)
  | 20 => need (free && imm == 0) (.accLd a)
  | 21 => need (free && imm == 0) (.accSt a)
  | 22 => need (free && arg == 0) (.mstart (BitVec.ofNat 14 imm))
  | 23 => need (free && imm < 64) (.fred a (idx 64 imm))
  | 24 => andThen (free && imm == 0) <| withCode (scopeOfCode arg) fun sc => .ok (.fence sc)
  | 25 => need (free && arg == 0 && srNumbers.contains imm) (.rdsr (BitVec.ofNat 12 imm))
  | 26 => need (free && arg == 0 && srNumbers.contains imm) (.wrsr (BitVec.ofNat 12 imm))
  | 27 => need (free && arg == 0 && imm < 256) (.trap (BitVec.ofNat 8 imm))
  | 28 => need (free && arg == 0 && imm < 2) (.tret (imm == 1))
  | 29 => need (free && arg == 0 && imm < 16) (.mark (idx 16 imm))
  | 30 => need (free && arg == 0) (.svc (BitVec.ofNat 14 imm))
  | _ => need (free && imm < 4) (.spawnFlush e)

/-- S32 (R117 to R125). -/
def decodeS32 (w : Nat) : Except Reject Instr :=
  match field w 4 2 with
  | 0 => decodeSlot w
  | 1 => .ok (.lit (flagAt w 5) (BitVec.ofNat 26 (field w 31 6)))
  | 2 => decodeBr w
  | 3 => decodeCmp w
  | 4 => decodeMem w
  | 5 => decodeAtom w
  | 6 => decodeXln w
  | _ => decodeEng w

/-- ARX (R127). -/
def decodeArx (w : Nat) : Except Reject Instr :=
  let d := flagAt w 5
  let md := rmOfCode (field w 21 19)
  let imm := field w 47 26
  let t1 := field w 14 11
  let t2 := field w 18 15
  let free := field w 25 22 == 0
  match field w 10 6 with
  | 0 => andThen (free && imm == 0) <| withCode (tyOfCode t1) fun src => withCode (tyOfCode t2) fun dst =>
      if !wfCvtPair src dst then .error .illty else need (wfCvt md src dst) (.cvt md src dst d)
  | 1 => andThen (imm == 0 && t2 == 0 && md == .rne) <| withCode (tyOfCode t1) fun ty =>
      needTy (!ty.isNarrow) (.sel ty (guardAt w 22 25) d)
  | 2 => andThen (free && imm < 32 && t2 == 0) <| withCode (dimOfCode (imm % 4)) fun dim => withCode (tyOfCode t1) fun ty =>
      needTy (ty == .f32) (.amul md dim (idx 4 (imm / 4)) (imm / 16 == 1) d)
  | 3 => andThen (free && !d && md == .rne && decide (1 ≤ imm) && decide (imm ≤ 32)) <|
      withCode (tyOfCode t1) fun src => withCode (tyOfCode t2) fun dst =>
      needTy ((src == .f32 || src == .h2 || src == .bh2) && dst.isNarrow) (.qcvt src dst (BitVec.ofNat 6 imm))
  | 4 => need (free && t1 == 0 && t2 == 0 && md == .rne && imm < 1032 && (!d || imm < 32)) (.pick (BitVec.ofNat 11 imm) d)
  | 5 => need (free && t1 == 0 && t2 == 0 && md == .rne && imm < 1032 && (!d || imm < 32)) (.roll (BitVec.ofNat 11 imm) d)
  | 6 => need (free && t1 < 2 && t2 == 0 && md == .rne && !d)
      (.region (BitVec.ofNat 11 (imm % 2048)) (BitVec.ofNat 12 (t1 * 2048 + imm / 2048)))
  | _ => .error .illop

/-- L48 (R126 to R128). -/
def decodeL48 (w : Nat) : Except Reject Instr :=
  let d := flagAt w 5
  let imm := BitVec.ofNat 32 (field w 47 16)
  match field w 4 2 with
  | 0 => need (field w 15 6 == 0) (.lit32 d imm)
  | 1 => need (field w 15 6 == 0) (.lith d imm)
  | 2 => andThen (field w 15 12 == 0) <|
      match field w 7 5 with
      | 0 => .ok (.brFar (guardAt w 8 11) imm)
      | 3 => .ok (.callFar (guardAt w 8 11) imm)
      | _ => .error .illop
  | 3 => need (field w 15 14 == 0 && field w 13 10 < 15 && (!d || imm == 0))
      (.vset d (idx 15 (field w 13 10)) (idx 16 (field w 9 6)) imm)
  | 4 => decodeArx w
  | _ => .error .illop

/-- The length in bits of a lane-stream instruction from its first parcel (R111); 0 for the matrix stream's code. -/
def laneLength (w : Nat) : Nat :=
  match w % 4 with
  | 0 => 16
  | 1 => 32
  | 2 => 48
  | _ => 0

/-- The lane stream (R111, R112). -/
def decodeLane (w : Nat) : Except Reject Instr :=
  match w % 4 with
  | 0 => decodeZ16 w
  | 1 => decodeS32 w
  | 2 => decodeL48 w
  | _ => .error .illop

/-- The matrix stream's shared layout (R249): which fields besides MOP an instruction uses is a list of bit ranges, and
every other bit must be zero. -/
def unusedZero (w : Nat) (used : List (Nat × Nat)) : Bool :=
  (used.foldl (fun a r => a - (field w r.1 r.2) * 2 ^ r.2) (w - w % 256)) == 0

/-- `mlin` (R254). -/
def decodeMlin (w : Nat) : Except Reject Instr :=
  let t := idx 32 (field w 12 8)
  let lb := field w 63 32
  let lsh := field w 25 22
  let ls := field w 21 19
  let v := field w 18 15
  andThen (field w 31 26 == 0) <|
    if !flagAt w 13 then need (lb == 0 && lsh == 0 && ls == 0 && v == 0 && !flagAt w 14) (.mlin t .off)
    else if flagAt w 14 then need (lb == 0 && lsh == 0 && ls == 0) (.mlin t (.view (idx 16 v)))
    else withCode (tspaceOfCode ls) fun sp => need (lsh < 13 && v == 0) (.mlin t (.imm sp (BitVec.ofNat 32 lb) (idx 13 lsh)))

/-- `mma` (R249, R250, R259, R260). -/
def decodeMma (w : Nat) : Except Reject Instr :=
  andThen (field w 63 60 == 0 && field w 33 30 < 5) <|
    let x : MmaArgs :=
      { c := idx 16 (field w 11 8), aa := flagAt w 17, a := idx 32 (field w 16 12), bq := flagAt w 23,
        b := idx 32 (field w 22 18), x5 := idx 32 (field w 58 54), rd := flagAt w 59, kq := BitVec.ofNat 12 (field w 53 42),
        nc := idx 4 (field w 41 40), mc := idx 4 (field w 39 38), tb := flagAt w 37, ta := flagAt w 36, zero := flagAt w 35,
        rev := flagAt w 34, alg := idx 5 (field w 33 30), rm := rmOfCode (field w 29 27), dcf := dcfOfCode (field w 26 24) }
    need (wfMma x) (.mma x)

/-- `mmay` (R262). -/
def decodeMmay (w : Nat) : Except Reject Instr :=
  need (unusedZero w [(58, 54), (53, 42), (41, 40), (39, 38), (37, 37), (36, 36), (35, 35), (34, 34), (33, 30), (22, 18), (16, 12)]
      && field w 33 30 < 5)
    (.mmay { a := idx 32 (field w 16 12), x5 := idx 32 (field w 58 54), b := idx 32 (field w 22 18),
             kq := BitVec.ofNat 12 (field w 53 42), nc := idx 4 (field w 41 40), mc := idx 4 (field w 39 38),
             tb := flagAt w 37, ta := flagAt w 36, zero := flagAt w 35, rev := flagAt w 34, alg := idx 5 (field w 33 30) })

/-- The matrix stream (R248 to R271). -/
def decodeMatrix (w : Nat) : Except Reject Instr :=
  let c := idx 16 (field w 11 8)
  let a := idx 32 (field w 16 12)
  let nc := idx 4 (field w 41 40)
  let mc := idx 4 (field w 39 38)
  let rm := rmOfCode (field w 29 27)
  let dcf := dcfOfCode (field w 26 24)
  andThen (w % 4 == 3) <|
    match field w 7 2 with
    | 0x00 => need (unusedZero w []) .mnop
    | 0x01 => decodeMma w
    | 0x02 => decodeMmay w
    | 0x03 => need (unusedZero w [(11, 8)]) (.mzero c)
    | 0x04 => need (unusedZero w [(41, 40), (39, 38), (36, 36), (35, 35), (29, 27), (16, 12), (11, 8)] && rm != .dyn)
        (.mld c a nc mc (flagAt w 36) (flagAt w 35) rm)
    | 0x05 => need (unusedZero w [(41, 40), (39, 38), (36, 36), (29, 27), (26, 24), (16, 12), (11, 8)] && rm != .dyn && dcf != .i8)
        (.mst a c nc mc (flagAt w 36) dcf rm)
    | 0x06 => need (unusedZero w [(41, 40), (39, 38), (26, 24), (22, 18), (16, 12), (11, 8)] && wfQdual dcf)
        (.mqdual a (idx 32 (field w 22 18)) c nc mc dcf)
    | 0x07 => need (unusedZero w [(39, 38), (33, 30), (16, 12)] && decide (1 ≤ field w 33 30) && decide (field w 33 30 ≤ 4))
        (.malg (idx 4 (field w 33 30 - 1)) a mc)
    | 0x08 => need (unusedZero w [(41, 38), (11, 8)]) (.myoke c (idx 16 (field w 41 38)))
    | 0x09 => need (unusedZero w [(11, 8)]) (.mguide c)
    | 0x0A => andThen (field w 31 20 != 0) <| withCode (tspaceOfCode (field w 15 13)) fun sp =>
        match tyOfCode (field w 19 16) with
        | some ty => needTy (wfViewTy ty) (.mview (idx 32 (field w 12 8)) sp (BitVec.ofNat 32 (field w 63 32))
            (BitVec.ofNat 12 (field w 31 20)) ty)
        | none => .error .illty
    | 0x0B => decodeMlin w
    | 0x0C => need (unusedZero w [(11, 8)]) (.marv c)
    | 0x0D => need (unusedZero w [(11, 8)]) (.mwt c)
    | 0x0E => need (unusedZero w [(11, 8)]) (.mgive c)
    | 0x0F => need (unusedZero w [(11, 8)]) (.mtake c)
    | 0x10 => need (field w 31 24 == 0 && decide (2 ≤ (BitVec.ofNat 32 (field w 63 32)).toInt))
        (.mloop (BitVec.ofNat 16 (field w 23 8)) (BitVec.ofNat 32 (field w 63 32)))
    | 0x11 => need (field w 31 8 == 0) (.mjmp (BitVec.ofNat 32 (field w 63 32)))
    | 0x12 => need (unusedZero w []) .mhalt
    | 0x13 => need (unusedZero w [(53, 38)]) (.mseed (BitVec.ofNat 16 (field w 53 38)))
    | 0x14 => need (unusedZero w [(16, 12)]) (.mscale a)
    | _ => .error .illop

/-- Tison's custom-0 words (R335); cause 24 of R337 for a word of custom-0 that is none of the four. -/
def decodeTison (w : Nat) : Except Reject Instr :=
  let rd := idx 32 (field w 11 7)
  let rs1 := idx 32 (field w 19 15)
  if field w 6 0 != 0x0B then .error .base
  else
    match field w 14 12 with
    | 0 => if field w 31 26 == 0 && field w 19 15 == 0 then .ok (.tnRingf rd (idx 64 (field w 25 20))) else .error .cause24
    | 1 => .ok (.tnBfx rd rs1 (idx 64 (field w 25 20)) (idx 64 (field w 31 26)))
    | 2 => .ok (.tnSigw rd rs1 (BitVec.ofNat 12 (field w 31 20)))
    | 3 => if field w 31 26 == 0 && field w 25 25 == 0 && field w 11 7 == 0 then .ok (.tnDisp rs1 (idx 32 (field w 24 20)))
        else .error .cause24
    | _ => .error .cause24

/-- Which stream a word stands in: lane, matrix or Tison. -/
inductive Stream3 where
  | lane | matrix | tison
  deriving DecidableEq, Repr

/-- The number that bytes hold, the first byte lowest (R4, R111). -/
def ofBytes : List Byte → Nat
  | [] => 0
  | b :: bs => b.toNat + 256 * ofBytes bs

/-- The first `n` bytes of a number, the lowest first. -/
def toBytes : Nat → Nat → List Byte
  | 0, _ => []
  | n + 1, w => BitVec.ofNat 8 w :: toBytes n (w / 256)

/-- The longest instruction of a stream, in bytes. -/
def maxBytes : Stream3 → Nat
  | .lane => 6
  | .matrix => 8
  | .tison => 4

/-- The instruction at the start of a list of bytes, bytes past the end reading 0. -/
def decodeBytes (k : Stream3) (bs : List Byte) : Except Reject Instr :=
  match k with
  | .lane =>
    let w := ofBytes (bs.take 6)
    decodeLane (if laneLength w = 0 then w else w % 2 ^ laneLength w)
  | .matrix => decodeMatrix (ofBytes (bs.take 8))
  | .tison => decodeTison (ofBytes (bs.take 4))

/-- The stream an opcode-table word belongs to: 0b11 in bits [1:0] is the matrix stream's code in a 64-bit word and
RISC-V's in a 32-bit one (R111, R335). -/
def tableStream (nbits w : Nat) : Stream3 :=
  if w % 4 != 3 then .lane else if nbits ≤ 32 then .tison else .matrix

/-- The instruction that the decoder reads from an opcode-table word: the word laid out as the hardware stores it. -/
def decodeTableWord (nbits w : Nat) : Option Instr :=
  match decodeBytes (tableStream nbits w) (toBytes 8 (w % 2 ^ nbits)) with
  | .ok i => some i
  | .error _ => none

/-- PG and PN of a guard, PG at bit `pg`, PN at bit `pn`. -/
def guardBits (g : Guard) (pg pn : Nat) : Nat := g.p.val * 2 ^ pg + bit g.neg * 2 ^ pn

/-- A Z16 parcel (R113). -/
def z16Word (op md ty : Nat) (d : Bool) : Nat := bit d * 2 ^ 2 + op * 2 ^ 3 + ty * 2 ^ 9 + md * 2 ^ 13

/-- A SLOT word (R118). -/
def slotWord (sop : Nat) (d : Bool) (k : BitVec 11) (imm : Nat) : Nat :=
  0x01 + bit d * 2 ^ 5 + sop * 2 ^ 6 + k.toNat * 2 ^ 9 + imm * 2 ^ 20

/-- A BR word (R120). -/
def brWord (bk : Nat) (g : Guard) (off : Nat) : Nat := 0x09 + bk * 2 ^ 5 + guardBits g 8 11 + off * 2 ^ 12

/-- An XLN word (R124). -/
def xlnWord (xop arg pd : Nat) (neg : Bool) (imm : Nat) : Nat :=
  0x19 + xop * 2 ^ 5 + arg * 2 ^ 9 + pd * 2 ^ 13 + bit neg * 2 ^ 16 + imm * 2 ^ 17

/-- An ENG word (R125). -/
def engWord (eop arg imm : Nat) : Nat := 0x1D + eop * 2 ^ 5 + arg * 2 ^ 10 + imm * 2 ^ 18

/-- An ENG word with a guard. -/
def engGuardWord (eop arg : Nat) (g : Guard) (imm : Nat) : Nat := engWord eop arg imm + guardBits g 14 17

/-- An ARX word (R127). -/
def arxWord (xa t1 t2 md : Nat) (d : Bool) (imm : Nat) : Nat :=
  0x12 + bit d * 2 ^ 5 + xa * 2 ^ 6 + t1 * 2 ^ 11 + t2 * 2 ^ 15 + md * 2 ^ 19 + imm * 2 ^ 26

/-- A word of the matrix stream with MOP and C (R249). -/
def mWord (mop c : Nat) : Nat := 3 + mop * 2 ^ 2 + c * 2 ^ 8

/-- The encoder: the number of bits and the word of an instruction that has an encoding; `none` for an event. -/
def encode : Instr → Option (Nat × Nat)
  | .nop => some (16, z16Word 0x00 0 0 false)
  | .ret => some (16, z16Word 0x30 0 0 false)
  | .exit => some (16, z16Word 0x31 0 0 false)
  | .yield => some (16, z16Word 0x32 0 0 false)
  | .brk => some (16, z16Word 0x33 0 0 false)
  | .lane => some (16, z16Word 0x34 0 0 false)
  | .s2l => some (16, z16Word 0x35 0 0 false)
  | .dup d => some (16, z16Word 0x01 0 0 d)
  | .drop d => some (16, z16Word 0x02 0 0 d)
  | .swap d => some (16, z16Word 0x03 0 0 d)
  | .over d => some (16, z16Word 0x04 0 0 d)
  | .rot d => some (16, z16Word 0x05 0 0 d)
  | .nip d => some (16, z16Word 0x06 0 0 d)
  | .depth d => some (16, z16Word 0x07 0 0 d)
  | .add md ty d => some (16, z16Word 0x08 (rmCode md) (tyCode ty) d)
  | .sub md ty d => some (16, z16Word 0x09 (rmCode md) (tyCode ty) d)
  | .mul md ty d => some (16, z16Word 0x0A (rmCode md) (tyCode ty) d)
  | .fma md ty d => some (16, z16Word 0x0C (rmCode md) (tyCode ty) d)
  | .div md ty d => some (16, z16Word 0x0D (rmCode md) (tyCode ty) d)
  | .neg md ty d => some (16, z16Word 0x0F (rmCode md) (tyCode ty) d)
  | .abs md ty d => some (16, z16Word 0x10 (rmCode md) (tyCode ty) d)
  | .sqrt md ty d => some (16, z16Word 0x20 (rmCode md) (tyCode ty) d)
  | .rint md ty d => some (16, z16Word 0x2B (rmCode md) (tyCode ty) d)
  | .mulhi ty d => some (16, z16Word 0x0B 0 (tyCode ty) d)
  | .rem ty d => some (16, z16Word 0x0E 0 (tyCode ty) d)
  | .min ty d => some (16, z16Word 0x11 0 (tyCode ty) d)
  | .max ty d => some (16, z16Word 0x12 0 (tyCode ty) d)
  | .clamp ty d => some (16, z16Word 0x2C 0 (tyCode ty) d)
  | .floor ty d => some (16, z16Word 0x28 0 (tyCode ty) d)
  | .ceil ty d => some (16, z16Word 0x29 0 (tyCode ty) d)
  | .trunc ty d => some (16, z16Word 0x2A 0 (tyCode ty) d)
  | .copysign ty d => some (16, z16Word 0x2F 0 (tyCode ty) d)
  | .and ty d => some (16, z16Word 0x13 0 (tyCode ty) d)
  | .or ty d => some (16, z16Word 0x14 0 (tyCode ty) d)
  | .xor ty d => some (16, z16Word 0x15 0 (tyCode ty) d)
  | .not ty d => some (16, z16Word 0x16 0 (tyCode ty) d)
  | .shl ty d => some (16, z16Word 0x17 0 (tyCode ty) d)
  | .shr ty d => some (16, z16Word 0x18 0 (tyCode ty) d)
  | .sar ty d => some (16, z16Word 0x19 0 (tyCode ty) d)
  | .rotl ty d => some (16, z16Word 0x1A 0 (tyCode ty) d)
  | .popc ty d => some (16, z16Word 0x1B 0 (tyCode ty) d)
  | .clz ty d => some (16, z16Word 0x1C 0 (tyCode ty) d)
  | .ctz ty d => some (16, z16Word 0x1D 0 (tyCode ty) d)
  | .bfx ty d => some (16, z16Word 0x1E 0 (tyCode ty) d)
  | .bfi ty d => some (16, z16Word 0x1F 0 (tyCode ty) d)
  | .rsqrt d => some (16, z16Word 0x21 0 3 d)
  | .rcp d => some (16, z16Word 0x22 0 3 d)
  | .exp2 d => some (16, z16Word 0x23 0 3 d)
  | .log2 d => some (16, z16Word 0x24 0 3 d)
  | .sin d => some (16, z16Word 0x25 0 3 d)
  | .cos d => some (16, z16Word 0x26 0 3 d)
  | .tanh d => some (16, z16Word 0x27 0 3 d)
  | .conj dim t d => some (16, z16Word 0x2D (dimCode dim + t.val * 4) 3 d)
  | .norm dim t d => some (16, z16Word 0x2E (dimCode dim + t.val * 4) 3 d)
  | .get d k => some (32, slotWord 0 d k 0)
  | .set d k => some (32, slotWord 1 d k 0)
  | .tee d k => some (32, slotWord 2 d k 0)
  | .inc d k imm => some (32, slotWord 3 d k imm.toNat)
  | .get2 d k => some (32, slotWord 4 d k 0)
  | .set2 d k => some (32, slotWord 5 d k 0)
  | .tee2 d k => some (32, slotWord 6 d k 0)
  | .clr d k => some (32, slotWord 7 d k 0)
  | .lit d imm => some (32, 0x05 + bit d * 2 ^ 5 + imm.toNat * 2 ^ 6)
  | .lit32 d imm => some (48, 0x02 + bit d * 2 ^ 5 + imm.toNat * 2 ^ 16)
  | .lith d imm => some (48, 0x06 + bit d * 2 ^ 5 + imm.toNat * 2 ^ 16)
  | .br g off => some (32, brWord 0 g off.toNat)
  | .brl g off => some (32, brWord 1 g off.toNat)
  | .bru g off => some (32, brWord 2 g off.toNat)
  | .call g off => some (32, brWord 3 g off.toNat)
  | .loop g off => some (32, brWord 4 g off.toNat)
  | .rep g n => some (32, brWord 5 g n.toNat)
  | .jmp g => some (32, brWord 6 g 0)
  | .brFar g off => some (48, 0x0A + guardBits g 8 11 + off.toNat * 2 ^ 16)
  | .callFar g off => some (48, 0x0A + 3 * 2 ^ 5 + guardBits g 8 11 + off.toNat * 2 ^ 16)
  | .cmp d c ty pa pb ct g => some (32, 0x0D + bit d * 2 ^ 5 + condCode c * 2 ^ 6 + tyCode ty * 2 ^ 10 + pa.val * 2 ^ 14 + pb.val * 2 ^ 17 +
      combineCode ct * 2 ^ 20 + guardBits g 23 26)
  | .ld d sp sz rh off => some (32, 0x11 + bit d * 2 ^ 5 + spaceCode sp * 2 ^ 7 + ldSizeCode sz * 2 ^ 10 + hintCode rh * 2 ^ 13 + off.toNat * 2 ^ 19)
  | .st d sp sz rh g off => some (32, 0x11 + bit d * 2 ^ 5 + 2 ^ 6 + spaceCode sp * 2 ^ 7 + stSizeCode sz * 2 ^ 10 + hintCode rh * 2 ^ 13 +
      guardBits g 15 18 + off.toNat * 2 ^ 19)
  | .atom d op sp w64 g ret off => some (32, 0x15 + bit d * 2 ^ 5 + atomCode op * 2 ^ 6 + spaceCode sp * 2 ^ 10 + bit w64 * 2 ^ 13 +
      guardBits g 14 17 + bit ret * 2 ^ 18 + off.toNat * 2 ^ 19)
  | .perm ty => some (32, xlnWord 0 0 0 false (tyCode ty))
  | .bcast ty => some (32, xlnWord 1 0 0 false (tyCode ty))
  | .vote k pd neg => some (32, xlnWord 2 0 pd.val neg (voteCode k))
  | .ballot => some (32, xlnWord 3 0 0 false 0)
  | .red op ty => some (32, xlnWord 4 (redCode op) 0 false (tyCode ty))
  | .scan op ty excl => some (32, xlnWord 5 (redCode op) 0 false (tyCode ty + bit excl * 16))
  | .xput x => some (32, xlnWord 6 x.val 0 false 0)
  | .xget x => some (32, xlnWord 7 x.val 0 false 0)
  | .barArrive b ab gang => some (32, xlnWord 8 b.val 0 false (bit ab + bit gang * 2))
  | .barWait b gang => some (32, xlnWord 9 b.val 0 false (bit gang * 2))
  | .seam j => some (32, xlnWord 10 j.val 0 false 0)
  | .mend j delta => some (32, xlnWord 11 j.val 0 false delta.toNat)
  | .ppush => some (32, xlnWord 12 0 0 false 0)
  | .ppop => some (32, xlnWord 13 0 0 false 0)
  | .plog tbl pd neg a b => some (32, xlnWord 14 tbl.toNat pd.val neg (a.val + b.val * 8))
  | .wait l s c t => some (32, 0x1D + l.toNat * 2 ^ 10 + s.toNat * 2 ^ 16 + c.toNat * 2 ^ 22 + t.toNat * 2 ^ 27)
  | .tld v => some (32, engWord 1 v.val 0)
  | .tst v => some (32, engWord 2 v.val 0)
  | .xfer v => some (32, engWord 3 v.val 0)
  | .ringSub q v => some (32, engWord 4 q.val v.val)
  | .ringDrain q v => some (32, engWord 5 q.val v.val)
  | .ringGet q => some (32, engWord 6 q.val 0)
  | .ringPut q g => some (32, engGuardWord 7 q.val g 0)
  | .ringDone q g => some (32, engGuardWord 8 q.val g 0)
  | .ringEos q g => some (32, engGuardWord 9 q.val g 0)
  | .disp => some (32, engWord 10 0 0)
  | .taskGet => some (32, engWord 11 0 0)
  | .taskDone g => some (32, engGuardWord 12 0 g 0)
  | .taskArm g => some (32, engGuardWord 13 0 g 0)
  | .wqPush w g => some (32, engGuardWord 14 w.val g 0)
  | .wqPushTry w g r => some (32, engGuardWord 14 w.val g (1 + r.val * 2))
  | .wqPop w g => some (32, engGuardWord 15 w.val g 0)
  | .wqPopTry w g r => some (32, engGuardWord 15 w.val g (1 + r.val * 2))
  | .spawn e n g => some (32, engGuardWord 16 (e.val % 16) g (e.val / 16 + n.val * 4))
  | .spawnTry e n g => some (32, engGuardWord 16 (e.val % 16) g (e.val / 16 + n.val * 4 + 32))
  | .cwait => some (32, engWord 17 0 0)
  | .acq a => some (32, engWord 18 a.val 0)
  | .rel a => some (32, engWord 19 a.val 0)
  | .accLd a => some (32, engWord 20 a.val 0)
  | .accSt a => some (32, engWord 21 a.val 0)
  | .mstart off => some (32, engWord 22 0 off.toNat)
  | .fred v s => some (32, engWord 23 v.val s.val)
  | .fence sc => some (32, engWord 24 (scopeCode sc) 0)
  | .rdsr r => some (32, engWord 25 0 r.toNat)
  | .wrsr r => some (32, engWord 26 0 r.toNat)
  | .trap k => some (32, engWord 27 0 k.toNat)
  | .tret nx => some (32, engWord 28 0 (bit nx))
  | .mark k => some (32, engWord 29 0 k.val)
  | .svc n => some (32, engWord 30 0 n.toNat)
  | .spawnFlush e => some (32, engWord 31 (e.val % 16) (e.val / 16))
  | .vset d f v imm => some (48, 0x0E + bit d * 2 ^ 5 + v.val * 2 ^ 6 + f.val * 2 ^ 10 + imm.toNat * 2 ^ 16)
  | .cvt md src dst d => some (48, arxWord 0 (tyCode src) (tyCode dst) (rmCode md) d 0)
  | .sel ty g d => some (48, arxWord 1 (tyCode ty) 0 0 d 0 + guardBits g 22 25)
  | .amul md dim t rev d => some (48, arxWord 2 3 0 (rmCode md) d (dimCode dim + t.val * 4 + bit rev * 16))
  | .qcvt src dst half => some (48, arxWord 3 (tyCode src) (tyCode dst) 0 false half.toNat)
  | .pick n d => some (48, arxWord 4 0 0 0 d n.toNat)
  | .roll n d => some (48, arxWord 5 0 0 0 d n.toNat)
  | .region base count => some (48, arxWord 6 (count.toNat / 2048) 0 0 false (base.toNat + count.toNat % 2048 * 2048))
  | .mnop => some (64, mWord 0x00 0)
  | .mma x => some (64, mWord 0x01 x.c.val + x.a.val * 2 ^ 12 + bit x.aa * 2 ^ 17 + x.b.val * 2 ^ 18 + bit x.bq * 2 ^ 23 +
      dcfCode x.dcf * 2 ^ 24 + rmCode x.rm * 2 ^ 27 + x.alg.val * 2 ^ 30 + bit x.rev * 2 ^ 34 + bit x.zero * 2 ^ 35 +
      bit x.ta * 2 ^ 36 + bit x.tb * 2 ^ 37 + x.mc.val * 2 ^ 38 + x.nc.val * 2 ^ 40 + x.kq.toNat * 2 ^ 42 + x.x5.val * 2 ^ 54 +
      bit x.rd * 2 ^ 59)
  | .mmay x => some (64, mWord 0x02 0 + x.a.val * 2 ^ 12 + x.b.val * 2 ^ 18 + x.alg.val * 2 ^ 30 + bit x.rev * 2 ^ 34 +
      bit x.zero * 2 ^ 35 + bit x.ta * 2 ^ 36 + bit x.tb * 2 ^ 37 + x.mc.val * 2 ^ 38 + x.nc.val * 2 ^ 40 + x.kq.toNat * 2 ^ 42 +
      x.x5.val * 2 ^ 54)
  | .mzero c => some (64, mWord 0x03 c.val)
  | .mld c a nc mc ta zero rm => some (64, mWord 0x04 c.val + a.val * 2 ^ 12 + rmCode rm * 2 ^ 27 + bit zero * 2 ^ 35 + bit ta * 2 ^ 36 +
      mc.val * 2 ^ 38 + nc.val * 2 ^ 40)
  | .mst a c nc mc ta dcf rm => some (64, mWord 0x05 c.val + a.val * 2 ^ 12 + dcfCode dcf * 2 ^ 24 + rmCode rm * 2 ^ 27 + bit ta * 2 ^ 36 +
      mc.val * 2 ^ 38 + nc.val * 2 ^ 40)
  | .mqdual a b c nc mc dcf => some (64, mWord 0x06 c.val + a.val * 2 ^ 12 + b.val * 2 ^ 18 + dcfCode dcf * 2 ^ 24 + mc.val * 2 ^ 38 + nc.val * 2 ^ 40)
  | .malg g v dim => some (64, mWord 0x07 0 + v.val * 2 ^ 12 + (g.val + 1) * 2 ^ 30 + dim.val * 2 ^ 38)
  | .myoke ac au => some (64, mWord 0x08 ac.val + au.val * 2 ^ 38)
  | .mguide c => some (64, mWord 0x09 c.val)
  | .mview t sp base rs ty => some (64, 0x2B + t.val * 2 ^ 8 + tspaceCode sp * 2 ^ 13 + tyCode ty * 2 ^ 16 + rs.toNat * 2 ^ 20 + base.toNat * 2 ^ 32)
  | .mlin t .off => some (64, 0x2F + t.val * 2 ^ 8)
  | .mlin t (.imm sp lb lsh) => some (64, 0x2F + t.val * 2 ^ 8 + 2 ^ 13 + tspaceCode sp * 2 ^ 19 + lsh.val * 2 ^ 22 + lb.toNat * 2 ^ 32)
  | .mlin t (.view v) => some (64, 0x2F + t.val * 2 ^ 8 + 2 ^ 13 + 2 ^ 14 + v.val * 2 ^ 15)
  | .marv b => some (64, mWord 0x0C b.val)
  | .mwt b => some (64, mWord 0x0D b.val)
  | .mgive a => some (64, mWord 0x0E a.val)
  | .mtake a => some (64, mWord 0x0F a.val)
  | .mloop n off => some (64, mWord 0x10 0 + n.toNat * 2 ^ 8 + off.toNat * 2 ^ 32)
  | .mjmp off => some (64, mWord 0x11 0 + off.toNat * 2 ^ 32)
  | .mhalt => some (64, mWord 0x12 0)
  | .mseed k => some (64, mWord 0x13 0 + k.toNat * 2 ^ 38)
  | .mscale v => some (64, mWord 0x14 0 + v.val * 2 ^ 12)
  | .tnRingf rd q => some (32, 0x0B + rd.val * 2 ^ 7 + q.val * 2 ^ 20)
  | .tnBfx rd rs1 pos len => some (32, 0x0B + rd.val * 2 ^ 7 + 1 * 2 ^ 12 + rs1.val * 2 ^ 15 + pos.val * 2 ^ 20 + len.val * 2 ^ 26)
  | .tnSigw rd rs1 t => some (32, 0x0B + rd.val * 2 ^ 7 + 2 * 2 ^ 12 + rs1.val * 2 ^ 15 + t.toNat * 2 ^ 20)
  | .tnDisp rs1 rs2 => some (32, 0x0B + 3 * 2 ^ 12 + rs1.val * 2 ^ 15 + rs2.val * 2 ^ 20)
  | _ => none

/-- The bytes of an instruction as the hardware stores them. -/
def encodeBytes (i : Instr) : List Byte :=
  match encode i with
  | some (nbits, w) => toBytes (nbits / 8) w
  | none => []

end Sys2Proof
end

