-- ==== Sys2Proof/Machine/State.lean ====
section
/-!
DEFINITION. The state of the module as plain data, and the state after reset. What each level holds is R81, R230, R287
and the register maps of spec/; INVENTORY.md lists every piece with its rule and reset value. The fragment, group and
team that execute stand in the fields `fr`, `gp` and `tm`; the others stand in lists beside them.
-/
namespace Sys2Proof.Machine

/-- Memory: address and byte pairs, addresses strictly rising, no entry equal to the reset contents 0 (R370). -/
abbrev Memory := List Host.Cell

/-- One entry of an expression or scalar stack (R81): its value, the outstanding load it waits for (R85), the
physical line whose poison it carries (R222), and the host line that it was loaded from (R327). -/
structure Entry where
  val  : Word
  pend : Option Nat
  pois : Option Nat
  via  : Option Nat := none
  deriving DecidableEq, Repr

/-- The lane part of a region record (R224). -/
structure LaneMark where
  preds : Byte
  lcw   : Half
  gen   : Half
  deriving DecidableEq, Repr

/-- A lane (R81). `stk` has its top first; its last `back` entries lie in the backing area (R83). `bad` lists the slots with an uncorrected
error (R371), and `jex` is the counter a
child lane decrements at exit (R313). -/
structure Lane where
  ix     : Nat
  live   : Bool
  stk    : List Entry
  back   : Nat
  slots  : List Half
  bad    : List Nat
  preds  : Byte
  lcw    : Half
  gen    : Half
  issued : Half
  jcp    : Word
  jex    : Option Word
  undo   : List (Nat × Half)
  mark   : LaneMark
  deriving DecidableEq, Repr

/-- An entry of the link stack (R164). -/
inductive LinkEntry where
  | ret (a : Word)
  | loopTriple (lc : Half) (lb le : Word)
  | callTriple (lc : Half) (lb le : Word)
  deriving DecidableEq, Repr

/-- A region record's fragment part (R172, R224, R303). `copies` are the popped entries of R224's seventeenth write, and `breaks` says that
the instruction for which the region began has yet to end: its own pops are not checked (R173). -/
structure Region where
  entryPc : Word
  ldepth  : Nat
  sdepth  : Nat
  base    : Nat
  count   : Nat
  lc      : Half
  lb      : Word
  le      : Word
  rc      : Half
  cpreds  : Byte
  exm     : Mask
  disp    : Option Word
  copies  : List (Nat × List Entry)
  breaks  : Bool
  deriving DecidableEq, Repr

/-- An instruction under replay: the lanes unfinished and, where a replay-buffer entry is held, the values of the
finished ones (R220, R221). `op` is the operation that its first pass began (R201), and `again` says that `tret 0` has brought it
back and it has not yet issued (R89). -/
structure Replay where
  ins     : Instr
  todo    : Mask
  vals    : List (Nat × Entry)
  entry   : Bool
  op      : Option Nat
  again   : Bool
  deriving DecidableEq, Repr

/-- A trap record (R215). `next` is the address after the faulting instruction (R209); `marks` holds each lane's part of the
region record and its undo log. -/
structure TrapRec where
  pc     : Word
  next   : Word
  lc     : Half
  lb     : Word
  le     : Word
  rc     : Half
  cpreds : Byte
  region : Region
  replay : Option Replay
  ldepth : Nat
  sdepth : Nat
  marks  : List (Nat × LaneMark × List (Nat × Half))
  deriving DecidableEq, Repr

/-- Why a fragment is parked; the kinds of R320 follow from it. -/
inductive Wait where
  | none
  | seam (j : Nat)
  | xlane (m : Mask)
  | barrier (b phase : Nat) (gang : Bool)
  | arrive (b phase : Nat)
  | ring (q : Nat) (put : Bool)
  | queue (w : Nat) (push : Bool) (k : Nat)
  | task
  | count (l s c t : Nat)
  | cwait
  | svc (n : Nat) (a : Word)
  | reply (r : Word)
  | acq (n : Nat)
  | xslot (x : Nat) (put : Bool)
  | mstart
  | page (va : Nat)
  | fetch (line : Nat)
  | data (ids : List Nat)
  | requests (n : Nat)
  | presence (lines : List (Nat × Nat))
  | fence (sc : FenceScope)
  | stall (es : List Nat)
  | debug
  | dead
  deriving DecidableEq, Repr

/-- A fragment (R81). `seen` is the model's time of the last hand-off that it received (R280), `passed` counts the consecutive cycles in
which it was ready and passed over (R92), `turned` is when it last had a turn (log entry 1), `yieldAt` when it last executed `yield`, and
`ahead` names the fragments that were ready then (R186); `held` says that a step has stopped it (R360), and `struck` that DLCK, with this record,
awaits the fragment of a swapped-out group at its `cwait` (R322). -/
structure Frag where
  mask      : Mask
  pc        : Word
  sstk      : List Entry
  cpreds    : Byte
  link      : List LinkEntry
  lc        : Half
  lb        : Word
  le        : Word
  rc        : Half
  pts       : Nat
  seen      : Nat
  wait      : Wait
  parkedAt  : Nat
  parkedNs  : Nat
  region    : Region
  trap      : Option TrapRec
  fcode     : Half
  fpc       : Word
  fmask     : Half
  finfo     : Word
  replay    : Option Replay
  redisp    : Option Word
  lastIssue : Nat
  passed    : Nat
  promoted  : Bool
  turned    : Nat
  yielded   : Bool
  yieldAt   : Nat
  ahead     : List FragRef
  skipBp    : Bool
  held      : Bool
  struck    : Option Nat
  deriving DecidableEq, Repr

/-- Seam states (R95). -/
inductive SeamState where
  | idle | opened | part
  deriving DecidableEq, Repr

/-- A seam register (R95). -/
structure Seam where
  st      : SeamState
  expect  : Mask
  arrived : Mask
  dl      : Nat
  ds      : Nat
  deriving DecidableEq, Repr

/-- A group (R81): 32 lanes, the executing fragment `fr` and the others `frs`. `gix` is `%group` (R89); `uid` is the model's own name
for the group within its team (log entry 2). `exitPts` is the largest pts a fragment held at its exit (R206), `blkAt` the time of the
last exit (R320), and `tcb` the task it last received without a later `task.done` (R356). -/
structure Group where
  uid     : Nat
  gix     : Nat
  gslot   : Nat
  child   : Bool
  lanes   : List Lane
  fr      : Frag
  frs     : List Frag
  sslots  : List Half
  seams   : List Seam
  lost    : Bool
  sspill  : Bool
  seamrel : Half
  drains  : Half
  dstall  : Half
  blkAt   : Nat
  exitPts : Nat
  tcb     : Word
  deriving DecidableEq, Repr

/-- A child waiting in a gathering line (R312, R313). -/
structure Kid where
  payload : List Word
  jex     : Word
  pts     : Nat
  deriving DecidableEq, Repr

/-- A gathering line of the pocket (R315): GATHER, or FORMED and waiting for a reserve slot; `bornNs` is when its timer started. -/
structure PocketLine where
  entry  : Nat
  kids   : List Kid
  formed : Bool
  born   : Nat
  bornNs : Nat := 0
  deriving DecidableEq, Repr

/-- A barrier Bn (R181 to R184). -/
structure Barrier where
  groups   : Nat
  plusM    : Bool
  phase    : Nat
  arr      : List (Nat × Mask)
  absent   : List Nat
  seqArr   : Bool
  seqLast  : Option Nat
  gangMark : Bool
  pts      : Nat
  last     : List (Nat × Nat)
  gangDone : List (Nat × Nat)
  gangRel  : List Nat
  deriving DecidableEq, Repr

/-- A transfer slot Xn (R180). -/
structure XSlot where
  vals  : List Word
  wmask : Mask
  full  : Bool
  pts   : Nat
  deriving DecidableEq, Repr

/-- A structure-constant table (R230, R239). -/
structure AlgTable where
  bytes : List Byte
  dim   : Nat
  deriving DecidableEq, Repr

/-- Token states (R235); a holder is named by its group's `uid`. -/
inductive Token where
  | mat | given | lane (who : Nat) | back
  deriving DecidableEq, Repr

/-- An accumulator slot with its token and the stamp of its last hand-off (R230, R236); `bad` marks an uncorrected error in it (R371). -/
structure AccSlot where
  tok  : Token
  pts  : Nat
  tile : List Half
  bad  : Bool
  deriving DecidableEq, Repr

/-- A tile view T (R252, R254). Spaces are held by their SPACE code. -/
structure TileView where
  base : Nat
  rs   : Nat
  ty   : Nat
  sp   : Nat
  lin  : Bool
  lbase : Nat
  lshift : Nat
  lsp  : Nat
  deriving DecidableEq, Repr

/-- An entry of the `mloop` stack (R270). -/
structure MLoop where
  count : Nat
  body  : Word
  fin   : Word
  deriving DecidableEq, Repr

/-- One byte to be written: its space (0 physical global, 2 scratchpad, 4 die scratchpad, 5 Tison memory), its key in
that space's memory, and the byte. -/
structure ByteWrite where
  sp  : Nat
  key : Nat
  val : Byte
  deriving DecidableEq, Repr

/-- A tile that an operation writes to an accumulator slot, whether it writes the slot whole, and whether the tile carries an uncorrected error
that its operands held (R371). -/
structure TileWrite where
  slot  : Nat
  tile  : List Half
  whole : Bool
  bad   : Bool := false
  deriving DecidableEq, Repr

/-- A started matrix operation (R272): what its completion writes and frees; `lp` is what its start leaves in LP (R244). -/
structure Flight where
  tiles  : List TileWrite
  writes : List ByteWrite
  reads  : List (Nat × Nat)
  gen    : Half
  lp     : Option (BitVec 2)
  free   : Option (Nat × Nat)
  table  : Option (Nat × AlgTable)
  gs     : Option Half
  deriving DecidableEq, Repr

/-- Sequencer states (R231). -/
inductive SeqState where
  | halted
  | run
  | wbar (b phase : Nat) (again : Bool)
  | wtok (n : Nat)
  | wres (i : Instr)
  | fault
  deriving DecidableEq, Repr

/-- A team's sequencer context and the matrix state of R230 that is not in accumulator slots or tables. `waitNs` is the time at which its
present wait began (R320); `took` names the ring and the slot that the operation not yet started has taken as its operand (R260), with the slot's
stamp and whether a slot of the ring had been taken before, since a fault undoes that (R245). -/
structure Seq where
  mpc     : Word
  st      : SeqState
  pts     : Nat
  loops   : List MLoop
  tv      : List TileView
  gs      : Half
  yoke    : Option (Nat × Nat)
  cp      : BitVec 2
  lp      : BitVec 2
  gen     : Half
  held    : List (Nat × Nat)
  took    : Option (Nat × Nat × Nat × Bool)
  flight  : Option Flight
  array   : Bool
  units   : Nat
  since   : Nat
  waitNs  : Nat
  deriving DecidableEq, Repr

/-- States of a ring slot (R288). -/
inductive SlotState where
  | free | resv (who : Nat) | resvSub | full | taken (who : Nat) | takenMat | takenDrain
  deriving DecidableEq, Repr

/-- A producer entry of a ring (R287); `none` names the subscription. -/
structure Producer where
  who : Option Nat
  eos : Bool
  pts : Nat
  deriving DecidableEq, Repr

/-- A subscription or drain of a ring (R295): its view, its next tile, its pts, for each fill or write under way the tile, the
slot and whether it is complete, when it began to wait for a slot, the stamp of its last write, and when it reached its unit (R279). -/
structure Stream where
  view : List Half
  next : Nat
  pts  : Nat
  busy : List (Nat × Nat × Bool)
  since : Option Nat
  stamp : Nat
  born  : Nat
  deriving DecidableEq, Repr

/-- A ring Qn (R287). `slots = 0` is an undeclared ring. -/
structure Ring where
  base      : Nat
  slotBytes : Nat
  slots     : Nat
  st        : List SlotState
  spts      : List Nat
  queue     : List Nat
  prods     : List Producer
  ended     : Bool
  taken     : Bool
  sub       : Option Stream
  drain     : Option Stream
  deriving DecidableEq, Repr

/-- Classes of outstanding operations (R201). -/
inductive OpClass where
  | ld | st | cp | tl
  deriving DecidableEq, Repr

/-- An operation that counts in a class (R201, R202): who issued it, its memory requests (R196, R198) and, once a cp operation is
complete, its stamp. -/
structure OutOp where
  id    : Nat
  cls   : OpClass
  who : Nat
  mask  : Mask
  reqs  : Nat
  done  : Option Nat
  deriving DecidableEq, Repr

/-- A launch record with its declaration tables (R299). -/
structure LaunchRec where
  code    : Word
  entry   : Word
  trap    : Word
  cw      : Nat
  ch      : Nat
  nclus   : Nat
  gang    : Nat
  dies    : Nat
  team    : Nat
  yoke    : Bool
  prio    : Nat
  frame   : Nat
  stack   : Nat
  acc     : Nat
  cres    : Nat
  lease   : Nat
  spad    : Nat
  dspad   : Nat
  seed    : Half
  drm     : Nat
  task    : Bool
  dblk    : Nat
  dcount  : Nat
  spill   : Word
  spillsz : Nat
  wqmask  : Nat
  bars    : List (Nat × Bool)
  rings   : List (Nat × Nat × Nat)
  views   : List (List Half)
  spawns  : List Word
  deriving DecidableEq, Repr

/-- A `vset` since placement: when it was, what it wrote, and the group and lanes of its fragment (R128, R280). -/
structure VSet where
  id   : Nat
  v    : Nat
  f    : Nat
  val  : Half
  who  : Nat
  mask : Mask
  deriving DecidableEq, Repr

/-- A resident team (R17, R230): `views` are the view registers as the latest `vset` left them and `vsets` the writes since placement,
 `lp` is the launch record that tn.disp sent to the core's launch unit (R28); `resv` lists the
group slots of its child reserve (R21), `swapped` the groups swapped out, each with the 4 KB granules its record takes, `phys` names the
physical accumulator slots of the core that hold its share, A0's first (R230), and `halting` says that it is to be pre-empted and issues nothing new (R225, step 1). -/
structure Team where
  live    : Bool
  core    : Nat
  ctx     : Nat
  vcore   : Nat
  cluster : Nat
  member  : Nat
  home    : Nat
  held    : Bool
  halting : Bool
  lp      : LaunchRec
  gp      : Group
  gs      : List Group
  seed    : Half
  bars    : List Barrier
  xs      : List XSlot
  views   : List (List Half)
  vsets   : List VSet
  tabs    : List AlgTable
  acc     : List AccSlot
  phys    : List Nat
  seq     : Seq
  rings   : List Ring
  outs    : List OutOp
  block   : List Nat
  lines   : List PocketLine
  queued  : List (Nat × List Kid)
  swapped : List (Nat × Group)
  resv    : List Nat
  deriving DecidableEq, Repr

/-- Kinds of engine operations (R71). -/
inductive OpKind where
  | tld | tst | xfer | fill | drain | fred
  deriving DecidableEq, Repr

/-- A registered range: space code, first and last line key (R72). -/
structure Span where
  sp : Nat
  lo : Nat
  hi : Nat
  deriving DecidableEq, Repr

/-- An engine operation in flight (R71 to R75): the team it serves and that team's place, the view and tile it moves, the
packed range's SPACE code and address, and its source and destination. `waiting` is R75's wait in the engine; `absent` are
the source lines that an operation issued before it still has to write (R74); `unit` and `got` say whether it needs, and has,
a current reservation (R349). -/
structure EngineOp where
  id      : Nat
  kind    : OpKind
  team    : TeamRef
  who     : Nat
  cluster : Nat
  home    : Nat
  mask    : Mask
  pts     : Nat
  view    : List Half
  tile    : Nat
  psp     : Nat
  paddr   : Nat
  src     : List Span
  dst     : List Span
  waiting : Bool
  absent  : List Nat
  ring    : Nat
  slot    : Nat
  session : Nat
  joined  : Bool
  result  : Option (List Half)
  unit    : Bool
  got     : Bool
  deriving DecidableEq, Repr

/-- A posted operation of the task pool (R307). -/
structure PoolOp where
  id    : Nat
  arm   : Bool
  ctx   : Nat
  team  : TeamRef
  who   : Nat
  mask  : Mask
  tcb   : Word
  pa    : Nat
  pts   : Nat
  deriving DecidableEq, Repr

/-- A posted host-directed store (R77): its bytes and the point it has passed (0 core, 1 die, 2 port, 3 host). -/
structure Posted where
  id    : Nat
  team  : TeamRef
  who : Nat
  mask  : Mask
  link  : Nat
  bytes : List (Nat × Byte)
  passed : Nat
  deriving DecidableEq, Repr

/-- A task known to the pool (R305, R309). -/
structure ReadyTask where
  prio : Nat
  rseq : Nat
  addr : Word
  pts  : Nat
  deriving DecidableEq, Repr

/-- The task context of a launch (R305, R308, R309); `running` names each RUNNING task's TCB and the team that took it. -/
structure TaskCtx where
  opened : Nat
  rseq   : Nat
  pool   : List ReadyTask
  spillq : List ReadyTask
  running : List (Word × TeamRef)
  deriving DecidableEq, Repr

/-- A completion entry before it is written (R342). -/
structure Completion where
  seq    : BitVec 32
  status : Nat
  code   : Nat
  engine : Nat
  detail : Word
  sig    : Option Nat
  deriving DecidableEq, Repr

/-- Where a launch stands (R28). -/
inductive LaunchPhase where
  | free | waiting | running | stopping
  deriving DecidableEq, Repr

/-- The first fatal event of a launch (R30, R350): what its completion carries, the step in which it was raised, and its place
among the fatal events of that step (R30). -/
structure Fatal where
  status : Nat
  code   : Nat
  engine : Nat
  detail : Word
  tick   : Nat
  place  : Nat
  deriving DecidableEq, Repr

/-- A causal experiment on a launch context (R365): each core's debt D and delay count CDLY. `cycles` holds, for each core, the ports
that have issued in its present cycle and whether one of them issued inside the range. -/
structure Causal where
  lo    : Word
  hi    : Word
  f     : Nat
  cycles : List (Nat × List Nat × Bool)
  debts : List (Nat × Nat)
  cdly  : List (Nat × Nat)
  deriving DecidableEq, Repr

/-- What a COPY kernel has still to copy: source, destination and bytes, and its pts (R341). -/
structure CopyJob where
  src : Nat
  dst : Nat
  n   : Nat
  pts : Nat
  deriving DecidableEq, Repr

/-- A launch context on HD (R21, R28, R302, R305, R362); `copy` is the work of a COPY kernel (R341), `recPa` is the physical address of
its launch record. `gangGone` keeps, of the teams that retired, the virtual core, the barrier, the gang phase and its pts (R184);
`dbgNext` is the first free byte of the debug area and `deadN` the number of deadlock records in it (R322); `pcnts` holds the pocket
counters of each core (R324), and `lastDone` when the last launch of this context completed (R341). -/
structure LaunchCtx where
  phase    : LaunchPhase
  queue    : Nat
  seqno    : BitVec 32
  sig      : Option Nat
  fn       : Nat
  recPa    : Nat
  copy     : Option CopyJob
  lp       : LaunchRec
  svcArea  : Word
  dbgArea  : Word
  dbgNext  : Nat
  deadN    : Nat
  svcNext  : Nat
  prog     : List Word
  dispC    : Nat
  returned : List (List Nat)
  tasks    : TaskCtx
  fatal    : Option Fatal
  map      : List (Nat × Nat)
  units    : List (Nat × Nat)
  attached : Bool
  bps      : List Word
  wbase    : List Word
  wctl     : List Half
  causal   : Option Causal
  gangGone : List (Nat × Nat × Nat × Nat)
  pcnts    : List (Nat × List Half)
  lastDone : Nat
  deriving DecidableEq, Repr

/-- A host command queue's registers and the function that owns it (R338; functions 0 to 31 are the virtual ones, 32 and 33 the physical
ones of links 0 and 1), the bytes of the commands fetched and not started, with the order of the doorbells that wrote them
and those not yet fetched, the LAUNCH that waits for a context, whether a WAIT blocks the queue (R340), and the completions not
yet written (R342). -/
structure HostQueue where
  cbase   : Word
  rbase   : Word
  en      : Bool
  log2    : BitVec 4
  tail    : BitVec 12
  head    : BitVec 12
  rtail   : BitVec 12
  rhead   : BitVec 12
  ovr     : Bool
  fn      : Nat
  order   : List Nat
  fetched : List (List Byte)
  pendL   : Option LaunchCtx
  blocked : Bool
  comps   : List Completion
  deriving DecidableEq, Repr

/-- A BIAS command that has started (R79, R341): its first page, the page under the flip and the pages from there on, whether they go to
host bias, its queue and its completion. -/
structure BiasJob where
  first : Nat
  va    : Nat
  n     : Nat
  host  : Bool
  q     : Nat
  done  : Completion
  deriving DecidableEq, Repr

/-- A SHRINK or POWER command that has started and waits for teams to be pre-empted: its queue, its bytes, and where Tison puts the
clusters (R31, R340). -/
structure Job where
  q     : Nat
  cmd   : List Byte
  place : List Rect
  deriving DecidableEq, Repr

/-- A waiter on a signal bit (R336), with the time at which it gives up: a queue's WAIT command or a Tison core. -/
inductive Waiter where
  | queue (q sig : Nat) (dl : Option Nat)
  | core (c sig rd : Nat) (dl : Option Nat)
  deriving DecidableEq, Repr

/-- A Tison core (R335, R337): the registers of an RV64IMAC hart in machine mode, its program timestamp, and the address that a
load-reserve holds, with the wts of its line then. -/
structure Tison where
  regs   : List Word
  pc     : Word
  pts    : Nat
  mcause : Word
  mepc   : Word
  mtval  : Word
  mtvec  : Word
  mstatus : Word
  mscratch : Word
  resv   : Option (Word × Nat)
  asleep : Bool
  run    : Bool
  deriving DecidableEq, Repr

/-- Island power states (R352). -/
inductive PState where
  | on | quiescing | quiet | saved | clkoff | retain | off | waking
  deriving DecidableEq, Repr

/-- A queued current reservation (R349): a team's sequencer asks, the copy path for the operation `op`, or, with `burst`, the lane engine
of the team's core. -/
structure CollarReq where
  team  : TeamRef
  op    : Option Nat
  burst : Bool
  units : Nat
  prio  : Nat
  deriving DecidableEq, Repr

/-- An island's registers and collar (R345 to R353). `pace` keeps, the newest first, the times at which its clock changed and the MHz from
then on, 0 while it stands (R320, R346); `edge` is the model's time at which it last left ON (R352), and `bursts` lists the cores whose
lane engines hold a burst reservation (R349). -/
structure Island where
  pace     : List (Nat × Nat)
  target   : BitVec 5
  pend     : Bool
  req      : BitVec 5
  applied  : BitVec 5
  moveTo   : Option (BitVec 5)
  limit    : BitVec 3
  pstate   : PState
  fromOff  : Bool
  seqerr   : Bool
  ockill   : Bool
  iqreq    : Bool
  iqack    : BitVec 12
  saving   : Bool
  restored : Bool
  done     : Bool
  coreSaved : BitVec 12
  gate     : Bool
  mode     : BitVec 2
  cap      : BitVec 16
  used     : Nat
  bursts   : List Nat
  edge     : Nat
  cq       : List CollarReq
  deriving DecidableEq, Repr

/-- A host link (R325 to R327). -/
structure HostLink where
  up   : Bool
  mode : LinkMode
  deriving DecidableEq, Repr

/-- A fabric link's status register (R329). -/
structure FabricLink where
  retry  : Byte
  peer   : Byte
  crcerr : Bool
  width  : BitVec 2
  up     : Bool
  deriving DecidableEq, Repr

/-- A round whose partial sum has gone out on the uplink (R331): its number, the operations and links that wait for its result, what was
sent, and when it began. -/
structure UpRound where
  round : BitVec 16
  got   : List Nat
  links : List Nat
  sums  : List Int
  bad   : List Bool
  began : Nat
  deriving DecidableEq, Repr

/-- A reduction session (R330 to R334): its registers, the contributions of the current round with their fixed-point sum and poison marks:
the operations and the links they came from and their number; the rounds sent on the uplink; and the results sent back on links, with
their rounds. -/
structure Session where
  sctl   : Half
  scnt   : Half
  sroute : Half
  stime  : Half
  round  : BitVec 16
  abort  : Bool
  nan    : Bool
  trunc  : Bool
  sat    : Bool
  got    : List Nat
  links  : List Nat
  count  : Nat
  sums   : List Int
  bad    : List Bool
  uplink : List UpRound
  down   : List (Nat × BitVec 16 × List Half)
  began  : Option Nat
  deriving DecidableEq, Repr

/-- The trace unit (R357). -/
structure Trace where
  kinds : BitVec 20
  en    : Bool
  base  : Word
  log2  : BitVec 5
  wptr  : Half
  rptr  : Half
  lost  : Half
  deriving DecidableEq, Repr

/-- A work-queue unit (R310): the launch context and window entry it is granted to, and its items with their pushers'
pts. -/
structure WorkQueue where
  die   : Nat
  unit  : Nat
  ctx   : Option Nat
  win   : Nat
  items : List (Word × Word × Nat)
  deriving DecidableEq, Repr

/-- A page of a function's address space (R62, R197, R221); `lost` says that the pager has reported that it cannot be made
resident. -/
structure PageEntry where
  fn       : Nat
  va       : Nat
  log2     : Nat
  pa       : Nat
  r        : Bool
  w        : Bool
  region   : BitVec 2
  owner    : Nat
  resident : Bool
  lost     : Bool
  deriving DecidableEq, Repr

/-- Home timestamps of a line (R65): its space code and line key, wts and rts. -/
structure Stamp where
  sp  : Nat
  key : Nat
  wts : Nat
  rts : Nat
  deriving DecidableEq, Repr

/-- A copy of a line in a core's L1 (R62, R66, R193): its wts and rts, or, where it is `shared`, no lease; its 2-bit re-reference value,
and whether an uncorrected error stands in it (R371). -/
structure L1Copy where
  core   : Nat
  line   : Nat
  wts    : Nat
  rts    : Nat
  shared : Bool
  reref  : BitVec 2
  bad    : Bool
  bytes  : List Byte
  deriving DecidableEq, Repr

/-- A block of 64 bytes of lining in a core's scale cache (R238): its wts and rts, or, where it is `shared`, no lease; `bad` marks an
uncorrected error in it (R371). -/
structure ScaleBlock where
  core   : Nat
  block  : Nat
  wts    : Nat
  rts    : Nat
  shared : Bool
  bad    : Bool
  bytes  : List Byte
  deriving DecidableEq, Repr

/-- A line of code in a core's instruction cache (R301). -/
structure CodeLine where
  core  : Nat
  line  : Nat
  bytes : List Byte
  deriving DecidableEq, Repr

/-- The two last-page registers of a group slot, the one loaded last first (R197). -/
structure SlotPages where
  core  : Nat
  gslot : Nat
  pages : List PageEntry
  deriving DecidableEq, Repr

/-- The present cycle of a core: the ports that have issued in it, and how many of them an instruction of latency 4 or more (R349). -/
structure CoreCycle where
  core  : Nat
  ports : List Nat
  long  : Nat
  deriving DecidableEq, Repr

/-- An error record (R374). -/
structure ErrorRec where
  time   : Nat
  pa     : Nat
  engine : Nat
  kind   : Nat
  result : Nat
  deriving DecidableEq, Repr

/-- Latched copies of the status registers (R364). -/
structure Snapshot where
  time     : Nat
  islands  : List Island
  blocked  : List (Nat × Nat × Half)
  pockets  : List (TeamRef × List Half)
  links    : List FabricLink
  sessions : List (BitVec 16 × Bool × Bool × Bool × Bool)
  queues   : List (BitVec 12 × BitVec 12 × BitVec 12)
  trace    : Trace
  deriving DecidableEq, Repr

/-- An accumulator tile read by the debugger, or BUSY (R361). -/
inductive DebugReply where
  | none | busy | tile (t : List Half)
  deriving DecidableEq, Repr

/-- An attestation report (R369). -/
structure Report where
  nonce   : List Byte
  rom     : List Byte
  firmware : List Byte
  fused   : List Byte
  life    : LifeCycle
  masks   : List (BitVec 144)
  sig     : List Byte
  deriving DecidableEq, Repr

/-- What survives a reset: fuses, life cycle, staged firmware (R367 to R370). -/
structure Fuses where
  life     : LifeCycle
  nextLife : Option LifeCycle
  minVer   : Nat
  running  : List Byte
  staged   : Option (List Byte)
  keyGen   : Nat
  deriving DecidableEq, Repr

/-- The rack-cap state of the module controller (R351): the safe cap, the SEQ applied last, the message to be applied (SEQ, watts,
end), and the cap in force with its end. -/
structure RackCap where
  safe  : Nat
  seq   : Nat
  next  : Option (Nat × Nat × Nat)
  cap   : Option Nat
  ends  : Nat
  deriving DecidableEq, Repr

/-- What the next instruction runs on: the focused fragment, the focused team's sequencer, or a Tison core. -/
inductive Cur where
  | none | lane | matrix | tison (c : Nat)
  deriving DecidableEq, Repr

/-- A step of a stopped team (R360): the barrier and the phase it runs to, the issue at which that phase completed, and whether the
sequencer has stopped since. -/
structure Stepping where
  team    : TeamRef
  bar     : Nat
  phase   : Nat
  doneAt  : Option Nat
  seqHeld : Bool
  deriving DecidableEq, Repr

/-- Whose turn it is (the model's own round robin, log entry 1). -/
inductive Turn where
  | lane | matrix | event | tison
  deriving DecidableEq, Repr

/-- The module. -/
structure State where
  -- the model's own fields (log entries 1, 2 and 67): `held` lists the requests that wait until they can be performed, the oldest first, and
  -- `heldAt` when each arrived; `issueNo` counts the issues of R89
  agenda   : List Instr
  turn     : Turn
  cur      : Cur
  held     : List Instr
  heldAt   : List Nat
  issueNo  : Nat
  seqNo    : Nat
  ticks    : Nat
  -- time and power
  now      : Nat
  powered  : Bool
  recovery : Bool
  -- bring-up: when the limit of the fabric links' training ends, and whether the host links have trained and BAR0 is open (R366)
  fabricBy : Nat
  opened   : Bool
  -- resident teams
  tm       : Team
  teams    : List Team
  -- launches, commands, Tison
  ctxs     : List LaunchCtx
  queues   : List HostQueue
  signals  : BitVec 1024
  waiters  : List Waiter
  tison    : List Tison
  disabled : List Nat
  failed   : List Nat
  gated    : List Nat
  stopReq  : Bool
  stopped  : Bool
  stepping : Option Stepping
  jobs     : List Job
  copies   : List LaunchCtx
  fnLink   : List Nat
  -- memory
  mem      : Memory
  scr      : Memory
  dsp      : Memory
  tcm      : Memory
  absent   : List Nat
  poison   : List (Nat × Nat)
  stamps   : List Stamp
  pages    : List PageEntry
  l1       : List L1Copy
  scales   : List ScaleBlock
  icache   : List CodeLine
  tlb      : List (Nat × PageEntry)
  slotPages : List SlotPages
  hostBias : List Nat
  flipping : List (Nat × Bool)
  biasJobs : List BiasJob
  ops      : List EngineOp
  poolOps  : List PoolOp
  posted   : List Posted
  wqs      : List WorkQueue
  -- fabric and host
  hlinks   : List HostLink
  flinks   : List FabricLink
  sessions : List Session
  hostRead : List Byte
  -- power
  islands  : List Island
  cycles   : List CoreCycle
  rack     : RackCap
  -- debug, trace, bring-up, reliability
  trace    : Trace
  traceq   : List (Nat × TraceRec)
  dbgLog   : List (Nat × List Byte)
  snap     : Option Snapshot
  snapSource : Bool
  snapTime : Option Nat
  snapDue  : Option Nat
  frozen   : List (Nat × Island)
  dbgReply : DebugReply
  fuses    : Fuses
  report   : Option Report
  mailbox  : List Byte
  errCount : Nat
  drops    : Nat
  tests    : List (Nat × Nat × Bool)
  retired  : List Nat
  gone     : List Nat
  deadMem  : List Nat
  deriving DecidableEq, Repr

/-- Why the machine stops with a fault. -/
inductive Fault where
  /-- Raised by `step` when the module has no power (R366, R370, R375): only MODULE_RESET, an event, can go on. Safe: the
  machine stops where the hardware does nothing. -/
  | noPower
  deriving DecidableEq, Repr

/-- Why the machine has no meaning for what comes next. -/
inductive Refusal where
  /-- Raised by an arm of `exec` for an instruction that has no meaning yet. Safe. -/
  | notModelled (mnemonic : String)
  deriving DecidableEq, Repr

/-- Region record of a fragment that has none yet. -/
def Region.empty : Region :=
  { entryPc := 0, ldepth := 0, sdepth := 0, base := 0, count := 0, lc := 0, lb := 0, le := 0, rc := 0, cpreds := 0, exm := 0,
    disp := none, copies := [], breaks := false }

/-- A fragment at group start with an empty mask (R81). -/
def Frag.empty : Frag :=
  { mask := 0, pc := 0, sstk := [], cpreds := 0, link := [], lc := 0, lb := 0, le := 0, rc := 0, pts := 0, seen := 0, wait := .none,
    parkedAt := 0, parkedNs := 0, region := Region.empty, trap := none, fcode := 0, fpc := 0, fmask := 0, finfo := 0, replay := none,
    redisp := none, lastIssue := 0, passed := 0, promoted := false, turned := 0, yielded := false, yieldAt := 0, ahead := [], skipBp := false, held := false,
    struck := none }

/-- A lane never launched (R82). -/
def Lane.empty (ix : Nat) : Lane :=
  { ix := ix, live := false, stk := [], back := 0, slots := [], bad := [], preds := 0, lcw := 0, gen := 0, issued := 0, jcp := 0,
    jex := none, undo := [], mark := { preds := 0, lcw := 0, gen := 0 } }

/-- A seam in IDLE, every field cleared (R95). -/
def Seam.idle : Seam := { st := .idle, expect := 0, arrived := 0, dl := 0, ds := 0 }

/-- A group with no live lane. -/
def Group.empty : Group :=
  { uid := 0, gix := 0, gslot := 0, child := false, lanes := (List.range 32).map Lane.empty, fr := Frag.empty, frs := [],
    sslots := List.replicate 256 0, seams := List.replicate 8 Seam.idle, lost := false, sspill := false, seamrel := 0,
    drains := 0, dstall := 0, blkAt := 0, exitPts := 0, tcb := 0 }

/-- An undeclared barrier at placement (R181). -/
def Barrier.empty : Barrier :=
  { groups := 0, plusM := false, phase := 0, arr := [], absent := [], seqArr := false, seqLast := none, gangMark := false,
    pts := 0, last := [], gangDone := [], gangRel := [] }

/-- An EMPTY transfer slot (R180). -/
def XSlot.empty : XSlot := { vals := List.replicate 32 0, wmask := 0, full := false, pts := 0 }

/-- A table never loaded: all zero, d = 1 (R151, R230). -/
def AlgTable.empty : AlgTable := { bytes := List.replicate 72 0, dim := 1 }

/-- An accumulator slot at placement (R230). -/
def AccSlot.empty : AccSlot := { tok := .mat, pts := 0, tile := List.replicate 4096 0, bad := false }

/-- A tile view at placement: all zero, lining disabled (R230). -/
def TileView.empty : TileView :=
  { base := 0, rs := 0, ty := 0, sp := 0, lin := false, lbase := 0, lshift := 0, lsp := 0 }

/-- A sequencer context at placement but for the seeded generator (R230). -/
def Seq.empty : Seq :=
  { mpc := 0, st := .halted, pts := 0, loops := [], tv := List.replicate 32 TileView.empty, gs := 0, yoke := none,
    cp := 3, lp := 3, gen := 0, held := [], took := none, flight := none, array := false, units := 0, since := 0,
    waitNs := 0 }

/-- An undeclared ring (R287). -/
def Ring.empty : Ring :=
  { base := 0, slotBytes := 0, slots := 0, st := [], spts := [], queue := [], prods := [], ended := false, taken := false,
    sub := none, drain := none }

/-- A launch record of zeros. -/
def LaunchRec.empty : LaunchRec :=
  { code := 0, entry := 0, trap := 0, cw := 0, ch := 0, nclus := 0, gang := 0, dies := 0, team := 0, yoke := false, prio := 0,
    frame := 0, stack := 0, acc := 0, cres := 0, lease := 0, spad := 0, dspad := 0, seed := 0, drm := 0, task := false,
    dblk := 0, dcount := 0, spill := 0, spillsz := 0, wqmask := 0, bars := [], rings := [], views := [], spawns := [] }

/-- No team. -/
def Team.empty : Team :=
  { live := false, core := 0, ctx := 0, vcore := 0, cluster := 0, member := 0, home := 0, held := false, halting := false,
    lp := LaunchRec.empty,
    gp := Group.empty, gs := [], seed := 0, bars := List.replicate 16 Barrier.empty, xs := List.replicate 16 XSlot.empty,
    views := List.replicate 16 (List.replicate 16 0), vsets := [], tabs := List.replicate 4 AlgTable.empty, acc := [], phys := [], seq := Seq.empty,
    rings := List.replicate 16 Ring.empty, outs := [], block := [], lines := [], queued := [], swapped := [],
    resv := [] }

/-- A free task context (R305). -/
def TaskCtx.empty : TaskCtx := { opened := 0, rseq := 0, pool := [], spillq := [], running := [] }

/-- A free launch context (R21; R210, R302, R362 for its registers). -/
def LaunchCtx.empty : LaunchCtx :=
  { phase := .free, queue := 0, seqno := 0, sig := none, fn := 0, recPa := 0, copy := none, lp := LaunchRec.empty,
    svcArea := 0, dbgArea := 0, dbgNext := 0,
    deadN := 0, svcNext := 0,
    prog := List.replicate 16 0, dispC := 0, returned := [], tasks := TaskCtx.empty, fatal := none, map := [], units := [],
    attached := false, bps := List.replicate 4 0, wbase := List.replicate 4 0, wctl := List.replicate 4 0, causal := none,
    gangGone := [], pcnts := [], lastDone := 0 }

/-- A host queue after reset (R338); each of the 32 functions owns two of the 64 queues. -/
def HostQueue.reset (q : Nat) : HostQueue :=
  { cbase := 0, rbase := 0, en := false, log2 := 0, tail := 0, head := 0, rtail := 0, rhead := 0, ovr := false, fn := q / 2,
    order := [], fetched := [], pendL := none, blocked := false, comps := [] }

/-- A Tison core after reset (R335): its firmware's registers are zero by DESIGN CHOICE, log entry 4. -/
def Tison.reset : Tison :=
  { regs := List.replicate 32 0, pc := 0, pts := 0, mcause := 0, mepc := 0, mtval := 0, mtvec := 0, mstatus := 0, mscratch := 0,
    resv := none, asleep := false, run := false }

/-- An island after reset (R353). -/
def Island.reset : Island :=
  { pace := [], target := 3, pend := false, req := 3, applied := 3, moveTo := none, limit := 0, pstate := .on, fromOff := false,
    seqerr := false, ockill := false, iqreq := false, iqack := 0, saving := false, restored := false, done := false,
    coreSaved := 0, gate := false, mode := 0, cap := 96, used := 0, bursts := [], edge := 0, cq := [] }

/-- A reduction session after reset (R330). -/
def Session.reset : Session :=
  { sctl := 0, scnt := 0, sroute := 0, stime := 0, round := 0, abort := false, nan := false, trunc := false, sat := false,
    got := [], links := [], count := 0, sums := [], bad := [], uplink := [], down := [], began := none }

/-- The trace unit after reset (R357). -/
def Trace.reset : Trace := { kinds := 0, en := false, base := 0, log2 := 12, wptr := 0, rptr := 0, lost := 0 }

/-- A fabric link after reset (R329). -/
def FabricLink.reset : FabricLink := { retry := 0, peer := 0, crcerr := false, width := 0, up := false }

/-- The fuses of a part in DEPLOYED (DESIGN CHOICE, log entry 4). -/
def Fuses.reset : Fuses :=
  { life := .deployed, nextLife := none, minVer := 0, running := [], staged := none, keyGen := 0 }

/-- The module right after reset: the bring-up steps of R366 are done, every memory is wiped (R370), every register holds
the Reset value of its map, and no launch is resident. -/
def State.reset : State :=
  { agenda := [], turn := .lane, cur := .none, held := [], heldAt := [], issueNo := 0, seqNo := 0, ticks := 0, now := 0, powered := true, recovery := false,
    fabricBy := 0, opened := true,
    tm := Team.empty, teams := [], ctxs := List.replicate 8 LaunchCtx.empty,
    queues := (List.range 64).map HostQueue.reset, signals := 0, waiters := [], tison := List.replicate 4 Tison.reset,
    disabled := [], failed := [], gated := [], stopReq := false, stopped := false, stepping := none,
    jobs := [], copies := [], fnLink := List.replicate 16 0 ++ List.replicate 16 1, mem := [], scr := [], dsp := [], tcm := [], absent := [],
    poison := [], stamps := [], pages := [], l1 := [], scales := [], icache := [], tlb := [], slotPages := [], hostBias := [],
    flipping := [], biasJobs := [], ops := [], poolOps := [],
    posted := [], wqs := [], hlinks := List.replicate 2 { up := true, mode := .cxl },
    flinks := List.replicate 16 FabricLink.reset, sessions := List.replicate 64 Session.reset, hostRead := [],
    islands := List.replicate 48 Island.reset, cycles := [],
    rack := { safe := 1680, seq := 0, next := none, cap := none, ends := 0 }, trace := Trace.reset, traceq := [], dbgLog := [],
    snap := none, snapSource := false, snapTime := none, snapDue := none, frozen := [], dbgReply := .none, fuses := Fuses.reset,
    report := none, mailbox := [], errCount := 0, drops := 0, tests := [], retired := [], gone := [], deadMem := [] }

end Sys2Proof.Machine
end

