-- ==== Sys2Proof/Machine/Ops.lean ====
section
/-!
DEFINITION. The named operations that the meanings share: memory, the focused fragment and its lanes, regions, the end of
an instruction with its loop check, parking, and taking a fault: entering the trap handler and returning from it, or ending
the launch.
-/
namespace Sys2Proof.Machine

/-! ### Memory -/

/-- The byte at an address; an unlisted address reads 0 (R370). -/
def memGet : Memory → Nat → Byte
  | [], _ => 0
  | c :: cs, a => if c.1 = a then c.2 else memGet cs a

/-- Lists a byte at its place among rising addresses. -/
def memPut : Memory → Nat → Byte → Memory
  | [], a, b => [(a, b)]
  | c :: cs, a, b => if a < c.1 then (a, b) :: c :: cs else if a = c.1 then (a, b) :: cs else c :: memPut cs a b

/-- Writes a byte and keeps the canonical form: the byte 0 takes the address off the list. -/
def memSet (m : Memory) (a : Nat) (b : Byte) : Memory := if b = 0 then m.filter fun c => c.1 != a else memPut m a b

/-- The canonical form of a memory: addresses strictly rising, no byte 0 listed. -/
def Memory.wf : Memory → Bool
  | [] => true
  | [c] => c.2 != 0
  | c :: d :: cs => c.2 != 0 && decide (c.1 < d.1) && Memory.wf (d :: cs)

/-- Space codes of keys: 0 physical device and host memory, 2 core scratchpads, 4 die scratchpads, 5 Tison memories. -/
def State.memOf (s : State) (sp : Nat) : Memory :=
  match sp with
  | 2 => s.scr
  | 4 => s.dsp
  | 5 => s.tcm
  | _ => s.mem

/-- Replaces the memory of a space. -/
def State.setMemOf (s : State) (sp : Nat) (m : Memory) : State :=
  match sp with
  | 2 => { s with scr := m }
  | 4 => { s with dsp := m }
  | 5 => { s with tcm := m }
  | _ => { s with mem := m }

/-- One byte of a space. -/
def State.byteAt (s : State) (sp key : Nat) : Byte := memGet (s.memOf sp) key

/-- Writes one byte of a space. -/
def State.putByte (s : State) (sp key : Nat) (b : Byte) : State := s.setMemOf sp (memSet (s.memOf sp) key b)

/-- `n` bytes of a space from `key` on. -/
def State.bytesAt (s : State) (sp key n : Nat) : List Byte := (List.range n).map fun i => s.byteAt sp (key + i)

/-- Writes bytes of a space in ascending address order. -/
def State.putBytes (s : State) (sp key : Nat) : List Byte → State
  | [] => s
  | b :: bs => (s.putByte sp key b).putBytes sp (key + 1) bs

/-- `n` bytes read as a little-endian number (R4). -/
def State.natAt (s : State) (sp key n : Nat) : Nat := ofBytes (s.bytesAt sp key n)

/-- Writes the low `n` bytes of a number, little-endian (R4). -/
def State.putNat (s : State) (sp key n v : Nat) : State := s.putBytes sp key (toBytes n v)

/-- Performs a list of byte writes. -/
def State.putWrites (s : State) : List ByteWrite → State
  | [] => s
  | w :: ws => (s.putByte w.sp w.key w.val).putWrites ws

/-- The key of scratchpad offset `off` of the team of launch context `ctx` on `core` (log entry 10). -/
def scrKey (core ctx off : Nat) : Nat := (core * 8 + ctx) * 2 ^ 20 + off

/-- The key of an offset into a launch's share of a die scratchpad (log entry 10). -/
def dspKey (die ctx off : Nat) : Nat := (die * 8 + ctx) * 2 ^ 26 + off

/-- The line of a key (R13). -/
def lineOf (key : Nat) : Nat := key / 128

/-! ### The focus -/

/-- The executing fragment, group and its lanes. -/
abbrev State.fr (s : State) : Frag := s.tm.gp.fr
abbrev State.gp (s : State) : Group := s.tm.gp

/-- Replaces the team, group, fragment or lanes in focus. -/
def State.setTm (s : State) (t : Team) : State := { s with tm := t }
def State.setGp (s : State) (g : Group) : State := { s with tm := { s.tm with gp := g } }
def State.setFr (s : State) (f : Frag) : State := { s with tm := { s.tm with gp := { s.tm.gp with fr := f } } }
def State.setLanes (s : State) (ls : List Lane) : State := { s with tm := { s.tm with gp := { s.tm.gp with lanes := ls } } }

/-- The launch context of the focused team. -/
def State.ctx (s : State) : LaunchCtx := s.ctxs.getD s.tm.ctx LaunchCtx.empty

/-- Changes a launch context. -/
def State.modCtx (s : State) (c : Nat) (f : LaunchCtx → LaunchCtx) : State := { s with ctxs := s.ctxs.modify c f }

/-- Whether a lane index lies in a mask. -/
def inMask (m : Mask) (i : Nat) : Bool := m.getLsbD i

/-- The active lanes of the focused fragment, ascending. -/
def State.active (s : State) : List Lane := s.gp.lanes.filter fun l => inMask s.fr.mask l.ix

/-- Changes each active lane of the focused fragment. -/
def State.mapActive (s : State) (f : Lane → Lane) : State :=
  s.setLanes (s.gp.lanes.map fun l => if inMask s.fr.mask l.ix then f l else l)

/-- Changes each lane of a mask of the focused group. -/
def State.mapMask (s : State) (m : Mask) (f : Lane → Lane) : State :=
  s.setLanes (s.gp.lanes.map fun l => if inMask m l.ix then f l else l)

/-- The fragment's lane depth (R83). -/
def State.laneDepth (s : State) : Nat :=
  match s.active with
  | [] => 0
  | l :: _ => l.stk.length

/-- The logical capacity of a lane's stack (R83). -/
def State.laneCap (s : State) : Nat := 8 + s.tm.lp.stack

/-- A lane predicate; P0 reads 1 (R88). -/
def predBit (b : Byte) (p : Nat) : Bool := p == 0 || b.getLsbD p

/-- Writes a predicate; a write to P0 or C0 is discarded (R88). -/
def setPred (b : Byte) (p : Nat) (v : Bool) : Byte :=
  if p = 0 ∨ 8 ≤ p then b else if v then b ||| BitVec.ofNat 8 (2 ^ p) else b &&& ~~~(BitVec.ofNat 8 (2 ^ p))

/-- A P guard in one lane (R102). -/
def Lane.guard (l : Lane) (g : Guard) : Bool := predBit l.preds g.p.val != g.neg

/-- A C guard of the fragment (R102). -/
def Frag.guard (f : Frag) (g : Guard) : Bool := predBit f.cpreds g.p.val != g.neg

/-- The lanes of the executing fragment whose guard holds: per lane from P, or all or none from C (R102, R103). -/
def State.guarded (s : State) (d : Bool) (g : Guard) : Mask :=
  if d then (if s.fr.guard g then s.fr.mask else 0)
  else maskOf fun i => inMask s.fr.mask i && (s.gp.lanes.any fun l => l.ix == i && l.guard g)

/-- The live fragments of a group, the executing one first. -/
def Group.allFrags (g : Group) : List Frag := (g.fr :: g.frs).filter fun f => f.mask != 0

/-- A group with a live lane (R82). -/
def Group.alive (g : Group) : Bool := g.lanes.any (·.live)

/-- The live lanes of a group. -/
def Group.liveMask (g : Group) : Mask := maskOf fun i => g.lanes.any fun l => l.ix == i && l.live

/-- The live groups of a team that hold a slot, the focused one first. -/
def Team.groups (t : Team) : List Group := (t.gp :: t.gs).filter Group.alive

/-- The resident teams, the focused one first. -/
def State.allTeams (s : State) : List Team := (s.tm :: s.teams).filter (·.live)

/-- Brings the team of `ctx` on `core` into focus. -/
def State.focusTeam (s : State) (core ctx : Nat) : State :=
  let is := fun (t : Team) => t.live && t.core == core && t.ctx == ctx
  if is s.tm then s
  else match s.teams.find? is with
    | none => s
    | some t => { s with tm := t, teams := (if s.tm.live then [s.tm] else []) ++ s.teams.filter fun u => !is u }

/-- Brings the group in group slot `g` of the focused team into focus. -/
def Team.focusGroup (t : Team) (g : Nat) : Team :=
  let is := fun (x : Group) => x.alive && x.gslot == g
  if is t.gp then t
  else match t.gs.find? is with
    | none => t
    | some x => { t with gp := x, gs := (if t.gp.alive then [t.gp] else []) ++ t.gs.filter fun y => !is y }

/-- Brings the fragment that satisfies `is` into focus in its group. -/
def Group.focusFrag (g : Group) (is : Frag → Bool) : Group :=
  if g.fr.mask != 0 && is g.fr then g
  else match g.frs.find? is with
    | none => g
    | some f => { g with fr := f, frs := (if g.fr.mask != 0 then [g.fr] else []) ++ g.frs.filter fun x => x.mask != f.mask }

/-- Brings a group of the focused team into focus. -/
def State.focusGroup (s : State) (g : Nat) : State := s.setTm (s.tm.focusGroup g)

/-- Brings the fragment of the focused group that holds `lane` into focus. -/
def State.focusLane (s : State) (lane : Nat) : State := s.setGp (s.gp.focusFrag fun f => inMask f.mask lane)

/-- Brings a named fragment into focus: the one that holds the lane, in the group in that slot of that core. -/
def State.focusRef (s : State) (r : FragRef) : State :=
  match s.allTeams.find? (fun t => t.core == r.core && t.groups.any fun g => g.gslot == r.gslot) with
  | none => s
  | some t => ((s.focusTeam t.core t.ctx).focusGroup r.gslot).focusLane r.lane

/-- Whether a named fragment exists. -/
def State.hasFrag (s : State) (r : FragRef) : Bool :=
  s.allTeams.any fun t => t.core == r.core &&
    t.groups.any fun g => g.gslot == r.gslot && g.allFrags.any fun f => inMask f.mask r.lane

/-- The name of the focused fragment (R69). -/
def State.fragRef (s : State) : FragRef := { core := s.tm.core, gslot := s.gp.gslot, lane := lowestLane s.fr.mask }

/-- A lane fragment's agent number (R69). -/
def agentOf (r : FragRef) : BitVec 32 := BitVec.ofNat 32 (r.core * 2 ^ 18 + r.gslot * 2 ^ 11 + r.lane)

/-- The agent number of an engine operation, by its engine identity, of a host link port and of a Tison core (R69). -/
def engineAgent (engine : Nat) : BitVec 32 := BitVec.ofNat 32 (0x1000_0000 + engine)
def linkAgent (link : Nat) : BitVec 32 := BitVec.ofNat 32 (0x2000_0000 + link)
def tisonAgent (core : Nat) : BitVec 32 := BitVec.ofNat 32 (0x3000_0000 + core)

/-- Changes a named team, whether in focus or not. -/
def State.modTeam (s : State) (r : TeamRef) (f : Team → Team) : State :=
  let is := fun (t : Team) => t.live && t.core == r.core && t.ctx == r.ctx
  { s with tm := if is s.tm then f s.tm else s.tm, teams := s.teams.map fun t => if is t then f t else t }

/-- A named team. -/
def State.findTeam (s : State) (r : TeamRef) : Option Team :=
  s.allTeams.find? fun t => t.core == r.core && t.ctx == r.ctx

/-- The name of the focused team. -/
def State.teamRef (s : State) : TeamRef := { core := s.tm.core, ctx := s.tm.ctx }

/-- Changes every fragment of a group. -/
def Group.mapFrags (g : Group) (f : Frag → Frag) : Group := { g with fr := f g.fr, frs := g.frs.map f }

/-- Changes every group of a team. -/
def Team.mapGroups (t : Team) (f : Group → Group) : Team := { t with gp := f t.gp, gs := t.gs.map f }

/-- Changes every team. -/
def State.mapTeams (s : State) (f : Team → Team) : State := { s with tm := f s.tm, teams := s.teams.map f }

/-! ### Engine identities and times (R23) -/

/-- A 16-bit engine identity. -/
def engineId (kind die unit : Nat) : Nat := kind * 2 ^ 13 + die * 2 ^ 10 + unit

/-- The identity of a core's lane engine, matrix engine, copy path or work engine. -/
def laneEngine (core : Nat) : Nat := engineId 0 (core / 144) (core % 144)
def matrixEngine (core : Nat) : Nat := engineId 1 (core / 144) (core % 144)
def copyEngine (core : Nat) : Nat := engineId 2 (core / 144) (256 + core % 144)
def poolEngine : Nat := engineId 3 4 0

/-- The die of a core (R10). -/
def dieOf (core : Nat) : Nat := core / 144

/-- The island of a core, 0 to 47 (R10, R353). -/
def islandOf (core : Nat) : Nat := (core / 144) * 12 + ((core % 144) / 12 / 4) * 4 + ((core % 12) / 3)

/-- A core's bit within its island (R353). -/
def coreBit (core : Nat) : Nat := ((core % 144) / 12 % 4) * 3 + core % 12 % 3

/-! ### Stamps (R65, R66) -/

/-- A line of a space: its SPACE code of keys and line number. -/
abbrev LineId := Nat × Nat

/-- The stamps of a line; a line never stamped holds zeros (log entry 6). -/
def State.stampOf (s : State) (x : LineId) : Stamp :=
  (s.stamps.find? fun p => p.sp == x.1 && p.key == x.2).getD { sp := x.1, key := x.2, wts := 0, rts := 0 }

/-- Replaces the stamps of a line. -/
def State.putStamp (s : State) (p : Stamp) : State :=
  if s.stamps.any fun q => q.sp == p.sp && q.key == p.key then
    { s with stamps := s.stamps.map fun q => if q.sp == p.sp && q.key == p.key then p else q }
  else { s with stamps := s.stamps ++ [p] }

/-- The stamp of an event that reads and writes lines (R66, R71, R233). -/
def State.eventStamp (s : State) (pts : Nat) (rd wr : List LineId) : Nat :=
  let t := rd.foldl (fun t x => max t (s.stampOf x).wts) pts
  wr.foldl (fun t x => max t ((s.stampOf x).rts + 1)) t

/-- Sets wts and rts of each written line to the event's stamp (R66). -/
def State.stampWrites (s : State) (t : Nat) : List LineId → State
  | [] => s
  | x :: xs => (s.putStamp { sp := x.1, key := x.2, wts := t, rts := t }).stampWrites t xs

/-- Raises rts of each read line to `t` (R66). -/
def State.stampReads (s : State) (t : Nat) : List LineId → State
  | [] => s
  | x :: xs =>
    let p := s.stampOf x
    (s.putStamp { p with rts := max p.rts t }).stampReads t xs

/-- One event: its stamp is taken, and its lines are stamped, the leased ones with the lease (R66, R67). -/
def State.stampEvent (s : State) (pts lease : Nat) (rd leased wr : List LineId) : State × Nat :=
  let t := s.eventStamp pts (rd ++ leased) wr
  (((s.stampWrites t wr).stampReads (t + lease) leased).stampReads t rd, t)

/-- The lease length of the focused team's launch (R67). -/
def State.lease (s : State) : Nat := if s.tm.lp.lease = 0 then 16 else s.tm.lp.lease

/-! ### Regions (R172, R224) -/

/-- The region that begins at `entry` in a fragment whose depths are `ld` and its scalar stack's length. -/
def Frag.regionAt (f : Frag) (entry : Word) (base count ld : Nat) : Region :=
  { entryPc := entry, ldepth := ld, sdepth := f.sstk.length, base := base, count := count, lc := f.lc, lb := f.lb, le := f.le,
    rc := f.rc, cpreds := f.cpreds, exm := f.mask, disp := none, copies := [], breaks := false }

/-- A lane at the beginning of a region: its undo log is empty and its entry values are its own. -/
def Lane.markRegion (l : Lane) : Lane :=
  { l with undo := [], mark := { preds := l.preds, lcw := l.lcw, gen := l.gen } }

/-- Whether a step of the focused team has reached its phase, so that its fragments stop (R360). -/
def State.stepDone (s : State) : Bool := s.stepping.any fun k => k.team == s.teamRef && k.doneAt.isSome

/-- Begins a region at `entry` with the window `base`, `count`; after the phase of a step the fragment stops there (R360). -/
def State.beginRegion (s : State) (entry : Word) (base count : Nat) : State :=
  (s.setFr { s.fr with region := s.fr.regionAt entry base count s.laneDepth, held := s.fr.held || s.stepDone }).mapActive Lane.markRegion

/-- The region that follows a region-ending instruction: the same window, at the fragment's next instruction. -/
def State.nextRegion (s : State) : State := s.beginRegion s.fr.pc s.fr.region.base s.fr.region.count

/-! ### The end of an instruction (R168, R169) -/

/-- The loop registers of a fragment as the check of R168 sees them. -/
structure LoopRegs where
  pc   : Word
  pts  : Nat
  lc   : Half
  lb   : Word
  le   : Word
  link : List LinkEntry

/-- R168 with no outer loop left to restore: an arrival at LE counts, a taken transfer out of [LB, LE] ends the loop. -/
def loopOnce (taken : Bool) (r : LoopRegs) : LoopRegs × Bool :=
  if r.lc = 0 then (r, false)
  else if r.pc = r.le then
    if r.lc = 1 then ({ r with lc := 0 }, true) else ({ r with lc := r.lc - 1, pc := r.lb, pts := r.pts + 1 }, false)
  else if taken && (decide (r.pc < r.lb) || decide (r.le < r.pc)) then ({ r with lc := 0 }, true)
  else (r, false)

/-- The loop check of R168: an ended loop gives way to a triple saved by `loop`, which is checked again. -/
def loopCheck (taken : Bool) : List LinkEntry → LoopRegs → LoopRegs
  | .loopTriple lc lb le :: rest, r =>
    match loopOnce taken r with
    | (r', true) => loopCheck taken rest { r' with lc := lc, lb := lb, le := le, link := rest }
    | (r', false) => r'
  | _, r =>
    match loopOnce taken r with
    | (r', true) => { r' with lb := 0, le := 0 }
    | (r', false) => r'

/-- Continues a fragment at `pc` after the loop check. -/
def Frag.goOn (f : Frag) (taken : Bool) (pc : Word) : Frag :=
  let r := loopCheck taken f.link { pc := pc, pts := f.pts, lc := f.lc, lb := f.lb, le := f.le, link := f.link }
  { f with pc := r.pc, pts := r.pts, lc := r.lc, lb := r.lb, le := r.le, link := r.link }

/-- A fragment whose instruction is over: it no longer waits and holds no replay, and no region began for that instruction alone (R173). -/
def Frag.unwait (f : Frag) : Frag := { f with wait := .none, replay := none, region := { f.region with breaks := false } }

/-- The fragment after an instruction of `len` bytes that transfers nowhere: the next repetition of R169, or the next
instruction. -/
def Frag.advance (f : Frag) (len : Nat) : Frag :=
  let f := f.unwait
  if 1 < f.rc.toNat then { f with rc := f.rc - 1, pts := f.pts + 1 }
  else { f with rc := 0 }.goOn false (f.pc + BitVec.ofNat 64 len)

/-- The end of an instruction that transfers nowhere. -/
def State.finish (s : State) (len : Nat) : State := s.setFr (s.fr.advance len)

/-- The end of an instruction that also ends its region (R172). -/
def State.finishRegion (s : State) (len : Nat) : State := (s.finish len).nextRegion

/-- A taken transfer to `target`; a negative offset raises pts (R160, R68). -/
def State.transfer (s : State) (target : Word) (negative : Bool) : State :=
  s.setFr ({ s.fr.unwait with pts := s.fr.pts + bit negative }.goOn true target)

/-! ### Faults (R213 to R218) -/

/-- The fault codes of R214. -/
inductive Code where
  | illop | illty | stkunf | stkovf | depth | brnu | xlexit | xmask | regunf | slotrng | ssplit | page | prot | region | rlock
  | spwr | align | space | acctok | mtok | mshape | mfmt | algt | yoke | ringst | wq | task | spawnmem | dlck | trapi | brk
  | watch | eccu
  deriving DecidableEq, Repr

/-- The number of a fault code (R214). -/
def codeNum : Code → Nat
  | .illop => 0x01 | .illty => 0x02 | .stkunf => 0x03 | .stkovf => 0x04 | .depth => 0x05 | .brnu => 0x06 | .xlexit => 0x07
  | .xmask => 0x08 | .regunf => 0x09 | .slotrng => 0x0A | .ssplit => 0x0B | .page => 0x10 | .prot => 0x11 | .region => 0x12
  | .rlock => 0x13 | .spwr => 0x14 | .align => 0x15 | .space => 0x16 | .acctok => 0x20 | .mtok => 0x21 | .mshape => 0x22
  | .mfmt => 0x23 | .algt => 0x24 | .yoke => 0x25 | .ringst => 0x30 | .wq => 0x31 | .task => 0x32 | .spawnmem => 0x33
  | .dlck => 0x34 | .trapi => 0x40 | .brk => 0x41 | .watch => 0x42 | .eccu => 0x51

/-- A fault of the executing fragment: its code, `%fmask` and `%finfo` (R214). -/
structure LaneFault where
  code : Code
  mask : Mask
  info : Nat
  deriving DecidableEq, Repr

/-- What the body of an instruction comes to: a next state, a fault, or parking (R97, R213). -/
inductive Res where
  | ok (s : State)
  | fault (f : LaneFault)
  | park (w : Wait) (s : State)

/-- A fault with the fragment's mask. -/
def State.faultAll (s : State) (c : Code) (info : Nat) : LaneFault := { code := c, mask := s.fr.mask, info := info }

/-- Writes the trap registers (R214). -/
def Frag.trapRegs (f : Frag) (x : LaneFault) (pc : Word) : Frag :=
  { f with fcode := BitVec.ofNat 32 (codeNum x.code), fpc := pc, fmask := x.mask, finfo := BitVec.ofNat 64 x.info, struck := none }

/-- What trap entry records; `next` is the address after the faulting instruction (R215). -/
def State.trapRecord (s : State) (next : Word) : TrapRec :=
  let f := s.fr
  { pc := f.pc, next := next, lc := f.lc, lb := f.lb, le := f.le, rc := f.rc, cpreds := f.cpreds, region := f.region,
    replay := f.replay, ldepth := s.laneDepth, sdepth := f.sstk.length, marks := s.active.map fun l => (l.ix, l.mark, l.undo) }

/-- TAKING A FAULT INTO THE HANDLER (R215): the record, the trap registers, the loop registers cleared, a new region over
the whole frame, and the handler's address. -/
def State.trapEntry (s : State) (x : LaneFault) (pc next : Word) : State :=
  let f := s.fr
  let g := (f.trapRegs x pc).unwait
  (s.setFr { g with trap := some (s.trapRecord next), lc := 0, lb := 0, le := 0, rc := 0, pc := s.tm.lp.trap }).beginRegion s.tm.lp.trap 0
    s.tm.lp.frame

/-- The place of a fatal fault among those of one cycle (R30): a core's number, a lane's before its sequencer's, the lower agent number;
behind them the units that are no cores, by engine identity. -/
def lanePlace (r : FragRef) : Nat := r.core * 2 ^ 20 + r.gslot * 2 ^ 5 + r.lane
def seqPlace (core : Nat) : Nat := core * 2 ^ 20 + 2 ^ 19
def unitPlace (engine : Nat) : Nat := 2 ^ 40 + engine

/-- A fatal fault raised now (R30). -/
def State.fatalFault (s : State) (code engine place : Nat) (detail : Word) : Fatal :=
  { status := 1, code := code, engine := engine, detail := detail, tick := s.ticks, place := place }

/-- The fatal event that a completion carries: the first, and among those of one step the first in R30's order. -/
def Fatal.first (old : Option Fatal) (x : Fatal) : Fatal :=
  match old with
  | none => x
  | some y => if y.tick = x.tick ∧ x.place < y.place then x else y

/-- A fatal event of a launch: the launch is stopped by Tison (R30). -/
def State.fatal (s : State) (c : Nat) (x : Fatal) : State :=
  s.modCtx c fun k => { k with fatal := some (Fatal.first k.fatal x), phase := .stopping }

/-- A RUNNING task of a team whose fragment faults fatally becomes FAULTED: FSTAT and STATE in its TCB (R304, R305). -/
def State.faultTasks (s : State) (r : TeamRef) (code engine : Nat) (pa : Word → Option Nat) : State :=
  let k := s.ctxs.getD r.ctx LaunchCtx.empty
  let mine := k.tasks.running.filter fun t => t.2 == r
  let s := mine.foldl (fun s t => match pa t.1 with
    | some a => (((s.putNat 0 (a + 28) 4 (code + engine * 2 ^ 16)).putNat 0 (a + 25) 1 5).stampEvent 0 0 [] [] [(0, lineOf a)]).1
    | none => s) s
  s.modCtx r.ctx fun k => { k with tasks := { k.tasks with
    running := k.tasks.running.filter (fun t => t.2 != r), opened := k.tasks.opened - mine.length } }

/-- A page of function `fn` that maps a virtual address (R62, R197); a retired 4 KB frame is in no mapping (R372). -/
def State.pageOf (s : State) (fn va : Nat) : Option PageEntry :=
  s.pages.find? fun p => p.fn == fn && p.va == va / 2 ^ p.log2 * 2 ^ p.log2 &&
    !s.gone.contains ((p.pa + va % 2 ^ p.log2) / 4096)

/-- The physical address that a page gives a virtual address. -/
def PageEntry.phys (p : PageEntry) (va : Nat) : Nat := p.pa + va % 2 ^ p.log2

/-- The physical address of a virtual address of a function, through a resident page (R62, R335). -/
def State.physOf (s : State) (fn va : Nat) : Option Nat :=
  match s.pageOf fn va with
  | some p => if p.resident then some (p.phys va) else none
  | none => none

/-- A join counter: its physical address and whether reads of its line take a lease (R62, R66). -/
structure Counter where
  pa     : Nat
  leased : Bool
  deriving DecidableEq, Repr

/-- A page under a flip that the device is losing (R79). -/
def State.flipHeld (s : State) (pa : Nat) : Bool := s.flipping.any fun f => f.1 == pa / 4096 && f.2

/-- Where a join counter lies, on a resident page that the device is not losing to a flip (R79, R312, R313). -/
def State.counterAt (s : State) (fn : Nat) (a : Word) : Option Counter :=
  match s.pageOf fn a.toNat with
  | some p => if p.resident && !s.flipHeld (p.phys a.toNat) then some { pa := p.phys a.toNat, leased := p.region == 0 } else none
  | none => none

/-- One event that adds atomically to the words at some counters, from `pts` (R66, R199, R312, R313). -/
def State.stampAtomics (s : State) (pts lease : Nat) (cs : List Counter) : State × Nat :=
  let lines := fun (p : Counter → Bool) => ((cs.filter p).map fun c => ((0, lineOf c.pa) : LineId)).dedup
  s.stampEvent pts lease (lines fun c => !c.leased) (lines fun c => c.leased) (lines fun _ => true)

/-- The pager makes a mapped page resident (R221). -/
def State.pageIn (s : State) (fn va : Nat) : State :=
  match s.pageOf fn va with
  | some p => { s with pages := s.pages.map fun q => if q = p then { q with resident := true, lost := false } else q }
  | none => s

/-- Whether a virtual address has no translation and gets none: its mapping is invalid, or the pager has reported that the page cannot
be made resident (R221). -/
def State.pageFails (s : State) (fn va : Nat) : Bool :=
  match s.pageOf fn va with
  | some p => p.lost && !p.resident
  | none => true

/-- The four identity fields of a dump, in the layout of a trace record's bytes 8 to 23, KIND being 0 (R23, R356). -/
def dumpHead (engine : Nat) (k : LaunchCtx) (tcb : Word) : List Byte :=
  toBytes 2 engine ++ [0, BitVec.ofNat 8 k.queue] ++ toBytes 4 k.seqno.toNat ++ toBytes 8 tcb.toNat

/-- Writes bytes to the launch's debug area as one event, each where a resident page of the launch's function maps it
(R341). -/
def State.putVirtual (s : State) (fn va : Nat) : List Byte → State
  | [] => s
  | b :: bs =>
    let t := match s.physOf fn va with
      | some pa => s.putByte 0 pa b
      | none => s
    t.putVirtual fn (va + 1) bs

/-- The device lines of a virtual range that keep stamps. -/
def State.virtualLines (s : State) (fn va n : Nat) : List LineId :=
  ((List.range n).filterMap fun i => (s.physOf fn (va + i)).map fun pa => ((0, lineOf pa) : LineId)).dedup

/-- Appends a record to the debug log of a launch (R327). -/
def State.log (s : State) (c : Nat) (bytes : List Byte) : State := { s with dbgLog := s.dbgLog ++ [(c, bytes)] }

/-- A DUMP (R30, R276, R322, R356): the identity fields and a record go to the launch's debug log and, padded to 16 bytes, behind the
earlier dumps of its debug area while there is room (log entry 44); a COPY has no debug area (R341). -/
def State.dump (s : State) (c engine : Nat) (tcb : Word) (bytes : List Byte) : State :=
  let k := s.ctxs.getD c LaunchCtx.empty
  let all := dumpHead engine k tcb ++ bytes
  let size := (all.length + 15) / 16 * 16
  let at' := k.dbgArea.toNat + k.dbgNext
  let s := s.log c all
  if k.copy.isNone && k.dbgNext + size ≤ 65536 then
    let t := (s.putVirtual k.fn at' all).stampEvent 0 0 [] [] (s.virtualLines k.fn at' all.length)
    t.1.modCtx c fun k => { k with dbgNext := k.dbgNext + size }
  else s

/-- The 32-byte record of a fatal lane fault (R30): the layout of R276 with `%fmask`, `%fpc` and `%finfo` (log entry 44). -/
def laneRecord (x : LaneFault) (engine : Nat) (pc : Word) : List Byte :=
  toBytes 1 (codeNum x.code) ++ [0] ++ toBytes 2 engine ++ toBytes 4 x.mask.toNat ++ toBytes 8 pc.toNat ++ toBytes 8 0 ++
    toBytes 8 x.info

/-- A fault that no handler takes: its registers are written, the fragment stops for good, the fault is logged, and the launch ends
(R30, R214 to R217, R305). -/
def State.launchEnds (s : State) (x : LaneFault) (pc : Word) : State :=
  let e := laneEngine s.tm.core
  let fn := s.ctx.fn
  let s := s.setFr { s.fr.trapRegs x pc with wait := .dead }
  let s := s.faultTasks s.teamRef (codeNum x.code) e (fun w => s.physOf fn w.toNat)
  let s := s.dump s.tm.ctx e s.gp.tcb (laneRecord x e pc)
  s.fatal s.tm.ctx (s.fatalFault (codeNum x.code) e (lanePlace s.fragRef) 0)

/-- A trace record as bytes (R356). -/
def traceBytes (time : Nat) (r : TraceRec) : List Byte :=
  toBytes 8 time ++ toBytes 2 r.engine.toNat ++ [r.kind, r.queue] ++ toBytes 4 r.seq.toNat ++ toBytes 8 r.tcb.toNat ++
    toBytes 8 r.data.toNat

/-- Whether the trace unit takes records of a KIND: bit k + 19 of TCTL, which is bit k + 7 of KINDS (R357). -/
def Trace.takes (t : Trace) (k : Nat) : Bool := t.en && decide (1 ≤ k) && decide (k ≤ 11) && t.kinds.getLsbD (k + 7)

/-- Whether a record of 32 bytes at WPTR would pass RPTR: the free bytes are those from WPTR up to RPTR, all of the ring where the two
are equal, and a record that left them equal would make a full ring look empty (R357, log entry 40). -/
def Trace.room (t : Trace) : Bool :=
  let size := 2 ^ t.log2.toNat
  let gap := (t.rptr.toNat % size + size - t.wptr.toNat % size) % size
  gap == 0 || decide (32 < gap)

/-- The next tick of the 100 MHz reference counter after a time in ns (R364). -/
def nextTick (ns : Nat) : Nat := (ns / 10 + 1) * 10

/-- The name under which the trace unit posts its records, and whether a posted store is one of them (R358). -/
def traceTeam : TeamRef := { core := 576, ctx := 8 }
def Posted.isRecord (p : Posted) : Bool := p.team == traceTeam

/-- How many trace records are on their way to host-bias pages. -/
def State.recordsPosted (s : State) : Nat := s.posted.countP Posted.isRecord

/-- WPTR after `n` more records of 32 bytes (R357). -/
def Trace.ahead (t : Trace) (n : Nat) : Trace := { t with wptr := BitVec.ofNat 32 ((t.wptr.toNat + 32 * n) % 2 ^ t.log2.toNat) }

/-- Where the next trace record goes: behind those that are on their way (R357, R358). -/
def State.recordPa (s : State) : Nat := s.trace.base.toNat % 2 ^ 52 + (s.trace.ahead s.recordsPosted).wptr.toNat

/-- A trace record at its place in the ring: on a page in host bias it is a posted store of the link port, in order behind the others (R77,
R358), and one behind a link that is down is dropped and logged (R327). WPTR passes a record once it stands in memory whole (R358). -/
def State.putRecord (s : State) (bytes : List Byte) : State :=
  let pa := s.recordPa
  if !s.hostBias.contains (pa / 4096) then { s.putBytes 0 pa bytes with trace := s.trace.ahead 1 }
  else if (s.hlinks.getD 0 { up := true, mode := .cxl }).up then
    { s with seqNo := s.seqNo + 1
             posted := s.posted ++ [{ id := s.seqNo + 1, team := traceTeam, who := 0, mask := BitVec.allOnes 32, link := 0,
                                      bytes := bytes.mapIdx fun i b => (pa + i, b), passed := 2 }] }
  else s.log 8 bytes

/-- Writes a trace record when the unit and its KIND are enabled and the ring has room before RPTR; otherwise the record is
dropped, and counted in LOST when only the room was wanting (R357). A record of an enabled KIND triggers a snapshot where the debugger
has made it a source (R364). -/
def State.trace1 (s : State) (time : Nat) (r : TraceRec) : State :=
  let t := s.trace
  if !t.takes r.kind.toNat then s
  else
    let s := if s.snapSource && r.kind != 11 then { s with snapDue := some (s.snapDue.getD (nextTick s.now)) } else s
    if !(t.ahead s.recordsPosted).room then
      { s with trace := { t with lost := if t.lost = BitVec.allOnes 32 then t.lost else t.lost + 1 } }
    else s.putRecord (traceBytes time r)

/-- An event sends a record to the trace unit, if the unit takes its KIND (R356, R357). -/
def State.note (s : State) (r : TraceRec) : State :=
  if s.trace.takes r.kind.toNat then { s with traceq := s.traceq ++ [(s.now, r)] } else s

/-- A record of a launch context's command (R356). -/
def State.noteCtx (s : State) (c engine kind : Nat) (tcb data : Word) : State :=
  let k := s.ctxs.getD c LaunchCtx.empty
  s.note { engine := BitVec.ofNat 16 engine, kind := BitVec.ofNat 8 kind, queue := BitVec.ofNat 8 k.queue, seq := k.seqno, tcb := tcb,
           data := data }

/-- A record of the focused team's launch (R356). -/
def State.noteTeam (s : State) (engine kind : Nat) (tcb data : Word) : State := s.noteCtx s.tm.ctx engine kind tcb data

/-- A record of the focused group (R356). -/
def State.noteLane (s : State) (kind : Nat) (data : Word) : State := s.noteTeam (laneEngine s.tm.core) kind s.gp.tcb data

/-- The record of a fault of the focused fragment: its code, and `%fpc` above it (R356). -/
def State.noteFault (s : State) (x : LaneFault) (pc : Word) : State :=
  s.noteLane 5 (BitVec.ofNat 64 (codeNum x.code) ||| (pc <<< 8))

/-- RAISING A FAULT (R209, R215, R216, R363): with the debugger attached BRK and WATCH stop the fragment; otherwise the
fragment enters the launch's handler, or, without one or inside one, ends the launch. -/
def State.raise (s : State) (x : LaneFault) (pc next : Word) : State :=
  let s := s.noteFault x pc
  if (x.code = .brk ∨ x.code = .watch) ∧ s.ctx.attached then
    s.setFr { s.fr.trapRegs x pc with wait := .debug }
  else if s.fr.trap.isNone ∧ s.tm.lp.trap ≠ 0 then s.trapEntry x pc next
  else s.launchEnds x pc

/-- A replay that `tret 0` brings back, for the lanes still unfinished, counts its issue again (R89, R221); with no lane finished the
instruction is simply executed again. -/
def Replay.rerun (r : Replay) : Replay := { r with again := true }

/-- A replay that has issued. -/
def Replay.issued (r : Replay) : Replay := { r with again := false }

/-- RETURNING FROM THE HANDLER (R209, R217): the recorded registers and region come back, pts stays; `next` continues after
the faulting instruction and ends a repeat. -/
def State.trapReturn (s : State) (r : TrapRec) (next : Bool) : State :=
  let s := s.mapActive fun l => match r.marks.lookup l.ix with
    | some m => { l with mark := m.1, undo := m.2 }
    | none => l
  let f := { s.fr.unwait with lc := r.lc, lb := r.lb, le := r.le, cpreds := r.cpreds, region := r.region, trap := none }
  if next then s.setFr ({ f with rc := 0, region := { r.region with breaks := false } }.goOn false r.next)
  else s.setFr { f with rc := r.rc, pc := r.pc, replay := (r.replay.filter Replay.entry).map Replay.rerun }

/-! ### Issue and parking -/

/-- Whether a causal experiment's range holds a program counter (R365). -/
def Causal.inRange (c : Causal) (pc : Word) : Bool := decide (c.lo ≤ pc) && decide (pc < c.hi)

/-- A core's number in a list of cores and numbers, 0 where it has none. -/
def countOf (core : Nat) (l : List (Nat × Nat)) : Nat := (l.lookup core).getD 0

/-- The list with a core's number replaced. -/
def setCount (core n : Nat) (l : List (Nat × Nat)) : List (Nat × Nat) := (core, n) :: l.filter fun p => p.1 != core

/-- A core's present cycle after an issue from `port`: a port that issues again begins the next cycle. -/
def portCycle (old : Option (List Nat × Bool)) (port : Nat) (inside : Bool) : (List Nat × Bool) × Bool :=
  match old with
  | some (ps, done) => if ps.contains port then (([port], inside), inside) else ((port :: ps, done || inside), inside && !done)
  | none => (([port], inside), inside)

/-- The debt of a core after an issue from `port`, inside the range or not: F once in each cycle in which a port issues inside it. -/
def Causal.owe (c : Causal) (core port : Nat) (inside : Bool) : Causal :=
  let (now, owes) := portCycle (c.cycles.lookup core) port inside
  { c with cycles := (core, now) :: c.cycles.filter fun p => p.1 != core
           debts := if owes && c.f != 0 then setCount core (countOf core c.debts + c.f) c.debts else c.debts }

/-- An issue inside the range of its launch's causal experiment raises the core's debt; every issue of the core, whatever its launch, takes its
place in the core's cycles (R91, R365; log entry 36). -/
def State.owe (s : State) : State :=
  let owes := fun (mine : Bool) (c : Causal) => c.owe s.tm.core (s.gp.gslot % 4) (mine && c.inRange s.fr.pc)
  { s with ctxs := s.ctxs.mapIdx fun i k => { k with causal := k.causal.map (owes (i == s.tm.ctx)) } }

/-- A wait of a fragment that is not ready and has not issued: for the data of entries it pops (R85), or for room for its requests
(R198). -/
def Wait.unissued : Wait → Bool
  | .data _ | .requests _ => true
  | _ => false

/-- A wait of an instruction in progress, which a pre-emption or a step lets end first: a `fence`, or a `svc` that awaits its reply (R225,
R360). -/
def Wait.inProgress : Wait → Bool
  | .fence _ | .svc _ _ | .reply _ => true
  | _ => false

/-- Whether a fragment that waits for `w` has yet to issue its instruction. -/
def Frag.fresh (f : Frag) : Bool := f.wait == .none || f.wait.unissued

/-- Whether what a fragment does next is an issue: an instruction that wakes from a wait or replays is no new issue, one that `tret 0` brings
back is (R89 `%issued`, R194). -/
def Frag.issues (f : Frag) : Bool := f.fresh && f.replay.all Replay.again

/-- The focused fragment takes its turn: it waits for nothing that kept it from issuing. -/
def Frag.turn (f : Frag) (n : Nat) : Frag :=
  { f with turned := n, skipBp := false, wait := if f.wait.unissued then .none else f.wait, replay := f.replay.map Replay.issued }

/-- Issues the focused fragment (R89, R91, R92); one that goes on with an instruction already issued has its turn only. -/
def State.issue (s : State) : State :=
  let f := s.fr
  let n := s.seqNo + 1
  let g := f.turn n
  if f.issues then
    (State.setFr { s.owe with seqNo := n, issueNo := s.issueNo + 1 } { g with lastIssue := n, passed := 0, promoted := false }).mapActive
      fun l => { l with issued := l.issued + 1 }
  else State.setFr { s with seqNo := n } g

/-- The record of a fragment that parks on a page (R356). -/
def State.notePark (s : State) (w : Wait) : State :=
  match w with
  | .page va => s.noteLane 6 (BitVec.ofNat 64 va)
  | _ => s

/-- Parks the focused fragment; a fragment already waiting for the same keeps its place (R97, R99). -/
def State.parkFr (s : State) (w : Wait) : State :=
  if s.fr.fresh then
    State.notePark ({ s with seqNo := s.seqNo + 1 }.setFr { s.fr with
      wait := w, parkedAt := s.seqNo + 1, parkedNs := s.now, held := s.fr.held || (s.stepDone && !w.inProgress && !w.unissued) }) w
  else s.setFr { s.fr with wait := w }

/-- Runs the body of an instruction of `len` bytes for the focused fragment; one that turns out not to be ready has not issued (R85,
R91, R198). -/
def State.run (s : State) (len : Nat) (body : State → Res) : State :=
  let t := s.issue
  match body t with
  | .ok t' => t'
  | .fault x => t.raise x t.fr.pc (t.fr.pc + BitVec.ofNat 64 len)
  | .park w t' => if w.unissued then s.parkFr w else t'.parkFr w

/-- An instruction of the lane stream: it always answers a next state. -/
def laneStep (len : Nat) (body : State → Res) (s : State) : Host.Outcome State Fault Refusal := .next (s.run len body)

/-- Another fragment of the team that waits for `w` and parked before the focused one (R70, R180, R288, R311). -/
def State.before (s : State) (is : Wait → Bool) : Bool :=
  let mine := s.fr
  s.tm.groups.any fun g => g.allFrags.any fun f =>
    is f.wait && (mine.fresh || decide (f.parkedAt < mine.parkedAt)) && !(g.gslot == s.gp.gslot && f.mask == mine.mask)

end Sys2Proof.Machine
end

