-- ==== Sys2Proof/Machine/Operands.lean ====
section
/-!
DEFINITION. Where instructions take their operands from and put their results: the lane and scalar stacks with drains and
refills (R83 to R86), slots with the undo log (R87, R224), and memory: forming and checking an address (R189, R190), stamps
(R66), passes and replay (R194, R220), and performing loads, stores and atomics (R191, R199).
-/
namespace Sys2Proof.Machine

/-! ### Stacks -/

/-- An entry that neither waits for a load nor carries poison. -/
def Entry.plain (w : Word) : Entry := { val := w, pend := none, pois := none }

/-- What an instruction does to one stack: entries it needs, pops and pushes. -/
structure Use where
  reads  : Nat
  pops   : Nat
  pushes : Nat

/-- A stack that an instruction leaves alone. -/
def Use.none : Use := ⟨0, 0, 0⟩
/-- An instruction that pops `n` entries and pushes `m`. -/
def Use.of (n m : Nat) : Use := ⟨n, n, m⟩

/-- The depth, the region entry depth and the capacity of the stack a domain uses (R83, R86, R173). -/
def State.depthOf (s : State) (d : Bool) : Nat := if d then s.fr.sstk.length else s.laneDepth
def State.entryDepth (s : State) (d : Bool) : Nat := if d then s.fr.region.sdepth else s.fr.region.ldepth
def State.capOf (s : State) (d : Bool) : Nat := if d then 32 else s.laneCap

/-- The instruction at which a region began for want of undo-log entries: its own pops are not checked (R173, R224). -/
def State.exempt (s : State) : Bool := s.fr.region.breaks

/-- `%finfo` of a stack fault (R214). -/
def stackInfo (d : Bool) (depth : Nat) : Nat := bit d + depth * 2 ^ 16

/-- The stack fault of an instruction, STKUNF above REGUNF (R83, R86, R173, R213). -/
def State.stackFault (s : State) (l sc : Use) : Option LaneFault :=
  let unf := fun d (u : Use) => decide (s.depthOf d < u.reads)
  let reg := fun d (u : Use) => decide (0 < u.pops) && decide (s.depthOf d - u.pops < s.entryDepth d) && !s.exempt
  let ovf := fun d (u : Use) => decide (s.capOf d < s.depthOf d - u.pops + u.pushes)
  if unf false l then some (s.faultAll .stkunf (stackInfo false (s.depthOf false)))
  else if unf true sc then some (s.faultAll .stkunf (stackInfo true (s.depthOf true)))
  else if reg false l then some (s.faultAll .regunf (stackInfo false (s.entryDepth false)))
  else if reg true sc then some (s.faultAll .regunf (stackInfo true (s.entryDepth true)))
  else if 0 < l.pushes ∧ ovf false l then some (s.faultAll .stkovf (stackInfo false (s.depthOf false)))
  else if 0 < sc.pushes ∧ ovf true sc then some (s.faultAll .stkovf (stackInfo true (s.depthOf true)))
  else none

/-- The `n` top entries, the deepest first. -/
def argsOf (n : Nat) (stk : List Entry) : List Entry := (stk.take n).reverse

/-- The values of the `n` top entries, the deepest first. -/
def valsOf (n : Nat) (stk : List Entry) : List Word := (argsOf n stk).map (·.val)

/-- Operand `k` of a list of words. -/
def arg (ws : List Word) (k : Nat) : Word := ws.getD k 0

/-- The value of load `id` arrives in an entry (R85). -/
def Entry.arrived (id : Nat) (e : Entry) : Entry := if e.pend = some id then { e with pend := none } else e

/-- The value of load `id` arrives in every entry of a group (R85). -/
def Group.arrived (id : Nat) (g : Group) : Group :=
  { g with lanes := g.lanes.map fun l => { l with stk := l.stk.map (Entry.arrived id) },
           fr := { g.fr with sstk := g.fr.sstk.map (Entry.arrived id) },
           frs := g.frs.map fun f => { f with sstk := f.sstk.map (Entry.arrived id) } }

/-- The value of load `id` of a team arrives and the operation leaves the ld class (R85, R201). -/
def Team.arrived (t : Team) (id : Nat) : Team :=
  { t.mapGroups (Group.arrived id) with outs := t.outs.filter fun o => !(o.id == id && o.cls == .ld) }

/-- The values of several loads of the focused team arrive. -/
def State.arriveAll (s : State) : List Nat → State
  | [] => s
  | id :: ids => (s.setTm (s.tm.arrived id)).arriveAll ids

/-- The loads that the `n` top entries of a domain wait for (R85). -/
def State.pendingTop (s : State) (d : Bool) (n : Nat) : List Nat :=
  if d then (s.fr.sstk.take n).filterMap (·.pend)
  else s.active.flatMap fun l => (l.stk.take n).filterMap (·.pend)

/-- ECCU for the lanes whose `n` top entries carry poison (R222). -/
def State.eccu (s : State) (d : Bool) (n : Nat) : Option LaneFault :=
  if d then
    match (s.fr.sstk.take n).findSome? (·.pois) with
    | some pa => some (s.faultAll .eccu pa)
    | none => none
  else
    let bad := fun (l : Lane) => (l.stk.take n).findSome? (·.pois)
    match s.active.findSome? bad with
    | some pa => some { code := .eccu, mask := maskOf fun i => s.active.any fun l => l.ix == i && (bad l).isSome, info := pa }
    | none => none

/-- Checks an instruction's stack effects and goes on once the entries it uses have arrived: until then the fragment is not ready (R85,
R91). An instruction that only moves entries (R132, R222) uses none. -/
def State.withStack (s : State) (l sc : Use) (uses : Bool) (k : State → Res) : Res :=
  match s.stackFault l sc with
  | some x => .fault x
  | none =>
    if !uses then k s
    else match s.pendingTop false l.reads ++ s.pendingTop true sc.reads with
      | id :: ids => .park (.data (id :: ids)) s
      | [] =>
        match s.eccu false l.reads with
        | some x => .fault x
        | none =>
          match s.eccu true sc.reads with
          | some x => .fault x
          | none => k s

/-- One pop in a lane, with the refill of R83; the flag says whether a unit moved. -/
def Lane.popOne (l : Lane) : Lane × Bool :=
  let stk := l.stk.tail
  if stk.length ≤ l.back ∧ 0 < l.back then ({ l with stk := stk, back := l.back - 4 }, true) else ({ l with stk := stk }, false)

/-- One push in a lane, with the drain of R83; the list holds the drained unit. -/
def Lane.pushOne (l : Lane) (e : Entry) : Lane × Option (List Entry) :=
  if 8 ≤ l.stk.length - l.back then
    ({ l with stk := e :: l.stk, back := l.back + 4 }, some ((l.stk.drop (l.stk.length - l.back - 4)).take 4))
  else ({ l with stk := e :: l.stk }, none)

/-- Counts a drain or refill of the group: one unit, 2 cycles and any wait of R85 (R83, R93). -/
def State.countUnit (s : State) (waited : Bool) : State :=
  s.setGp { s.gp with drains := s.gp.drains + 1,
                      dstall := s.gp.dstall + 2 + BitVec.ofNat 32 (if waited then Config.stallCycles s.ticks else 0) }

/-- One pop in every active lane. -/
def State.popEvent (s : State) : State :=
  let moved := s.active.any fun l => l.popOne.2
  let s := s.mapActive fun l => l.popOne.1
  if moved then s.countUnit false else s

/-- `n` pops in every active lane. -/
def State.popLanes (s : State) : Nat → State
  | 0 => s
  | n + 1 => s.popEvent.popLanes n

/-- One push in every active lane of the entry that `e` gives the lane's index. -/
def State.pushEvent (s : State) (e : Nat → Entry) : State :=
  let units := s.active.filterMap fun l => (l.pushOne (e l.ix)).2
  let ids := units.flatMap fun u => u.filterMap (·.pend)
  let s := s.mapActive fun l => (l.pushOne (e l.ix)).1
  if units.isEmpty then s else (s.countUnit (!ids.isEmpty)).arriveAll ids

/-- Pushes in every active lane, the first entry of each list deepest. -/
def State.pushLanes (s : State) (res : List (Nat × List Entry)) : Nat → Nat → State
  | 0, _ => s
  | m + 1, k =>
    (s.pushEvent fun ix => ((res.lookup ix).getD []).getD k (Entry.plain 0)).pushLanes res m (k + 1)

/-- Pops `n` entries of every active lane and pushes the `m` that `f` gives for the lane as it was. -/
def State.replaceLanes (s : State) (n m : Nat) (f : Lane → List Entry) : State :=
  let res := s.active.map fun l => (l.ix, f l)
  (s.popLanes n).pushLanes res m 0

/-- Pops `n` scalar entries and pushes a list, the first deepest; SSPILL is set past 8 entries (R86, R89). -/
def State.replaceScalar (s : State) (n : Nat) (es : List Entry) : State :=
  let stk := es.reverse ++ s.fr.sstk.drop n
  let s := s.setFr { s.fr with sstk := stk }
  if 8 < stk.length then s.setGp { s.gp with sspill := true } else s

/-- Moves entries of one domain as `f` rearranges the `n` top ones, the deepest first, into `m`. -/
def State.rearrange (s : State) (d : Bool) (n m : Nat) (f : List Entry → List Entry) : State :=
  if d then s.replaceScalar n (f (argsOf n s.fr.sstk)) else s.replaceLanes n m fun l => f (argsOf n l.stk)

/-- Pushes copies: an instruction that copies entries pops none of them (DEDUCED, log entry 11). -/
def State.copyTop (s : State) (d : Bool) (n : Nat) (f : List Entry → List Entry) : State :=
  if d then s.replaceScalar 0 (f (argsOf n s.fr.sstk)) else s.replaceLanes 0 1 fun l => f (argsOf n l.stk)

/-- The scalar operands of an instruction, the deepest first. -/
def State.scalarArgs (s : State) (n : Nat) : List Word := valsOf n s.fr.sstk

/-- Raises the fragment's pts to a stamp. -/
def State.raisePts (s : State) (t : Nat) : State := s.setFr { s.fr with pts := max s.fr.pts t }

/-- A fragment that receives a hand-off from a sender at `t`: its pts is raised (R70), and it sees every `vset` up to the model's time `n`
(R280). -/
def Frag.receives (f : Frag) (t n : Nat) : Frag := { f with pts := max f.pts t, seen := n }

/-- The executing fragment receives a hand-off (R70). -/
def State.handOff (s : State) (t : Nat) : State := s.setFr (s.fr.receives t s.seqNo)

/-! ### Slots (R87, R135, R224) -/

/-- A lane slot's value. -/
def Lane.slot (l : Lane) (k : Nat) : Half := l.slots.getD k 0

/-- Whether the first write of the region to slot `k` needs an undo-log entry: a window slot not yet logged (R224). -/
def Lane.needsLog (l : Lane) (r : Region) (k : Nat) : Bool :=
  decide (r.base ≤ k) && decide (k < r.base + r.count) && !(l.undo.any fun u => u.1 == k)

/-- Writes a slot, logging the entry value of a window slot (R224). -/
def Lane.setSlot (l : Lane) (r : Region) (k : Nat) (v : Half) : Lane :=
  { l with undo := if l.needsLog r k then l.undo ++ [(k, l.slot k)] else l.undo, slots := l.slots.set k v,
           bad := l.bad.filter fun j => j != k }

/-- Whether writes to slots `ks` would need a seventeenth undo-log entry (R224). -/
def Lane.logFull (l : Lane) (r : Region) (ks : List Nat) : Bool :=
  decide (16 < l.undo.length + (ks.filter (l.needsLog r)).length)

/-- Ends the region before an instruction whose writes to the slots `ks` would need a seventeenth undo-log entry: the new
region begins at the instruction, with copies of the `n` entries it pops (R224). -/
def State.logBreak (s : State) (n : Nat) (ks : Lane → List Nat) : State :=
  if s.active.any fun l => l.logFull s.fr.region (ks l) then
    let s := s.beginRegion s.fr.pc s.fr.region.base s.fr.region.count
    s.setFr { s.fr with region := { s.fr.region with copies := s.active.map fun l => (l.ix, l.stk.take n), breaks := true } }
  else s

/-- The fault of a slot index: SLOTRNG, which a scalar slot never raises, then ALIGN for an odd pair (R87, R135); the `%finfo` of that
ALIGN, 4k, is a DESIGN CHOICE (log entry 68). -/
def State.slotFault (s : State) (d pair : Bool) (k : Nat) : Option LaneFault :=
  let frame := s.tm.lp.frame
  if !d ∧ (frame ≤ k ∨ (pair ∧ frame ≤ k + 1)) then some (s.faultAll .slotrng (k + frame * 2 ^ 16))
  else if pair ∧ k % 2 = 1 then some (s.faultAll .align (4 * k))
  else none

/-! ### Addresses (R59, R60, R189) -/

/-- What an access does (R189). -/
inductive Acc where
  | load | store | atomic
  deriving DecidableEq, Repr

/-- Where an access lies once every check has passed: space and key, whether it is host-directed (R77), whether its line
keeps stamps and whether reads of it take a lease (R65, R66), and whether its page is private to a cluster of one core (R62). -/
structure Spot where
  sp      : Nat
  key     : Nat
  host    : Bool
  stamped : Bool
  leased  : Bool
  own     : Bool := false
  deriving DecidableEq, Repr

/-- What the checks of R189 say of one lane's address. -/
inductive Check where
  | bad (c : Code)
  | miss
  | good (x : Spot)
  deriving DecidableEq, Repr

/-- Host memory's physical range (R60). -/
def isHostPa (pa : Nat) : Bool := decide (2 ^ 51 ≤ pa) && decide (pa < 2 ^ 52)

/-- Whether the physical map holds memory (R60). -/
def paExists (pa : Nat) : Bool :=
  decide (pa < 0x60_0000_0000) || (decide (0x100_0000_0000 ≤ pa) && decide (pa < 0x1C0_0000_0000)) || isHostPa pa

/-- The HBM stack, 0 to 7, or the LPDDR6 channel, from 8 on, that holds a device address (R60, R366; which channel does is Config.lpChannel, log
entry 3). -/
def memUnit (pa : Nat) : Nat :=
  if pa < 0x60_0000_0000 then 2 * (pa / 0x18_0000_0000) + field pa 8 8 else 8 + (Config.lpChannel pa).val

/-- Whether the physical map holds memory that came up (R60, R366). -/
def State.paThere (s : State) (pa : Nat) : Bool := paExists pa && (s.deadMem.isEmpty || isHostPa pa || !s.deadMem.contains (memUnit pa))

/-- A host-directed page: host memory or a page in host bias (R77). -/
def State.hostDirected (s : State) (pa : Nat) : Bool := isHostPa pa || s.hostBias.contains (pa / 4096)

/-- The link that carries accesses to a host physical address, link 0 for pages in host bias (R60). -/
def linkOf (pa : Nat) : Nat := if isHostPa pa then field pa 50 50 else 0

/-- The module core that holds member `idx` of the focused team's cluster (R18, R300). -/
def State.memberCore (s : State) (idx : Nat) : Option Nat :=
  s.ctx.map.lookup (s.tm.cluster * (s.tm.lp.cw * s.tm.lp.ch) + idx)

/-- The REGION check of a page for the focused team (R62): true where the access fails. -/
def regionBad (t : Team) (p : PageEntry) (write : Bool) : Bool :=
  match p.region.toNat with
  | 0 => false
  | 1 => write
  | 2 => p.owner != t.cluster
  | _ => true

/-- Whether a core's island runs: it is ON, and no clock stop of a move is under way (R346, R352). -/
def State.islandOn (s : State) (core : Nat) : Bool :=
  let x := s.islands.getD (islandOf core) Island.reset
  x.pstate == .on && x.moveTo.isNone

/-- The core whose scratchpad holds a line. -/
def scrCore (line : Nat) : Nat := line * 128 / 2 ^ 20 / 8

/-- Whether requests to a line of a core scratchpad wait at the edge of its island (R346, R352). -/
def State.edgeHeld (s : State) (x : LineId) : Bool := x.1 == 2 && !s.islandOn (scrCore x.2)

/-- The codes of the memories that have no space of their own (R371; log entry 37): the entries of lane stacks, in stack-top files and backing
areas, and of scalar stacks; an L1, an L2 slice, an instruction cache, a scale cache; and a core's retention buffer. -/
def laneStackMem : Nat := 6
def scalarStackMem : Nat := 7
def l1Mem : Nat := 8
def l2Mem : Nat := 9
def codeMem : Nat := 10
def scaleMem : Nat := 11
def retentionMem : Nat := 12

/-- The number of a line, or of a block of lining, in a cache of a core. -/
def cacheKey (core line : Nat) : Nat := core * 2 ^ 47 + line

/-- Whether a line's row or bank, in a memory or in the L2 slice that holds it, is under self-test, so that accesses to it wait (R373). -/
def State.underTest (s : State) (x : LineId) : Bool :=
  s.tests.any fun t => (t.1 == x.1 || (t.1 == l2Mem && x.1 == 0)) && t.2.1 == x.2

/-- The bank of a core's lane-slice memory and stack-top file that holds the slots and stacks of a group slot, and whether it, or the retention
buffer that keeps it, is under self-test (R372, R373; log entry 37). -/
def sliceBank (core gslot : Nat) : Nat := core * 96 + gslot
def State.sliceTested (s : State) (core gslot : Nat) : Bool :=
  s.tests.any fun t => [1, laneStackMem, scalarStackMem, retentionMem].contains t.1 && t.2.1 / 2 ^ 16 == sliceBank core gslot

/-- The number of a slot of a lane in the lane-slice memories, which names a poisoned slot, in `%finfo` too: R60 gives a slot no physical address
(DESIGN CHOICE, log entry 68). -/
def slotKey (core gslot lane k : Nat) : Nat := (sliceBank core gslot * 32 + lane) * 2048 + k

/-- Whether a registered range meets a line for a lane access (R73); a destination in a core scratchpad is governed by its
presence bits instead (R74). -/
def State.locked (s : State) (write : Bool) (x : LineId) : Bool :=
  let hits := fun (p : Span) => p.sp == x.1 && decide (p.lo ≤ x.2) && decide (x.2 ≤ p.hi)
  s.ops.any fun o => (x.1 != 2 && o.dst.any hits) || (write && o.src.any hits)

/-! ### Translations (R197) -/

/-- Whether a page of function `fn` holds a virtual address. -/
def PageEntry.maps (p : PageEntry) (fn va : Nat) : Bool := p.fn == fn && p.va == va / 2 ^ p.log2 * 2 ^ p.log2

/-- The last-page registers of the focused group's slot, and the translation cache of its core. -/
def State.lastPages (s : State) : List PageEntry :=
  match s.slotPages.find? fun x => x.core == s.tm.core && x.gslot == s.gp.gslot with
  | some x => x.pages
  | none => []
def State.cachedPages (s : State) : List PageEntry := (s.tlb.filter fun x => x.1 == s.tm.core).map (·.2)

/-- The translation that a lane of the focused group finds without the page walker (R197). -/
def State.transOf (s : State) (va : Nat) : Option PageEntry :=
  (s.lastPages ++ s.cachedPages).find? fun p => p.maps s.ctx.fn va

/-- The last-page registers after an access through the page `p`: the register that it did not use, or the older one, is loaded
(R197). -/
def loadLast (p : PageEntry) (ps : List PageEntry) : List PageEntry :=
  if ps.contains p then [p, p] else p :: ps.take 1

/-- A global access of the focused group through each page of a list has been made (R197). -/
def State.usePages (s : State) (ps : List PageEntry) : State :=
  if ps.isEmpty then s
  else
    let now := ps.foldl (fun xs p => loadLast p xs) s.lastPages
    { s with slotPages := { core := s.tm.core, gslot := s.gp.gslot, pages := now : SlotPages } ::
        s.slotPages.filter fun x => !(x.core == s.tm.core && x.gslot == s.gp.gslot) }

/-- The set of a translation cache that holds a page: 512 entries of 8 ways make 64 sets, and the low bits of the page's number choose one
(R197; DESIGN CHOICE, log entry 59). -/
def PageEntry.set (p : PageEntry) : Nat := p.va / 2 ^ p.log2 % 64

/-- The walker brings a translation into a core's translation cache; its set keeps the 8 that came last (R197, log entry 59). -/
def State.learn (s : State) (core : Nat) (p : PageEntry) : State :=
  let here := fun (x : Nat × PageEntry) => x.1 == core && x.2.set == p.set
  { s with tlb := (core, p) :: (s.tlb.filter fun x => here x && x.2 != p).take 7 ++ s.tlb.filter fun x => !here x }

/-- Drops the translations that `is` names from every register and cache (R63, R197). -/
def State.dropTrans (s : State) (is : PageEntry → Bool) : State :=
  { s with tlb := s.tlb.filter fun x => !is x.2
           slotPages := s.slotPages.map fun x => { x with pages := x.pages.filter fun p => !is p } }

/-- The checks of R189 on an address of the focused team, for `size` bytes. SPACE tests the address; an aligned access whose later bytes
pass the end of its space, as behind an odd frame, raises it too (DEDUCED, log entry 38: the stack backing area of a slice cannot be
addressed, R59). A misaligned global address whose translation is not known raises ALIGN without waiting for it, although its page could turn
out to raise SPACE (DESIGN CHOICE, log entry 38: R189 ranks SPACE before ALIGN, and the translation behind both). -/
def State.checkAddr (s : State) (acc : Acc) (sp : Space) (size : Nat) (a : Nat) : Check :=
  let t := s.tm
  let write := acc != .load
  let aligned := a % size == 0
  let last := fun (x : Spot) =>
    if s.locked write (x.sp, lineOf x.key) then .bad .rlock
    else if write && x.sp == 2 && s.absent.contains (lineOf x.key) then .bad .spwr
    else .good x
  let within := fun (off limit : Nat) (c : Check) =>
    if limit ≤ off then .bad .space else if !aligned then .bad .align else if limit < off + size then .bad .space else c
  let plain := fun (sp key : Nat) => last { sp := sp, key := key, host := false, stamped := true, leased := false }
  match sp with
  | .l => within a (4 * t.lp.frame) (.good { sp := 1, key := a, host := false, stamped := false, leased := false })
  | .c => within a t.lp.spad (plain 2 (scrKey t.core t.ctx a))
  | .w =>
    if t.lp.cw * t.lp.ch ≤ a / 2 ^ 20 then .bad .space
    else match s.memberCore (a / 2 ^ 20) with
      | some m => within (a % 2 ^ 20) t.lp.spad (plain 2 (scrKey m t.ctx (a % 2 ^ 20)))
      | none => .bad .space
  | .d => within a t.lp.dspad (plain 4 (dspKey t.home t.ctx a))
  | .g =>
    if 2 ^ 56 ≤ a then .bad .space
    else match s.transOf a with
      | none => if !aligned then .bad .align else .miss
      | some p =>
        let pa := p.phys a
        if !s.paThere pa || (acc == .atomic && s.hostDirected pa) then .bad .space
        else if !aligned then .bad .align
        else if s.flipHeld pa then .miss
        else if (acc != .store && !p.r) || (write && !p.w) then .bad .prot
        else if regionBad t p write then .bad .region
        else
          let host := s.hostDirected pa
          last { sp := 0, key := pa, host := host, stamped := !host && p.region != 1, leased := p.region == 0,
                 own := p.region == 2 && t.lp.cw * t.lp.ch == 1 }

/-- The order in which R189 and R190 rank failing checks. -/
def checkOrder : List Code := [.space, .align, .prot, .region, .rlock, .spwr]

/-- One lane's access: its lane, its address and its operands. -/
structure Req where
  ix   : Nat
  addr : Word
  a    : Word
  b    : Word
  deriving DecidableEq, Repr

/-- The fault of a list of checked accesses (R190): the earliest code of R189's order, the lanes that fail with it, and the
address of the lowest. -/
def checkFault (whole : Option Mask) (cs : List (Req × Check)) : Option LaneFault :=
  checkOrder.findSome? fun c =>
    match cs.filter fun x => x.2 == .bad c with
    | [] => none
    | x :: xs => some { code := c, mask := whole.getD (maskOf fun i => (x :: xs).any fun y => y.1.ix == i), info := x.1.addr.toNat }

/-! ### Loads, stores and atomics -/

/-- A memory or atomic instruction, whatever its word (R191, R199), with its reuse hint (R193). -/
structure MemOp where
  acc   : Acc
  d     : Bool
  sp    : Space
  size  : Nat
  sext  : Bool
  guard : Option Guard
  off   : BitVec 13
  aop   : AtomOp
  ret   : Bool
  rh    : Hint := .near
  deriving DecidableEq, Repr

/-- Entries popped and pushed (R191, R199). -/
def MemOp.pops (m : MemOp) : Nat :=
  match m.acc with
  | .load => 1
  | .store => 2
  | .atomic => if m.aop = .cas then 3 else 2
def MemOp.pushes (m : MemOp) : Nat :=
  match m.acc with
  | .load => 1
  | .store => 0
  | .atomic => bit m.ret

/-- The signed displacement (R189). -/
def MemOp.address (m : MemOp) (base : Word) : Word := base + m.off.signExtend 64

/-- The accesses of the lanes of `todo`: one for each lane, or one for the fragment in the scalar domain (R189, R191). -/
def State.reqs (s : State) (m : MemOp) (todo : Mask) : List Req :=
  let mk := fun ix (ws : List Word) => { ix := ix, addr := m.address (arg ws 0), a := arg ws 1, b := arg ws 2 : Req }
  if m.d then
    let l := lowestLane s.fr.mask
    if inMask todo l then [mk l (s.scalarArgs m.pops)] else []
  else (s.active.filter fun l => inMask todo l.ix).map fun l => mk l.ix (valsOf m.pops l.stk)

/-- Whether an agent of a die, or of none with `die = 4`, sees a posted host-directed store: one that has passed the host-order point of
its die's bridge, or the link port (R77, R78). -/
def Posted.seenFrom (p : Posted) (die : Nat) : Bool := (decide (1 ≤ p.passed) && dieOf p.team.core == die) || decide (2 ≤ p.passed)

/-- Whether the executing fragment sees a posted host-directed store: its own, or one that its die sees (R77, R78). -/
def State.seesPosted (s : State) (p : Posted) : Bool :=
  (p.team == s.teamRef && p.who == s.gp.uid && (p.mask &&& s.fr.mask) != 0) || p.seenFrom (dieOf s.tm.core)

/-- A byte of global memory with the posted stores that `sees` names laid over it, the older first (R77). -/
def State.postedByte (s : State) (sees : Posted → Bool) (pa : Nat) : Byte :=
  s.posted.foldl (fun b p => if sees p then (p.bytes.reverse.lookup pa).getD b else b) (s.byteAt 0 pa)

/-- The byte that an engine or a sequencer of a die reads at a place: global bytes with the posted stores that its die sees (R78). -/
def State.seenByte (s : State) (die sp key : Nat) : Byte :=
  if sp = 0 && s.hostDirected key then s.postedByte (fun p => p.seenFrom die) key else s.byteAt sp key

/-- A place whose line a core's L1 may hold: one of a coherent or a read-shared page, or of a private page whose cluster has one core (R62). -/
def Spot.cached (x : Spot) : Bool := x.sp == 0 && !x.host && (x.leased || !x.stamped || x.own)

/-- The bytes that a load of the focused fragment reads, where a line of `hits` is served by its copy (R64, R66, R77, R136). -/
def State.loadBytes (s : State) (hits : List L1Copy) (x : Spot) (ix size : Nat) : List Byte :=
  if x.sp = 1 then
    let slot := fun k => ((s.gp.lanes.find? (·.ix == ix)).getD (Lane.empty ix)).slot k
    (List.range size).map fun i => BitVec.ofNat 8 ((slot ((x.key + i) / 4)).toNat / 256 ^ ((x.key + i) % 4))
  else if x.host then (List.range size).map fun i => s.postedByte s.seesPosted (x.key + i)
  else match hits.find? fun c => x.cached && c.line == lineOf x.key with
    | some c => (List.range size).map fun i => c.bytes.getD (x.key % 128 + i) 0
    | none => s.bytesAt x.sp x.key size

/-- The poison that a lane's slot carries (R222, R371). -/
def State.slotPoison (s : State) (l : Lane) (k : Nat) : Option Nat :=
  if l.bad.contains k then some (slotKey s.tm.core s.gp.gslot l.ix k) else none

/-- ECCU for the lanes whose slot `k` is poisoned, at an instruction that uses its value (R222, R371). -/
def State.slotEccu (s : State) (k : Nat) : Option LaneFault :=
  match s.active.findSome? fun l => s.slotPoison l k with
  | some pa => some { code := .eccu, mask := maskOf fun i => s.active.any fun l => l.ix == i && l.bad.contains k, info := pa }
  | none => none

/-- The poison a load finds: a poisoned slot, a poisoned line that no copy serves, a copy with an error, or a host link that is down (R222,
R327, R371). A line of a scratchpad has no physical address (R60): its key stands for it (DESIGN CHOICE, log entry 68). -/
def State.loadPoison (s : State) (hits : List L1Copy) (x : Spot) (ix size : Nat) : Option Nat :=
  if x.sp = 1 then
    (s.gp.lanes.find? (·.ix == ix)).bind fun l => (List.range ((size + 3) / 4)).findSome? fun i => s.slotPoison l (x.key / 4 + i)
  else match hits.find? fun c => x.cached && c.line == lineOf x.key with
  | some c => if c.bad then some (c.line * 128) else none
  | none =>
  if s.poison.contains (x.sp, lineOf x.key) then some (lineOf x.key * 128)
  else if x.host && !(s.hlinks.getD (linkOf x.key) { up := true, mode := .cxl }).up then some (lineOf x.key * 128)
  else none

/-- A loaded value extended to an entry (R191). -/
def MemOp.extend (m : MemOp) (w : Nat) : Word :=
  if m.sext then BitVec.ofInt 64 (toSigned (8 * m.size) w) else BitVec.ofNat 64 w

/-- Writes bytes of a lane's slots, logging window slots (R136, R224). -/
def Lane.storeSlice (l : Lane) (r : Region) (off : Nat) : List Byte → Lane
  | [] => l
  | b :: bs =>
    let k := off / 4
    let sh := 8 * (off % 4)
    let v := ((l.slot k) &&& ~~~((0xFF : Half) <<< sh)) ||| ((b.setWidth 32 : Half) <<< sh)
    (l.setSlot r k v).storeSlice r (off + 1) bs

/-- What an atomic writes over `x` (R199): `w` bits, operands `v` and, for `cas`, `nw`. -/
def atomResult (op : AtomOp) (w x v nw : Nat) : Nat :=
  let n := w
  let lt := fun a b => decide (toSigned n a < toSigned n b)
  match op with
  | .add => (x + v) % 2 ^ n
  | .imin => if lt v x then v else x
  | .imax => if lt x v then v else x
  | .nmin => min x v
  | .nmax => max x v
  | .and => x &&& v
  | .or => x ||| v
  | .xor => x ^^^ v
  | .xchg => v
  | .cas => if x = v then nw else x
  | .inc => if v ≤ x then 0 else x + 1
  | .dec => if x = 0 ∨ v < x then v else x - 1
  | .fadd =>
    let f := if n = 64 then fmtF64 else fmtF32
    (addF f .rne 0 (decodeF f x) (decodeF f v)).1

/-- Performs one access: the state after it and the entry that it pushes (R191, R199). -/
def State.performOne (s : State) (m : MemOp) (hits : List L1Copy) (r : Req) (x : Spot) : State × Entry :=
  match m.acc with
  | .load =>
    (s, { val := m.extend (ofBytes (s.loadBytes hits x r.ix m.size)), pend := none, pois := s.loadPoison hits x r.ix m.size,
          via := if x.host then some (lineOf x.key * 128) else none })
  | .store =>
    let bytes := toBytes m.size r.a.toNat
    if x.sp = 1 then
      (s.mapMask (laneBit r.ix) fun l =>
        let l' := l.storeSlice s.fr.region x.key bytes
        if m.size < 4 then { l' with bad := l.bad } else l', Entry.plain 0)
    else if x.host then (s, Entry.plain 0)
    else (s.putBytes x.sp x.key bytes, Entry.plain 0)
  | .atomic =>
    let old := s.natAt x.sp x.key m.size
    let y := atomResult m.aop (8 * m.size) old (r.a.toNat % 2 ^ (8 * m.size)) (r.b.toNat % 2 ^ (8 * m.size))
    (s.putNat x.sp x.key m.size y, { val := BitVec.ofNat 64 old, pend := none, pois := s.loadPoison [] x r.ix m.size })

/-- Performs a list of accesses in ascending lane index (R194). -/
def State.performAll (s : State) (m : MemOp) (hits : List L1Copy) : List (Req × Spot) → State × List (Nat × Entry)
  | [] => (s, [])
  | (r, x) :: rest =>
    let (s1, e) := s.performOne m hits r x
    let (s2, es) := s1.performAll m hits rest
    (s2, (r.ix, e) :: es)

/-- The bytes that the host-directed stores of a pass post, one entry for each link (R77). -/
def postedOf (m : MemOp) (gs : List (Req × Spot)) (link : Nat) : List (Nat × Byte) :=
  (gs.filter fun g => g.2.host && linkOf g.2.key == link).flatMap fun g =>
    (List.range m.size).zipWith (fun i b => (g.2.key + i, b)) (toBytes m.size g.1.a.toNat)

/-- The operation that the focused fragment's memory instruction is: its first pass names it (R194, R201). -/
def State.opId (s : State) : Nat := (s.fr.replay.bind Replay.op).getD s.seqNo

/-- Posts the host-directed stores of a pass; a link that is down drops and logs them (R77, R327). -/
def State.postStores (s : State) (m : MemOp) (gs : List (Req × Spot)) (link : Nat) : State :=
  match postedOf m gs link with
  | [] => s
  | bs =>
    if (s.hlinks.getD link { up := true, mode := .cxl }).up then
      { s with posted := s.posted ++ [{ id := s.opId, team := s.teamRef, who := s.gp.uid, mask := s.fr.mask, link := link,
                                        bytes := bs, passed := 0 }] }
    else s.log s.tm.ctx (bs.map (·.2))

/-! ### Copies in the L1 (R62, R66) -/

/-- The copies of a core's L1 that hold lines of a load and that the L1 still holds (Config.l1Kept, log entry 69). -/
def State.copiesOf (s : State) (core : Nat) (lines : List Nat) : List L1Copy :=
  s.l1.filter fun c => c.core == core && lines.contains c.line && Config.l1Kept s.ticks c.line

/-- The stamp of a load that finds `hits` in the L1 and reads the other lines `rd` at their homes; a copy's wts stands for its line's
(R66). -/
def State.loadStamp (s : State) (pts : Nat) (rd : List LineId) (hits : List L1Copy) : Nat :=
  let home := rd.filter fun x => !(x.1 == 0 && hits.any fun c => c.line == x.2)
  hits.foldl (fun t c => if c.shared then t else max t c.wts) (s.eventStamp pts home [])

/-- The copies that serve a load: one whose rts lies below the stamp is renewed at the home, and the stamp is computed again
(R66). -/
def State.l1Hits (s : State) (pts : Nat) (rd : List LineId) : Nat → List L1Copy → List L1Copy
  | 0, hits => hits
  | n + 1, hits =>
    let t := s.loadStamp pts rd hits
    let keep := hits.filter fun c => c.shared || decide (t ≤ c.rts)
    if keep.length = hits.length then hits else s.l1Hits pts rd n keep

/-- The re-reference value with which a line is inserted; `.noal` inserts none (R193). -/
def hintInsert : Hint → Option (BitVec 2)
  | .near => some 1
  | .long => some 2
  | .far => some 3
  | .noal => none

/-- An L1 with `n` lines fewer: each time the line whose re-reference value is largest goes, and of several the oldest, which stands last (R193;
log entry 69). -/
def evictL1 : Nat → List L1Copy → List L1Copy
  | 0, cs => cs
  | n + 1, cs =>
    let top := cs.foldl (fun m c => max m c.reref.toNat) 0
    evictL1 n ((cs.reverse.eraseP fun c => c.reref.toNat == top).reverse)

/-- A core's L1 receives copies; it holds 1,024 lines, the newest first (R13, R193, log entry 69). -/
def State.fillL1 (s : State) (core : Nat) (cs : List L1Copy) : State :=
  let mine := s.l1.filter fun c => c.core == core && !(cs.any fun d => d.line == c.line)
  { s with l1 := cs ++ evictL1 (cs.length + mine.length - 1024) mine ++ s.l1.filter fun c => c.core != core }

/-- The copies that a load hits are used: their re-reference value becomes 0 (R193). -/
def State.touchL1 (s : State) (hits : List L1Copy) : State :=
  { s with l1 := s.l1.map fun c => if hits.contains c then { c with reref := 0 } else c }

/-- Drops the copies that `is` names. -/
def State.dropL1 (s : State) (is : L1Copy → Bool) : State := { s with l1 := s.l1.filter fun c => !is c }

/-- Drops the blocks of scale caches that `is` names. -/
def State.dropScales (s : State) (is : ScaleBlock → Bool) : State := { s with scales := s.scales.filter fun b => !is b }

/-- The lines that the spots of a list touch and `p` picks. -/
def spotLines (gs : List (Req × Spot)) (p : Spot → Bool) : List LineId :=
  ((gs.filter fun g => p g.2).map fun g => (g.2.sp, lineOf g.2.key)).dedup

/-- The memory requests of accesses: one for each distinct line outside the lane slice (R196). -/
def requestsOf (gs : List (Req × Spot)) : Nat := (spotLines gs fun x => x.sp != 1).length

/-- A LOAD at one stamp (R66, R194): the lines that no copy serves are read at their homes, take the lease and, unless the hint keeps
them out, fill the L1 with the value of the hint, and the copies that serve are used (R193); a line with an error fills nothing. -/
def State.loadPass (s : State) (m : MemOp) (gs : List (Req × Spot)) : State × List (Nat × Entry) :=
  let pts := s.fr.pts
  let core := s.tm.core
  let stamped := spotLines gs fun x => x.stamped
  let leased := spotLines gs fun x => x.leased && x.stamped
  let shared := spotLines gs fun x => x.cached && !x.stamped
  let own := spotLines gs fun x => x.cached && x.own
  let copies := s.copiesOf core ((leased ++ shared ++ own).map (·.2))
  let hits := s.l1Hits pts stamped (copies.length + 1) copies
  let away := fun (x : LineId) => !(x.1 == 0 && hits.any fun c => c.line == x.2)
  let t := s.loadStamp pts stamped hits
  let (_, es) := s.performAll m hits gs
  let s1 := (s.stampReads (t + s.lease) (leased.filter away)).stampReads t ((stamped.filter fun x => !leased.contains x).filter away)
  let copy := fun (v : BitVec 2) (sh : Bool) (x : LineId) =>
    { core := core, line := x.2, wts := (s1.stampOf x).wts, rts := (s1.stampOf x).rts, shared := sh, reref := v, bad := false,
      bytes := s1.bytesAt 0 (x.2 * 128) 128 : L1Copy }
  let s2 := match (hintInsert m.rh) with
    | none => s1
    | some v => (s1.touchL1 hits).fillL1 core
        ((((leased ++ own).filter away).map (copy v false) ++ (shared.filter away).map (copy v true)).filter fun c =>
          !s.poison.contains (0, c.line))
  (s2.setFr { s2.fr with pts := t }, es)

/-- A STORE OR ATOMIC at one stamp (R66, R194): it is performed at the homes; an atomic also reads its lines, and takes the lease. -/
def State.writePass (s : State) (m : MemOp) (gs : List (Req × Spot)) : State × List (Nat × Entry) :=
  let rd := if m.acc = .store then [] else spotLines gs fun x => x.stamped && !x.leased
  let ls := if m.acc = .store then [] else spotLines gs fun x => x.stamped && x.leased
  let wr := spotLines gs fun x => x.stamped
  let (s1, es) := s.performAll m [] gs
  let s1 := if m.acc = .store then (s1.postStores m gs 0).postStores m gs 1 else s1
  let (s2, t) := s1.stampEvent s.fr.pts s.lease rd ls wr
  (s2.setFr { s2.fr with pts := t }, es)

/-- The pages through which the accesses of a pass go, the lanes ascending. -/
def State.pagesOf (s : State) (m : MemOp) (gs : List (Req × Spot)) : List PageEntry :=
  if m.sp = .g then gs.filterMap fun g => s.transOf g.1.addr.toNat else []

/-- One pass of a memory instruction at one stamp (R66, R194, R197): the state after it and the entries of its lanes. -/
def State.pass (s : State) (m : MemOp) (gs : List (Req × Spot)) : State × List (Nat × Entry) :=
  let (t, es) := if m.acc = .load then s.loadPass m gs else s.writePass m gs
  (t.usePages (s.pagesOf m gs), es)

/-- The class in which a memory instruction counts until it completes, none in space l (R201). -/
def MemOp.cls (m : MemOp) : Option OpClass :=
  if m.sp = .l then none
  else match m.acc with
    | .load => some .ld
    | .store => some .st
    | .atomic => if m.ret then some .ld else some .st

/-- Adds an operation of the focused fragment to the team's outstanding ones (R201). -/
def State.addOut (s : State) (id : Nat) (c : OpClass) (reqs : Nat) : State :=
  s.setTm { s.tm with outs := s.tm.outs ++ [{ id := id, cls := c, who := s.gp.uid, mask := s.fr.mask, reqs := reqs, done := none }] }

/-- Counts an operation of `reqs` requests in a class of the issuing fragment; the later pass of an operation already counted adds
nothing (R201, R202). -/
def State.countAs (s : State) (id : Nat) (c : OpClass) (reqs : Nat) : State :=
  if s.tm.outs.any fun o => o.id == id then s else s.addOut id c reqs

/-- Counts the operation that the focused fragment issues. -/
def State.countOp (s : State) (c : OpClass) : State := s.addOut s.seqNo c 0

/-- Counts a memory instruction's operation, where it makes requests at all. -/
def State.countMem (s : State) (m : MemOp) (reqs : Nat) : State :=
  match m.cls with
  | some c => s.countAs s.opId c reqs
  | none => s

/-- The outstanding memory requests of a core (R198). -/
def State.coreRequests (s : State) (core : Nat) : Nat :=
  (((s.allTeams.filter fun t => t.core == core).flatMap fun t => t.outs.map OutOp.reqs).sum)

/-- Completes a memory instruction: every lane pops and pushes, a finished lane its value and any other 0; a loaded entry
is pending until the load returns (R85, R103, R191, R221). -/
def State.completeMem (s : State) (m : MemOp) (reqs : Nat) (vals : List (Nat × Entry)) : State :=
  let pend := if m.cls = some .ld ∧ !vals.isEmpty then some s.opId else none
  let out := fun ix => match vals.lookup ix with
    | some e => { e with pend := pend }
    | none => Entry.plain 0
  let s := if vals.isEmpty then s else s.countMem m reqs
  let es := fun ix => if m.pushes = 0 then [] else [out ix]
  if m.d then s.replaceScalar m.pops (es (lowestLane s.fr.mask)) else s.replaceLanes m.pops m.pushes fun l => es l.ix

/-- Whether a fragment's instruction holds a replay-buffer entry (R220). -/
def Frag.holdsEntry (f : Frag) : Bool := f.replay.any Replay.entry

/-- The replay-buffer entries that a fragment holds, for its instruction and in the trap record it keeps (R215, R220). -/
def Frag.entries (f : Frag) : Nat := bit f.holdsEntry + bit ((f.trap.bind TrapRec.replay).any Replay.entry)

/-- The replay-buffer entries of a core that are held (R220). -/
def State.replayHeld (s : State) (core : Nat) : Nat :=
  ((s.allTeams.filter fun t => t.core == core).flatMap fun t => t.groups.flatMap fun g => g.allFrags.map Frag.entries).sum

/-- A watchpoint that an access meets (R362). -/
def State.watched (s : State) (m : MemOp) (r : Req) : Bool :=
  let code := match m.sp with | .g => 0 | .l => 1 | .c => 2 | .w => 3 | .d => 4
  (List.range 4).any fun n =>
    let c := (s.ctx.wctl.getD n 0).toNat
    let size := 2 ^ min 30 (field c 12 8)
    let base := (s.ctx.wbase.getD n 0).toNat / size * size
    field c 6 4 == code && ((m.acc != .store && field c 0 0 == 1) || (m.acc != .load && field c 1 1 == 1)) &&
      code != 1 && decide (base < r.addr.toNat + m.size) && decide (r.addr.toNat < base + size)

/-- A started matrix operation that will write a line holds lane accesses to it (R273, rule 4). -/
def State.matrixHolds (s : State) (x : LineId) : Bool :=
  s.allTeams.any fun t => match t.seq.flight with
    | some f => f.writes.any fun w => w.sp == x.1 && lineOf w.key == x.2
    | none => false

/-- A line at which a lane access waits: an absent scratchpad line (R74), one a matrix operation will write (R273), one behind the edge of
an island (R346, R352), or one under self-test (R373). -/
def State.lineHeld (s : State) (x : LineId) : Bool :=
  (x.1 == 2 && s.absent.contains x.2) || s.matrixHolds x || s.edgeHeld x || s.underTest x

/-- The same for an access of a core, whose L1 may be under test where it keeps the line (R373). -/
def State.coreHeld (s : State) (core : Nat) (x : LineId) : Bool := s.lineHeld x || (x.1 == 0 && s.underTest (l1Mem, cacheKey core x.2))

/-- What an instruction's checked accesses come to (R190, R194, R220, R362). -/
structure Checked where
  bad   : Option LaneFault
  good  : List (Req × Spot)
  miss  : List Req
  wait  : List LineId

/-- Checks every access of a memory instruction before any lane is performed (R189, R190). -/
def State.checkAll (s : State) (m : MemOp) (rs : List Req) : Checked :=
  let whole := if m.d then some s.fr.mask else none
  let cs := rs.map fun r => (r, s.checkAddr m.acc m.sp m.size r.addr.toNat)
  let good := cs.filterMap fun c => match c.2 with
    | .good x => some (c.1, x)
    | _ => none
  let watch := match good.filter fun g => s.watched m g.1 with
    | [] => none
    | g :: gs => some { code := .watch, mask := whole.getD (maskOf fun i => (g :: gs).any fun y => y.1.ix == i),
                        info := g.1.addr.toNat : LaneFault }
  { bad := (checkFault whole cs).orElse fun _ => watch
    good := good
    miss := (cs.filter fun c => c.2 == .miss).map (·.1)
    wait := (good.map fun g => (g.2.sp, lineOf g.2.key)).filter (s.coreHeld s.tm.core) }

/-- The lanes a memory instruction still has to perform: its unfinished ones, or those whose guard holds (R103, R194). -/
def State.todoOf (s : State) (m : MemOp) : Mask :=
  match s.fr.replay with
  | some r => r.todo
  | none => match m.guard with
    | some g => s.guarded m.d g
    | none => s.fr.mask

/-- The values finished lanes left in the replay buffer (R194, R220). -/
def State.buffered (s : State) : List (Nat × Entry) :=
  match s.fr.replay with
  | some r => r.vals
  | none => []

/-- The slots a store to space l writes, for the undo log (R224). -/
def State.sliceSlots (s : State) (m : MemOp) (l : Lane) : List Nat :=
  if m.acc = .store ∧ m.sp = .l ∧ inMask (s.todoOf m) l.ix then
    let a := (m.address (arg (valsOf 2 l.stk) 0)).toNat
    if a % m.size = 0 then (if m.size = 8 then [a / 4, a / 4 + 1] else [a / 4]) else []
  else []

/-- The requests that an instruction's accesses make or will make: distinct lines, those not yet translated by their virtual lines
(R196, R198). -/
def Checked.requests (c : Checked) (m : MemOp) : Nat :=
  if m.sp = .l then 0 else requestsOf c.good + ((c.miss.map fun r => lineOf r.addr.toNat).dedup).length

/-- Whether an instruction has room for its requests under the limit of 1,024: an operation whose requests are outstanding already has (R198). -/
def State.hasRoom (s : State) (n : Nat) : Bool :=
  n == 0 || (s.tm.outs.any fun o => o.id == s.opId) || decide (s.coreRequests s.tm.core + n ≤ 1024)

/-- The focused fragment's memory instruction has issued and waits: its requests are outstanding (R198), and `r` says what is left of it. -/
def State.holdMem (s : State) (m : MemOp) (n : Nat) (r : Replay) : State :=
  State.setFr (s.countMem m n) { s.fr with replay := some { r with op := some s.opId } }

/-- A memory or atomic instruction (R189 to R194, R198 to R200, R220). `ending` makes the end of the instruction. -/
def memBody (i : Instr) (m : MemOp) (ending : State → State) (s : State) : Res :=
  let s := if s.laneDepth < m.pops ∨ m.d then s else s.logBreak m.pops (s.sliceSlots m)
  let u := Use.of m.pops m.pushes
  s.withStack (if m.d then .none else u) (if m.d then u else .none) true fun s =>
    let c := s.checkAll m (s.reqs m (s.todoOf m))
    let n := c.requests m
    let left := { ins := i, todo := s.todoOf m, vals := s.buffered, entry := s.fr.holdsEntry, op := none, again := false : Replay }
    match c.bad with
    | some x => .fault x
    | none =>
      if !s.hasRoom n then .park (.requests n) s
      else if !c.wait.isEmpty then .park (.presence c.wait) (s.holdMem m n left)
      else match c.miss with
        | [] =>
          let (s1, es) := s.pass m c.good
          .ok (ending (s1.completeMem m n (s.buffered ++ es)))
        | r :: rs =>
          if s.fr.holdsEntry || decide (s.replayHeld s.tm.core < 128) then
            let (s1, es) := s.pass m c.good
            .park (.page r.addr.toNat) (s1.holdMem m n { left with
              todo := if m.d then s.fr.mask else maskOf fun i => (r :: rs).any fun y => y.ix == i, vals := s.buffered ++ es, entry := true })
          else .park (.page r.addr.toNat) (s.holdMem m n left)

/-- What a load does (R191). -/
def ldOp (d : Bool) (sp : Space) (sz : LdSize) (rh : Hint) (off : BitVec 13) : MemOp :=
  let n := match sz with | .s8 | .z8 => 1 | .s16 | .z16 => 2 | .w32 => 4 | .w64 => 8
  { acc := .load, d := d, sp := sp, size := n, sext := sz == .s8 || sz == .s16, guard := none, off := off, aop := .add,
    ret := false, rh := rh }

/-- What a store does (R191). -/
def stOp (d : Bool) (sp : Space) (sz : StSize) (g : Guard) (off : BitVec 13) : MemOp :=
  let n := match sz with | .b8 => 1 | .b16 => 2 | .b32 => 4 | .b64 => 8
  { acc := .store, d := d, sp := sp, size := n, sext := false, guard := some g, off := off, aop := .add, ret := false }

/-- What an atomic does (R199). -/
def atomOp (d : Bool) (op : AtomOp) (sp : Space) (w64 : Bool) (g : Guard) (ret : Bool) (off : BitVec 13) : MemOp :=
  { acc := .atomic, d := d, sp := sp, size := if w64 then 8 else 4, sext := false, guard := some g, off := off, aop := op,
    ret := ret }

/-- The memory operation an instruction of the lane stream performs. -/
def memOpOf : Instr → Option MemOp
  | .ld d sp sz rh off => some (ldOp d sp sz rh off)
  | .st d sp sz _ g off => some (stOp d sp sz g off)
  | .atom d op sp w64 g ret off => some (atomOp d op sp w64 g ret off)
  | _ => none

end Sys2Proof.Machine
end

