-- ==== Sys2Proof/Machine/Flags.lean ====
section
/-!
DEFINITION. `%lcw` (R44), the flags a result sets (R41, R130), and the one operation by which every numeric instruction acts:
a function from operands to results, flags and generator, applied in each active lane or once for the fragment.
-/
namespace Sys2Proof.Machine

/-- The DRM field of `%lcw` (R44). -/
def drmOf (w : Half) : Nat := field w.toNat 10 8

/-- Sets sticky flags in `%lcw` (R41). -/
def orFlags (w : Half) (fl : Flags) : Half := w ||| fl.setWidth 32

/-- A write of `%lcw`: the flags and, unless it is 0b110 or 0b111, DRM (R44). -/
def writeLcw (old v : Half) : Half :=
  let drm := if 6 ≤ drmOf v then old &&& 0x700 else v &&& 0x700
  drm ||| (v &&& 0x1F)

/-- What a numeric instruction computes from one set of operands: the results, the deepest first, the flags they set and the
generator after them. -/
structure NumOut where
  vals : List Word
  fl   : Flags
  gen  : Half

/-- Results that set no flag and step no generator. -/
def NumOut.pure (vals : List Word) (gen : Half) : NumOut := { vals := vals, fl := 0, gen := gen }

/-- Applies a numeric function in each active lane: pops `n`, pushes `m`, sets the lane's flags and generator (R130). -/
def State.numLanes (s : State) (n m : Nat) (f : Nat → Half → List Word → NumOut) : State :=
  let outs := s.active.map fun l => (l.ix, f (drmOf l.lcw) l.gen (valsOf n l.stk))
  let out := fun (l : Lane) => (outs.lookup l.ix).getD (NumOut.pure [] l.gen)
  let s := s.mapActive fun l => { l with lcw := orFlags l.lcw (out l).fl, gen := (out l).gen }
  s.replaceLanes n m fun l => (((outs.lookup l.ix).getD (NumOut.pure [] 0)).vals).map Entry.plain

/-- Applies a numeric function once for the fragment: the lowest active lane's DRM and generator, and flags in every active
lane (R130). -/
def State.numScalar (s : State) (n : Nat) (f : Nat → Half → List Word → NumOut) : State :=
  match s.active with
  | [] => s
  | l :: _ =>
    let o := f (drmOf l.lcw) l.gen (s.scalarArgs n)
    let s := s.mapActive fun x =>
      { x with lcw := orFlags x.lcw o.fl, gen := if x.ix = l.ix then o.gen else x.gen }
    s.replaceScalar n (o.vals.map Entry.plain)

/-- A numeric instruction of the domain `d` (R130, R132). -/
def State.num (s : State) (d : Bool) (n m : Nat) (f : Nat → Half → List Word → NumOut) : State :=
  if d then s.numScalar n f else s.numLanes n m f

/-- The body of a numeric instruction of `len` bytes that pops `n` entries and pushes `m`. -/
def numBody (len : Nat) (d : Bool) (n m : Nat) (f : Nat → Half → List Word → NumOut) (s : State) : Res :=
  let u := Use.of n m
  s.withStack (if d then .none else u) (if d then u else .none) true fun s => .ok ((s.num d n m f).finish len)

/-- A numeric instruction. -/
def numStep (len : Nat) (d : Bool) (n m : Nat) (f : Nat → Half → List Word → NumOut) (s : State) :
    Host.Outcome State Fault Refusal := laneStep len (numBody len d n m f) s

/-- A result without flags or rounding. -/
def pureStep (len : Nat) (d : Bool) (n m : Nat) (f : List Word → List Word) (s : State) :
    Host.Outcome State Fault Refusal := numStep len d n m (fun _ gen ws => NumOut.pure (f ws) gen) s

/-! ### Element types (R34, R130) -/

/-- The width of a type's operands: 64 for the 64-bit types (R130). -/
def wide : Ty → Bool
  | .b64 | .i64 | .n64 | .f64 => true
  | _ => false

/-- The bits of an operand of a type. -/
def operandBits (ty : Ty) (w : Word) : Nat := if wide ty then w.toNat else (lo32 w).toNat

/-- A result of a type placed in an entry: i32 sign-extended, other 32-bit results zero-extended (R130). -/
def place (ty : Ty) (v : Nat) : Word :=
  if wide ty then BitVec.ofNat 64 v
  else if ty = .i32 then sx32 (BitVec.ofNat 32 v) else zx32 (BitVec.ofNat 32 v)

/-- The number of elements of a float type: two for the packed types (R34). -/
def elems : Ty → Nat
  | .h2 | .bh2 => 2
  | _ => 1

/-- The format of a float type's elements. -/
def elemFmt : Ty → Fmt
  | .f64 => fmtF64
  | .h2 => fmtF16
  | .bh2 => fmtBf16
  | _ => fmtF32

/-- The elements of an operand, element 0 first (R34). -/
def split (ty : Ty) (w : Word) : List Nat :=
  let v := operandBits ty w
  if elems ty = 2 then [v % 2 ^ 16, v / 2 ^ 16] else [v]

/-- Elements joined to a result. -/
def joinElems (ty : Ty) (es : List Nat) : Word :=
  place ty (if elems ty = 2 then es.getD 0 0 + es.getD 1 0 * 2 ^ 16 else es.getD 0 0)

/-- Computes a list of element results in ascending order, each taking one generator step where the mode is `rsr` (R45). -/
def roundElems (md : Rm) (f : Nat → Nat → Nat × Flags) : Nat → Nat → Half → List Nat × Flags × Half
  | 0, _, gen => ([], 0, gen)
  | n + 1, k, gen =>
    let (u, gen1) := genFor md gen
    let (v, fl) := f u k
    let (vs, fl', gen2) := roundElems md f n (k + 1) gen1
    (v :: vs, fl ||| fl', gen2)

/-- A float operation on elements, rounded by `md` (R41, R130, R141): `g` takes the mode, the random value and the element
operands. -/
def floatOp (ty : Ty) (md : Rm) (g : Fmt → Rm → Nat → List FVal → Nat × Flags) (drm : Nat) (gen : Half) (ws : List Word) :
    NumOut :=
  let mode := resolveMode md drm
  let parts := ws.map (split ty)
  let fmt := elemFmt ty
  let (vs, fl, gen') := roundElems mode (fun u k => g fmt mode u (parts.map fun p => decodeF fmt (p.getD k 0))) (elems ty) 0 gen
  { vals := [joinElems ty vs], fl := fl, gen := gen' }

/-- An element-wise operation on the bits of a float type, without flags (R143). -/
def bitsOp (ty : Ty) (g : Fmt → List Nat → Nat) (ws : List Word) : List Word :=
  let parts := ws.map (split ty)
  [joinElems ty ((List.range (elems ty)).map fun k => g (elemFmt ty) (parts.map fun p => p.getD k 0))]

/-- The range of an integer type (R138). -/
def intMin : Ty → Int
  | .i32 => -(2 ^ 31 : Nat)
  | .i64 => -(2 ^ 63 : Nat)
  | _ => 0
def intMax : Ty → Int
  | .i32 => (2 ^ 31 - 1 : Nat)
  | .i64 => (2 ^ 63 - 1 : Nat)
  | .n32 => (2 ^ 32 - 1 : Nat)
  | _ => (2 ^ 64 - 1 : Nat)

/-- The width of a type. -/
def widthOf (ty : Ty) : Nat := if wide ty then 64 else 32

/-- An operand read as its integer type says. -/
def intOf (ty : Ty) (w : Word) : Int :=
  match ty with
  | .i32 | .i64 => toSigned (widthOf ty) (operandBits ty w)
  | _ => operandBits ty w

/-- An exact integer narrowed to its type: wrapped, or clamped under `sat` (R138). -/
def narrow (ty : Ty) (md : Rm) (z : Int) : Word :=
  let z := if md = .sat then max (intMin ty) (min z (intMax ty)) else z
  place ty (z % (2 ^ widthOf ty : Nat)).toNat

end Sys2Proof.Machine
end

