-- ==== Sys2Proof/Machine/Schedule.lean ====
section
/-!
DEFINITION. What moves next: which fragments are ready (R91, R97), the choice of R91 and R92 among them, which sequencer
runs, and fetching an instruction's bytes (R111, R219, R248).
-/
namespace Sys2Proof.Machine

/-- Whether a barrier phase is over for a waiter, at team level or, with `gang`, at gang level when the phase is a gang
phase (R183, R184). -/
def Barrier.over (b : Barrier) (phase : Nat) (gang : Bool) : Bool :=
  decide (phase < b.phase) && (!gang || b.gangRel.contains phase || !(b.gangDone.any fun p => p.1 == phase))

/-- The outstanding operations of a class that count for a fragment: those issued by a live lane of it (R202). -/
def Team.outCount (t : Team) (g : Group) (f : Frag) (c : OpClass) : Nat :=
  (t.outs.filter fun o => o.cls == c && o.who == g.uid && o.done.isNone && (o.mask &&& f.mask) != 0).length

/-- Whether `wait` may return (R201, R202). -/
def Team.countsMet (t : Team) (g : Group) (f : Frag) (l st c tl : Nat) : Bool :=
  decide (t.outCount g f .ld ≤ l) && decide (t.outCount g f .st ≤ st) && decide (t.outCount g f .cp ≤ c) &&
    decide (t.outCount g f .tl ≤ tl)

/-- Whether every producer of a ring has ended (R289). -/
def Ring.allEos (r : Ring) : Bool := !r.prods.isEmpty && r.prods.all (·.eos)

/-- Whether a drain has ended: every producer has, and every slot it took is written (R295). -/
def Ring.drained (r : Ring) (d : Stream) : Bool := r.allEos && r.queue.isEmpty && d.busy.isEmpty

/-- Whether every join counter a fragment waits for reads 0 (R319). -/
def State.joinsDone (s : State) (t : Team) (g : Group) (f : Frag) : Bool :=
  let fn := (s.ctxs.getD t.ctx LaunchCtx.empty).fn
  g.lanes.all fun l => !inMask f.mask l.ix || l.jcp == 0 ||
    match s.physOf fn l.jcp.toNat with
    | some pa => s.natAt 0 pa 4 == 0
    | none => true

/-- The destination spans that are registered: a core scratchpad's presence bits govern it instead (R72, R74). -/
def EngineOp.lockedDst (o : EngineOp) : List Span := o.dst.filter fun p => p.sp != 2

/-- The dies whose tables hold a range (R72). -/
def rangeDies (ps : List Span) : List Nat :=
  match ps with
  | [] => []
  | p :: _ => if p.sp = 2 then [p.lo * 128 / 2 ^ 20 / 8 / 144] else [0, 1, 2, 3]

/-- The entries an operation takes in a die's table, and in each of the four. -/
def EngineOp.entries (o : EngineOp) (die : Nat) : Nat :=
  bit ((rangeDies o.src).contains die) + bit ((rangeDies o.lockedDst).contains die)
def EngineOp.allEntries (o : EngineOp) : List Nat := (List.range 4).map o.entries

/-- Whether the dies' tables have room for so many entries each (R14, R72). -/
def State.entriesFit (s : State) (es : List Nat) : Bool :=
  (List.range 4).all fun d => es.getD d 0 == 0 || decide ((s.ops.map fun x => x.entries d).sum + es.getD d 0 ≤ 512)

/-- The number of cp operations of a team that are not complete (R279). -/
def Team.cpBusy (t : Team) : Nat := (t.outs.filter fun o => o.cls == .cp && o.done.isNone).length

/-- The first and the last line that a request of the host reaches in device memory. -/
def reqSpan : Instr → Option (Nat × Nat)
  | .hostCxlMemRead _ pa len => some (pa / 128, (pa + len - 1) / 128)
  | .hostCxlMemWrite _ pa bytes => some (pa / 128, (pa + bytes.length - 1) / 128)
  | .hostAtomic _ pa _ _ _ _ => some (pa / 128, pa / 128)
  | _ => none

/-- Whether a request of the host reaches one of some lines. -/
def reqMeets (i : Instr) (lines : List LineId) : Bool :=
  match reqSpan i with
  | some p => lines.any fun x => x.1 == 0 && decide (p.1 ≤ x.2) && decide (x.2 ≤ p.2)
  | none => false

/-- A fragment that waited for lines before the time `at'` and may go on now, and reaches what `is` says: it comes first (R373). -/
def State.laneBefore (s : State) (at' : Nat) (is : List LineId → Bool) : Bool :=
  s.allTeams.any fun t => s.islandOn t.core && !t.held && !t.halting && t.groups.any fun g => g.allFrags.any fun f => match f.wait with
    | .presence ls => decide (f.parkedAt < at') && is ls && !(ls.any (s.coreHeld t.core)) && !f.held
    | _ => false

/-- A request of the host that came to its port before the time `at'` and reaches one of some lines: it comes first (R373). -/
def State.requestBefore (s : State) (at' : Nat) (lines : List LineId) : Bool :=
  (s.held.zip s.heldAt).any fun h => decide (h.2 < at') && reqMeets h.1 lines

/-- Whether a fragment's wait has ended, so that it may issue (R91, R97). Accesses that a test held go on in the order in which they came
(R373). -/
def State.wakes (s : State) (t : Team) (g : Group) (f : Frag) : Bool :=
  match f.wait with
  | .none | .reply _ => true
  | .stall es => decide (t.cpBusy < 32) && s.entriesFit es
  | .seam _ | .xlane _ | .svc _ _ | .page _ | .fetch _ | .fence _ | .debug | .dead => false
  | .data ids => !(t.outs.any fun o => o.cls == .ld && ids.contains o.id)
  | .requests n => decide (s.coreRequests t.core + n ≤ 1024)
  | .barrier b p gang => (t.bars.getD b Barrier.empty).over p gang
  | .arrive b p => decide (p < (t.bars.getD b Barrier.empty).phase)
  | .ring q put =>
    let r := t.rings.getD q Ring.empty
    if put then r.st.contains .free
    else match r.drain with
      | some d => r.drained d
      | none => !r.queue.isEmpty || r.allEos
  | .queue w push k =>
    match s.wqs.find? fun q => q.die == t.home && q.ctx == some t.ctx && q.win == w with
    | some q => if push then decide (q.items.length + k ≤ 4096) else decide (k ≤ q.items.length)
    | none => true
  | .task =>
    let k := (s.ctxs.getD t.ctx LaunchCtx.empty).tasks
    !k.pool.isEmpty || (k.opened == 0 && !(s.poolOps.any fun o => o.arm && o.ctx == t.ctx))
  | .count l st c tl => t.countsMet g f l st c tl
  | .cwait => s.joinsDone t g f
  | .acq n => match (t.acc.getD n AccSlot.empty).tok with
    | .given => true
    | .lane h => h == g.uid
    | _ => false
  | .xslot x put => (t.xs.getD x XSlot.empty).full != put
  | .mstart => t.seq.st == .halted
  | .presence lines => !(lines.any (s.coreHeld t.core)) && !s.requestBefore f.parkedAt lines &&
      !s.laneBefore f.parkedAt fun ls => ls.any lines.contains

/-- The step that runs a team, if one does (R360). -/
def State.stepOf (s : State) (t : Team) : Option Stepping := s.stepping.filter fun k => k.team.core == t.core && k.team.ctx == t.ctx

/-- Whether a fragment may issue while its team is to be pre-empted: only to end the `svc` whose reply has come (R225, steps 1 and 2). -/
def Team.issues (t : Team) (f : Frag) : Bool :=
  !t.halting || match f.wait with
    | .reply _ => true
    | _ => false

/-- Whether a team may run at all: placed, not held by a gated die, and not stopped by the debugger (R354, R359, R360). -/
def State.teamRuns (s : State) (t : Team) : Bool :=
  t.live && !t.held && s.islandOn t.core &&
    (!s.stopped || (s.stepOf t).isSome)


/-- A sequencer that a step has stopped (R360). -/
def State.seqHeld (s : State) (t : Team) : Bool := (s.stepOf t).any (·.seqHeld)

/-- A fragment that a causal experiment delays: its core owes a cycle, and it stands outside the range (R365). -/
def State.delayed (s : State) (t : Team) (f : Frag) : Bool :=
  match (s.ctxs.getD t.ctx LaunchCtx.empty).causal with
  | some c => decide (256 ≤ countOf t.core c.debts) && !c.inRange f.pc
  | none => false

/-- The line of code that a core's instruction cache holds (R301). -/
def State.codeLine (s : State) (core line : Nat) : Option CodeLine := s.icache.find? fun c => c.core == core && c.line == line

/-- Whether a self-test delays the fetch at an address: one of the bank of the instruction cache that holds its line, or, where the line is to be
brought in, of the row that holds it (R373; log entry 37). -/
def State.codeTested (s : State) (core fn va : Nat) : Bool :=
  !s.tests.isEmpty && (s.physOf fn va).any fun pa =>
    s.underTest (codeMem, cacheKey core (lineOf pa)) || ((s.codeLine core (lineOf pa)).isNone && s.underTest (0, lineOf pa))

/-- Whether a fragment is ready (R91, R97): its wait has ended, and nothing holds it; a self-test of its slices or of its code does (R373). -/
def State.ready (s : State) (t : Team) (g : Group) (f : Frag) : Bool :=
  s.teamRuns t && s.wakes t g f && t.issues f && !f.held && !s.delayed t f && !s.sliceTested t.core g.gslot &&
    !s.codeTested t.core (s.ctxs.getD t.ctx LaunchCtx.empty).fn f.pc.toNat

/-- Whether a fragment has been passed over for 256 cycles (R92). -/
def Frag.starved (f : Frag) : Bool := f.promoted || decide (256 ≤ f.passed)

/-- A ready fragment with its port and its rank (R91): `last` is when it issued last, or, of one that only goes on with what it has issued, when
it had its last turn (log entry 1). -/
structure Cand where
  core  : Nat
  ctx   : Nat
  gslot : Nat
  lane  : Nat
  last  : Nat
  prio  : Nat
  starved : Bool
  yields : Bool
  deriving DecidableEq, Repr

/-- The lexicographic order of ranks. -/
def rankLt : List Nat → List Nat → Bool
  | a :: as, b :: bs => decide (a < b) || (a == b && rankLt as bs)
  | _, _ => false

/-- The name of a fragment. -/
def Frag.ref (f : Frag) (t : Team) (g : Group) : FragRef := { core := t.core, gslot := g.gslot, lane := lowestLane f.mask }

/-- Whether a fragment that has executed `yield` still ranks below the others: up to 64 cycles, while one of those that were ready then has not
issued since (R186). -/
def State.yields (s : State) (f : Frag) : Bool :=
  f.yielded && decide (s.seqNo < f.yieldAt + 64) && s.allTeams.any fun t => t.groups.any fun g => g.allFrags.any fun d =>
    f.ahead.contains (d.ref t g) && decide (d.lastIssue < f.yieldAt)

/-- The ready fragments. -/
def State.cands (s : State) : List Cand :=
  (s.allTeams.filter s.teamRuns).flatMap fun t =>
    t.groups.flatMap fun g => (g.allFrags.filter fun f => s.ready t g f).map fun f =>
      { core := t.core, ctx := t.ctx, gslot := g.gslot, lane := lowestLane f.mask
        last := if f.issues then f.lastIssue else max f.lastIssue f.turned, prio := t.lp.prio
        starved := f.starved, yields := s.yields f }

/-- Whether two candidates stand at one issue port (R91). -/
def Cand.samePort (a b : Cand) : Bool := a.core == b.core && a.gslot % 4 == b.gslot % 4

/-- The full rank: priority, the fragments passed over for 256 cycles first (R92), then the yielding last (R186), least recently issued,
group slot, lowest lane (R91). -/
def Cand.key (c : Cand) : List Nat := [7 - c.prio, bit !c.starved, bit c.yields, c.last, c.gslot, c.lane]

/-- The fragment that issues next: the choice of R91 at each port, the ports in turn by their last issue. -/
def State.pick (s : State) : Option Cand :=
  let cs := s.cands
  let wins := cs.filter fun c => !(cs.any fun d => d.samePort c && rankLt d.key c.key)
  wins.foldl (fun b c => match b with
    | none => some c
    | some d => if rankLt [c.last, c.core, c.gslot] [d.last, d.core, d.gslot] then some c else b) none

/-- The other fragments of the focused one's port that stand ready by all that a scheduler sees (R91). -/
def State.peers (s : State) : List (Team × Group × Frag) :=
  (s.allTeams.filter fun t => t.core == s.tm.core).flatMap fun t =>
    (t.groups.filter fun g => g.gslot % 4 == s.gp.gslot % 4).flatMap fun g =>
      (g.allFrags.filter fun f => f.issues && s.ready t g f && !(f.ref t g == s.fragRef)).map fun f => (t, g, f)

/-- A CYCLE of the port in which the focused fragment issues: each fragment of `past`, the others that were ready, is passed over once more, one that
a causal experiment delays keeps its count (R365), and any other's run of cycles ends (R92). Those of its priority among `past` are the ones that a
`yield`, which `yields` says it executes, puts before it (R186). -/
def State.passOver (s : State) (past : List FragRef) (yields : Bool) : State :=
  let core := s.tm.core
  let port := s.gp.gslot % 4
  let prio := s.tm.lp.prio
  let mine := past.filter fun r => s.allTeams.any fun t => t.lp.prio == prio && t.core == core && t.groups.any fun g => g.gslot == r.gslot
  let u := s.mapTeams fun t =>
    if t.core != core then t
    else t.mapGroups fun g =>
      if g.gslot % 4 != port then g
      else g.mapFrags fun f =>
        if past.contains (f.ref t g) then { f with passed := f.passed + 1 }
        else if s.delayed t f then f
        else { f with passed := 0 }
  u.setFr { u.fr with ahead := if yields then mine else u.fr.ahead }

/-- Brings a candidate into focus. -/
def State.focusCand (s : State) (c : Cand) : State := ((s.focusTeam c.core c.ctx).focusGroup c.gslot).focusLane c.lane

/-! ### Fetching (R111, R219, R301) -/

/-- What fetching a parcel or word comes to: its bytes, a translation or a line of code that is missing, or a fault. -/
inductive Fetch where
  | bytes (bs : List Byte)
  | miss (va : Nat)
  | fill (line : Nat)
  | bad (c : Code) (va : Nat)

/-- Fetches `n` bytes of one line at a virtual address through its translation, from the core's instruction cache; a page that the device is
losing to a flip is awaited (R79, R219, R301). -/
def State.fetchFrom (s : State) (core va n : Nat) (p : Option PageEntry) : Fetch :=
  match p with
  | none => .miss va
  | some p =>
    if !p.r then .bad .prot va
    else if !s.paThere (p.phys va) then .bad .space va
    else if s.flipHeld (p.phys va) then .miss va
    else match s.codeLine core (lineOf (p.phys va)) with
      | none => .fill (lineOf (p.phys va))
      | some c => .bytes ((List.range n).map fun i => c.bytes.getD (p.phys va % 128 + i) 0)

/-- A fetch of the focused group (R197, R219). -/
def State.fetchAt (s : State) (va n : Nat) : Fetch := s.fetchFrom s.tm.core va n (s.transOf va)

/-- Fetches the following parcels of an instruction. -/
def State.fetchMore (s : State) (va : Nat) : Nat → List Byte → Fetch
  | 0, bs => .bytes bs
  | n + 1, bs =>
    match s.fetchAt va 2 with
    | .bytes ps => s.fetchMore (va + 2) n (bs ++ ps)
    | x => x

/-- Fetches the lane-stream instruction at `va`, parcel by parcel: its length is in its first parcel (R111, R219). -/
def State.fetchLane (s : State) (va : Nat) : Fetch :=
  match s.fetchAt va 2 with
  | .bytes ps => s.fetchMore (va + 2) (laneLength (ofBytes ps) / 16 - 1) ps
  | x => x

/-- Fetches a matrix-stream word; a sequencer's translation is that of the resident page (R219, R248, log entry 70). -/
def State.fetchMatrix (s : State) (fn va : Nat) : Fetch := s.fetchFrom s.tm.core va 8 ((s.pageOf fn va).filter (·.resident))

/-- The fault code of a rejected word (R112). -/
def rejectCode : Reject → Code
  | .illty => .illty
  | _ => .illop

/-- The address after the instruction whose parcel at `va` fails to be fetched: its length where its first parcel is known
(log entry 23). -/
def State.fetchNext (s : State) (va : Nat) : Word :=
  match s.fetchAt s.fr.pc.toNat 2 with
  | .bytes ps =>
    let n := s.fr.pc.toNat + laneLength (ofBytes ps) / 8
    BitVec.ofNat 64 (if va < n then n else va + 2)
  | _ => s.fr.pc + 2

/-- Raises a fetch fault: `%fpc` is the address being fetched (R214, R219). -/
def State.fetchFault (s : State) (c : Code) (va : Nat) : State :=
  s.raise (s.faultAll c va) (BitVec.ofNat 64 va) (s.fetchNext va)

/-- Raises a decode fault; the instruction counts as issued (R89, R112, R214). A first parcel of length code 0b11 has no length: its 16
bits stand in `%finfo`, and `tret 1` goes on behind it (DESIGN CHOICE, log entry 23). -/
def State.decodeFault (s : State) (r : Reject) (bs : List Byte) : State :=
  let s := s.issue
  s.raise (s.faultAll (rejectCode r) (ofBytes bs)) s.fr.pc (s.fr.pc + BitVec.ofNat 64 (max 2 bs.length))

/-- The enabled breakpoint at the focused fragment's next instruction (R362). -/
def State.atBreakpoint (s : State) : Bool :=
  !s.fr.skipBp && s.fr.wait == .none && s.fr.replay.isNone &&
    s.ctx.bps.any fun b => b.getLsbD 0 && (b >>> 1) == (s.fr.pc >>> 1)

/-- The line of code that a running sequencer misses (R219, R301). -/
def State.seqLine (s : State) (t : Team) : Option Nat :=
  match (s.pageOf (s.ctxs.getD t.ctx LaunchCtx.empty).fn t.seq.mpc.toNat).filter (·.resident) with
  | some p =>
    let line := lineOf (p.phys t.seq.mpc.toNat)
    if p.r && s.paThere (p.phys t.seq.mpc.toNat) && (s.codeLine t.core line).isNone then some line else none
  | none => none

/-- Whether a running sequencer's next word lies on a page that the device is losing to a flip (R79). -/
def State.seqFlips (s : State) (t : Team) : Bool :=
  (s.physOf (s.ctxs.getD t.ctx LaunchCtx.empty).fn t.seq.mpc.toNat).any s.flipHeld

/-- Whether a team's sequencer may issue: it runs, nothing is under way, its code is there, and nothing holds it (R79, R232, R301, R360, R373). -/
def State.seqReady (s : State) (t : Team) : Bool :=
  t.seq.st == .run && t.seq.flight.isNone && !s.seqHeld t && (s.seqLine t).isNone && !s.seqFlips t &&
    !s.codeTested t.core (s.ctxs.getD t.ctx LaunchCtx.empty).fn t.seq.mpc.toNat

/-- The team whose sequencer issues next: the running one that waited longest (R232). -/
def State.pickSeq (s : State) : Option TeamRef :=
  let ts := (s.allTeams.filter s.teamRuns).filter s.seqReady
  (ts.foldl (fun b t => match b with
    | none => some t
    | some u => if rankLt [t.seq.since, t.core, t.ctx] [u.seq.since, u.core, u.ctx] then some t else b) none).map fun t =>
      { core := t.core, ctx := t.ctx }

end Sys2Proof.Machine
end

