-- ==== Sys2Proof/Machine/Branch.lean ====
section
/-!
DEFINITION. Compares and predicates (R156 to R159), branches, calls, loops and repeats (R160 to R169), the splitting of a
fragment (R94), `region` (R172) and `yield` (R186).
-/
namespace Sys2Proof.Machine

/-! ### Compares and predicate logic -/

/-- The operands a condition takes (R156). -/
def condArity : Cond → Nat
  | .eqz | .nez | .ltz | .gez => 1
  | _ => 2

/-- A condition on two ordered things and what holds when they are not ordered (R156). -/
def condOf (c : Cond) (o : Ordering) (unordered : Bool) : Bool :=
  match c with
  | .eq | .eqz => !unordered && o == .eq
  | .ne | .nez => unordered || o != .eq
  | .lt | .ltz => !unordered && o == .lt
  | .le => !unordered && o != .gt
  | .gt => !unordered && o == .gt
  | .ge | .gez => !unordered && o != .lt
  | .unord => unordered
  | .ord => !unordered
  | .tst => false

/-- One condition over the operands: its value, and NV for a signalling NaN operand (R156). -/
def condEval (c : Cond) (ty : Ty) (ws : List Word) : Bool × Flags :=
  if ty.isFloat then
    let vals := fun k => (List.range (condArity c)).map fun i => decodeF (elemFmt ty) ((split ty (arg ws i)).getD k 0)
    let each := fun k =>
      let vs := vals k
      condOf c (FVal.cmp (vs.getD 0 (.fin false 0 0)) (vs.getD 1 (.fin false 0 0))) (anyNan vs)
    ((List.range (elems ty)).all each, flagIf ((List.range (elems ty)).any fun k => anySnan (vals k)) fNV)
  else if c = .tst then (decide (operandBits ty (arg ws 0) &&& operandBits ty (arg ws 1) ≠ 0), 0)
  else
    let b : Int := if condArity c = 1 then 0 else intOf ty (arg ws 1)
    (condOf c (compare (intOf ty (arg ws 0)) b) false, 0)

/-- The predicates after a compare with guard `g` and condition `c` (R157). -/
def combine (ct : Combine) (pa pb : Nat) (g c : Bool) (p : Byte) : Byte :=
  match ct with
  | .norm => if g then setPred (setPred p pa c) pb (!c) else p
  | .unc => setPred (setPred p pa (g && c)) pb (g && !c)
  | .and => if g && !c then setPred (setPred p pa false) pb false else p
  | .or => if g && c then setPred (setPred p pa true) pb true else p
  | .orAndcm => if g && c then setPred (setPred p pa true) pb false else p
  | .andOrcm => if g && !c then setPred (setPred p pa false) pb true else p

/-- R156, R157. -/
def execCmp (d : Bool) (cond : Cond) (ty : Ty) (pa pb : Fin 8) (ct : Combine) (g : Guard) (s : State) :
    Host.Outcome State Fault Refusal :=
  laneStep 4 (fun s =>
    let n := condArity cond
    let u := Use.of n 0
    s.withStack (if d then .none else u) (if d then u else .none) true fun s =>
      let s :=
        if d then
          let r := condEval cond ty (s.scalarArgs n)
          let f := { s.fr with cpreds := combine ct pa pb (s.fr.guard g) r.1 s.fr.cpreds }
          ((s.setFr f).mapActive fun l => { l with lcw := orFlags l.lcw r.2 }).replaceScalar n []
        else
          (s.mapActive fun l =>
            let r := condEval cond ty (valsOf n l.stk)
            { l with preds := combine ct pa pb (l.guard g) r.1 l.preds, lcw := orFlags l.lcw r.2 }).popLanes n
      .ok (s.finish 4)) s

/-- R158: pushes the predicates. -/
def execPpush (s : State) : Host.Outcome State Fault Refusal :=
  laneStep 4 (fun s => s.withStack (.of 0 1) .none false fun s =>
    .ok ((s.replaceLanes 0 1 fun l => [Entry.plain ((l.preds ||| 1).setWidth 64)]).finish 4)) s

/-- R158: pops the predicates. -/
def execPpop (s : State) : Host.Outcome State Fault Refusal :=
  laneStep 4 (fun s => s.withStack (.of 1 0) .none true fun s =>
    .ok (((s.mapActive fun l => { l with preds := (arg (valsOf 1 l.stk) 0).setWidth 8 &&& 0xFE }).popLanes 1).finish 4)) s

/-- R159: PD = table[2*Pa + Pb], complemented by `neg`. -/
def execPlog (tbl : BitVec 4) (pd : Fin 8) (neg : Bool) (a b : Fin 8) (s : State) : Host.Outcome State Fault Refusal :=
  laneStep 4 (fun s =>
    .ok ((s.mapActive fun l =>
      let v := tbl.getLsbD (2 * bit (predBit l.preds a) + bit (predBit l.preds b))
      { l with preds := setPred l.preds pd (v != neg) }).finish 4)) s

/-! ### Branches -/

/-- The target of an offset in parcels (R160). -/
def State.target (s : State) (off : Int) : Word := s.fr.pc + BitVec.ofInt 64 (2 * off)

/-- A taken branch by an offset (R160). -/
def State.branch (s : State) (off : Int) : State := s.transfer (s.target off) (decide (off < 0))

/-- A fragment guarded from the C file jumps or goes on (R161). -/
def brStep (len : Nat) (g : Guard) (off : Int) (s : State) : Host.Outcome State Fault Refusal :=
  laneStep len (fun s => .ok (if s.fr.guard g then s.branch off else s.finish len)) s

/-- R161. -/
def execBr (g : Guard) (off : BitVec 20) (s : State) : Host.Outcome State Fault Refusal := brStep 4 g off.toInt s

/-- R161. -/
def execBrFar (g : Guard) (off : BitVec 32) (s : State) : Host.Outcome State Fault Refusal := brStep 6 g off.toInt s

/-- What a detached fragment is: a copy with its own mask, which has never issued and has taken no fault (R94; log entry 15). -/
def Frag.detach (f : Frag) (m : Mask) : Frag :=
  { f with mask := m, wait := .none, replay := none, lastIssue := 0, passed := 0, promoted := false, yielded := false, skipBp := false,
           fcode := 0, fpc := 0, fmask := 0, finfo := 0, region := { f.region with exm := m } }

/-- The part of a fragment that stays after a split. Its region record's `%exm` becomes its own mask, so that restoring `%exm` after a split in a region
that is discarded keeps the parts apart (DESIGN CHOICE, log entry 15: R204 and R224 restore `%exm`, R227 the fragments one by one). -/
def Frag.keep (f : Frag) (m : Mask) : Frag := { f with mask := m, region := { f.region with exm := m } }

/-- A SPLIT (R94): `kept` stays in the focused fragment, `off` joins the group. -/
def State.splitInto (s : State) (kept off : Frag) : State := s.setGp { s.gp with fr := kept, frs := s.gp.frs ++ [off] }

/-- The SSPLIT fault of a scalar stack deeper than 8 (R94). -/
def State.ssplit (s : State) : Option LaneFault :=
  if 8 < s.fr.sstk.length then some (s.faultAll .ssplit s.fr.sstk.length) else none

/-- A fragment guarded from the P files jumps, goes on or faults; `split` says what happens when the lanes disagree. -/
def divStep (g : Guard) (off : BitVec 20) (split : State → Mask → Res) (s : State) : Host.Outcome State Fault Refusal :=
  laneStep 4 (fun s =>
    let t := s.guarded false g
    if t = s.fr.mask then .ok (s.branch off.toInt)
    else if t = 0 then .ok (s.finish 4)
    else split s t) s

/-- The lanes disagree at a branch that must be uniform (R163). -/
def State.brnu (s : State) (t : Mask) : Res := .fault (s.faultAll .brnu t.toNat)

/-- R162: splits where the lanes disagree; the minority is detached, on a tie the taken side. In a handler it acts as `bru`
(R216). -/
def execBrl (g : Guard) (off : BitVec 20) (s : State) : Host.Outcome State Fault Refusal :=
  divStep g off (fun s t =>
    if s.fr.trap.isSome then s.brnu t
    else match s.ssplit with
      | some x => .fault x
      | none =>
        let n := s.fr.mask &&& ~~~t
        let f := s.fr
        let taken := fun (f : Frag) => { f.unwait with pts := f.pts + bit (decide (off.toInt < 0)) }.goOn true (s.target off.toInt)
        if countLanes t ≤ countLanes n then .ok (s.splitInto ((f.keep n).advance 4) (taken (f.detach t)))
        else .ok (s.splitInto (taken (f.keep t)) ((f.detach n).advance 4))) s

/-- R163: uniform or BRNU. -/
def execBru (g : Guard) (off : BitVec 20) (s : State) : Host.Outcome State Fault Refusal := divStep g off State.brnu s

/-- `%finfo` of a fault of the link stack (R214). -/
def linkInfo (depth : Nat) : Nat := 2 + depth * 2 ^ 16

/-- A call of `len` bytes (R164). -/
def callStep (len : Nat) (g : Guard) (off : Int) (s : State) : Host.Outcome State Fault Refusal :=
  laneStep len (fun s =>
    let f := s.fr
    if !f.guard g then .ok (s.finish len)
    else if 32 < f.link.length + (if f.lc = 0 then 1 else 2) then .fault (s.faultAll .stkovf (linkInfo f.link.length))
    else
      let saved := if f.lc = 0 then f.link else .callTriple f.lc f.lb f.le :: f.link
      let back := LinkEntry.ret (f.pc + BitVec.ofNat 64 len)
      let g := if f.lc = 0 then f else { f with lc := 0, lb := 0, le := 0 }
      .ok ((s.setFr { g.unwait with link := back :: saved, pc := s.target off, pts := f.pts + bit (decide (off < 0)) }).nextRegion)) s

/-- R164. -/
def execCall (g : Guard) (off : BitVec 20) (s : State) : Host.Outcome State Fault Refusal := callStep 4 g off.toInt s

/-- R164. -/
def execCallFar (g : Guard) (off : BitVec 32) (s : State) : Host.Outcome State Fault Refusal := callStep 6 g off.toInt s

/-- The link stack without the loop triples that `loop` saved on top (R165). -/
def dropLoops : List LinkEntry → List LinkEntry
  | .loopTriple _ _ _ :: rest => dropLoops rest
  | ls => ls

/-- R165. An arrival at the end of the restored loop's body counts as R168 says. -/
def execRet (s : State) : Host.Outcome State Fault Refusal :=
  laneStep 2 (fun s =>
    let f := s.fr.unwait
    match dropLoops f.link with
    | .ret a :: .callTriple lc lb le :: rest =>
      let g := { f with link := rest, lc := lc, lb := lb, le := le }
      .ok ((s.setFr (if a = le then g.goOn true a else { g with pc := a })).nextRegion)
    | .ret a :: rest => .ok ((s.setFr { f with link := rest, lc := 0, lb := 0, le := 0, pc := a }).nextRegion)
    | _ => .fault (s.faultAll .stkunf (linkInfo f.link.length))) s

/-- R166. -/
def execJmp (g : Guard) (s : State) : Host.Outcome State Fault Refusal :=
  laneStep 4 (fun s => s.withStack .none (.of 1 0) true fun s =>
    let t := arg (s.scalarArgs 1) 0
    if !s.fr.guard g then .ok ((s.replaceScalar 1 []).finish 4)
    else if t.getLsbD 0 then .fault (s.faultAll .align t.toNat)
    else .ok ((s.replaceScalar 1 []).transfer t false)) s

/-- R167. -/
def execLoop (g : Guard) (off : BitVec 20) (s : State) : Host.Outcome State Fault Refusal :=
  laneStep 4 (fun s => s.withStack .none (.of 1 0) true fun s =>
    let f := s.fr
    let cnt := if f.guard g then lo32 (arg (s.scalarArgs 1) 0) else 0
    let label := s.target off.toInt
    if cnt = 0 then .ok ((s.replaceScalar 1 []).transfer label false)
    else if f.lc ≠ 0 ∧ 32 ≤ f.link.length then .fault (s.faultAll .stkovf (linkInfo f.link.length))
    else
      let link := if f.lc = 0 then f.link else .loopTriple f.lc f.lb f.le :: f.link
      let s := s.replaceScalar 1 []
      .ok ((s.setFr { s.fr with link := link, lc := cnt, lb := f.pc + 4, le := label }).finish 4)) s

/-- The instructions that `rep` may repeat (R169). -/
def repeatable : Instr → Bool
  | .nop | .dup _ | .drop _ | .swap _ | .over _ | .rot _ | .nip _ | .depth _ | .add .. | .sub .. | .mul .. | .mulhi ..
  | .fma .. | .div .. | .rem .. | .neg .. | .abs .. | .min .. | .max .. | .and .. | .or .. | .xor .. | .not .. | .shl ..
  | .shr .. | .sar .. | .rotl .. | .popc .. | .clz .. | .ctz .. | .bfx .. | .bfi .. | .sqrt .. | .rsqrt _ | .rcp _
  | .exp2 _ | .log2 _ | .sin _ | .cos _ | .tanh _ | .floor .. | .ceil .. | .trunc .. | .rint .. | .clamp .. | .conj ..
  | .norm .. | .copysign .. | .lane | .s2l | .get .. | .set .. | .tee .. | .inc .. | .get2 .. | .set2 .. | .tee2 ..
  | .clr .. | .lit .. | .lit32 .. | .lith .. | .cmp .. | .ld .. | .st .. | .vset .. | .cvt .. | .sel .. | .amul ..
  | .qcvt .. | .pick .. | .roll .. => true
  | _ => false

/-- Notes that an instruction without accesses of its own waits for a page: none of its lanes is finished (R219). -/
def State.awaitPage (s : State) (i : Instr) : State :=
  s.setFr { s.fr with replay := some { ins := i, todo := s.fr.mask, vals := [], entry := false, op := none, again := false } }

/-- The same for an instruction whose lanes `ls` reach for words of their own. -/
def State.awaitLanes (s : State) (i : Instr) (ls : List Lane) : State :=
  s.setFr { s.fr with replay := some { ins := i, todo := maskOf fun k => ls.any (·.ix == k), vals := [], entry := false, op := none,
                                       again := false } }

/-- R169. The next instruction is looked at now: a page or a line of code that misses is awaited, and a word that cannot be fetched or
decoded raises its own fault when it is reached (R219, log entry 25). -/
def execRep (g : Guard) (n : BitVec 20) (s : State) : Host.Outcome State Fault Refusal :=
  laneStep 4 (fun s =>
    let go := Res.ok (if s.fr.guard g then
      s.setFr { (s.fr.goOn false (s.fr.pc + 4)).unwait with rc := n.setWidth 32 } else s.finish 4)
    match s.fetchLane (s.fr.pc + 4).toNat with
    | .miss va => if s.pageFails s.ctx.fn va then go else .park (.page va) (s.awaitPage (.rep g n))
    | .fill line => .park (.fetch line) (s.awaitPage (.rep g n))
    | .bad _ _ => go
    | .bytes bs => match decodeBytes .lane bs with
      | .error _ => go
      | .ok i => if repeatable i then go else .fault (s.faultAll .illop ((encode (.rep g n)).getD (0, 0)).2)) s

/-- R172: the new region begins at the instruction itself. -/
def execRegion (base : BitVec 11) (count : BitVec 12) (s : State) : Host.Outcome State Fault Refusal :=
  laneStep 6 (fun s =>
    if s.tm.lp.frame < base.toNat + count.toNat then .fault (s.faultAll .slotrng (base.toNat + s.tm.lp.frame * 2 ^ 16))
    else .ok ((s.beginRegion s.fr.pc base.toNat count.toNat).finish 6)) s

/-- R186: the fragment ranks below the others of its priority that are ready now, which `step` has noted, until they have issued. -/
def execYield (s : State) : Host.Outcome State Fault Refusal :=
  laneStep 2 (fun s =>
    let s := s.finish 2
    .ok (s.setFr { s.fr with yielded := true, yieldAt := s.seqNo })) s

end Sys2Proof.Machine
end

