-- ==== Sys2Proof/Machine/Mem.lean ====
section
/-!
DEFINITION. Loads, stores and atomics (R189 to R200), `fence` (R78), `wait` (R201, R202) and the events of the lane engine's
memory side: returning data, acknowledged stores, resolved translations, PAGE and instruction fills.
-/
namespace Sys2Proof.Machine

/-- R191. -/
def execLd (d : Bool) (sp : Space) (sz : LdSize) (rh : Hint) (off : BitVec 13) (s : State) :
    Host.Outcome State Fault Refusal :=
  laneStep 4 (memBody (.ld d sp sz rh off) (ldOp d sp sz rh off) fun s => s.finish 4) s

/-- R191. -/
def execSt (d : Bool) (sp : Space) (sz : StSize) (rh : Hint) (g : Guard) (off : BitVec 13) (s : State) :
    Host.Outcome State Fault Refusal :=
  laneStep 4 (memBody (.st d sp sz rh g off) (stOp d sp sz g off) fun s => s.finish 4) s

/-- R199, R200: an atomic ends its region. -/
def execAtom (d : Bool) (op : AtomOp) (sp : Space) (w64 : Bool) (g : Guard) (ret : Bool) (off : BitVec 13) (s : State) :
    Host.Outcome State Fault Refusal :=
  laneStep 4 (memBody (.atom d op sp w64 g ret off) (atomOp d op sp w64 g ret off) fun s => s.finishRegion 4) s

/-! ### Fences -/

/-- Whether a posted store is the executing fragment's own (R78). -/
def State.ownPosted (s : State) (p : Posted) : Bool :=
  p.team == s.teamRef && p.who == s.gp.uid && (p.mask &&& s.fr.mask) != 0

/-- The point that a scope names: the die's bridge, the link port, the host (R78). -/
def scopePoint : FenceScope → Nat
  | .die => 1
  | .dev => 2
  | .host => 3

/-- Whether the executing fragment's fence may complete: its loads have returned and, for the host's acknowledgement, none
of its stores is still posted (R78; log entry 26). -/
def State.fenceReady (s : State) (sc : FenceScope) : Bool :=
  s.tm.outCount s.gp s.fr .ld == 0 && (sc != .host || !(s.posted.any s.ownPosted))

/-- Whether a fragment is still in the instruction of an operation, so that the operation is not complete (R194, R198). -/
def State.underWay (s : State) (op : Nat) : Bool :=
  s.allTeams.any fun t => t.groups.any fun g => g.allFrags.any fun f => f.replay.bind Replay.op == some op

/-- Whether every store of an operation has been performed, and every posted one accepted by its link port, so that the operation is complete
(R201). -/
def State.accepted (s : State) (op : Nat) : Bool := !s.underWay op && s.posted.all fun p => p.id != op || decide (2 ≤ p.passed)

/-- The st operation `op` is complete if every posted store of it is accepted (R201). -/
def State.endStore (s : State) (op : Nat) : State :=
  if s.accepted op then s.mapTeams fun t => { t with outs := t.outs.filter fun o => !(o.id == op && o.cls == .st) } else s

/-- The fragment's posted stores pass a point (R78). -/
def State.passPoint (s : State) (n : Nat) : State :=
  let mine := (s.posted.filter s.ownPosted).map (·.id)
  let s := { s with posted := s.posted.map fun p => if s.ownPosted p then { p with passed := max p.passed n } else p }
  if 2 ≤ n then mine.foldl State.endStore s else s

/-- Completes a fence: the fragment's posted stores have passed the point (R78). -/
def State.fenceDone (s : State) (sc : FenceScope) : State := (s.passPoint (scopePoint sc)).finishRegion 4

/-- R78. -/
def execFence (sc : FenceScope) (s : State) : Host.Outcome State Fault Refusal :=
  laneStep 4 (fun s => if s.fenceReady sc then .ok (s.fenceDone sc) else .park (.fence sc) s) s

/-- R78: a parked fence completes. -/
def execFenceComplete (f : FragRef) (s : State) : Host.Outcome State Fault Refusal :=
  let u := s.focusRef f
  match u.fr.wait with
  | .fence sc => .next (if s.hasFrag f && u.fenceReady sc then u.fenceDone sc else s)
  | _ => .next s

/-! ### Waiting for completion -/

/-- The largest stamp of the completed cp operations that count for the focused fragment (R71, R202). -/
def State.cpStamp (s : State) : Nat :=
  (s.tm.outs.filter fun o => o.cls == .cp && o.who == s.gp.uid && (o.mask &&& s.fr.mask) != 0).foldl
    (fun t o => max t (o.done.getD 0)) 0

/-- R201, R202: parks until the counts are met, and takes the stamps of completed cp operations. -/
def execWait (l st : BitVec 6) (c t : BitVec 5) (s : State) : Host.Outcome State Fault Refusal :=
  laneStep 4 (fun s =>
    if s.tm.countsMet s.gp s.fr l.toNat st.toNat c.toNat t.toNat then .ok ((s.raisePts s.cpStamp).finish 4)
    else .park (.count l.toNat st.toNat c.toNat t.toNat) s) s

/-! ### Events -/

/-- R85, R201: a load's value arrives in its entries. -/
def execLoadDataReturn (op : Nat) (s : State) : Host.Outcome State Fault Refusal :=
  .next (if s.underWay op then s
    else s.mapTeams fun t => if t.outs.any fun o => o.id == op && o.cls == .ld then t.arrived op else t)

/-- The posted stores of an operation that may move on: no older posted store of the same fragment and link is still before `n`
(R77). -/
def nextPosted (op : Nat) (n : Nat) : List Posted → List Posted → List Posted
  | _, [] => []
  | before, p :: ps =>
    let older := before.any fun q =>
      q.team == p.team && q.who == p.who && q.link == p.link && (q.mask &&& p.mask) != 0 && decide (q.passed < n)
    if p.id = op ∧ p.passed + 1 = n ∧ !older then p :: nextPosted op n (before ++ [p]) ps else nextPosted op n (before ++ [p]) ps

/-- A posted store accepted by its link port. -/
def Posted.accept (now : List Posted) (p : Posted) : Posted := if now.contains p then { p with passed := 2 } else p

/-- A posted store that has yet to reach its link port stands before it. -/
def Posted.atPort (p : Posted) : Posted := if p.passed < 2 then { p with passed := 1 } else p

/-- The bytes of a posted store. -/
def Posted.writes (p : Posted) : List ByteWrite := p.bytes.map fun b => { sp := 0, key := b.1, val := b.2 }

/-- R77, R198, R201: a store is acknowledged. One that is host-directed is first accepted by the link port, which completes its
operation, and then reaches the host; the trace unit's WPTR passes the records that do (R358). -/
def execStoreAcknowledged (op : Nat) (s : State) : Host.Outcome State Fault Refusal :=
  let atPort := s.posted.map Posted.atPort
  match nextPosted op 2 [] atPort with
  | p :: ps => .next (State.endStore { s with posted := atPort.map (Posted.accept (p :: ps)) } op)
  | [] =>
    let now := nextPosted op 3 [] s.posted
    .next (State.endStore ({ s with posted := s.posted.filter fun p => !now.contains p
                                    trace := s.trace.ahead (now.countP Posted.isRecord) }.putWrites (now.flatMap Posted.writes)) op)

/-- Whether an access through a virtual address of the focused team's launch may now be translated (R79, R197). -/
def State.resolved (s : State) (va : Nat) : Bool :=
  match s.transOf va with
  | some p => !s.flipHeld (p.phys va)
  | none => false

/-- The accesses of a replay that still miss, and what the others come to (R221). -/
def State.pageSplit (s : State) (m : MemOp) : Checked := s.checkAll m (s.reqs m (s.todoOf m))

/-- The virtual addresses whose translations the focused fragment waits for (R194, R219). -/
def State.missing (s : State) : List Nat :=
  match s.fr.wait with
  | .page va => match s.fr.replay.bind fun r => memOpOf r.ins with
    | some m => (s.pageSplit m).miss.map fun r => r.addr.toNat
    | none => [va]
  | _ => []

/-- Whether a miss of the focused fragment fails (R221). -/
def State.fails (s : State) (va : Nat) : Bool := s.pageFails s.ctx.fn va

/-- Whether the walker can resolve a miss of the focused fragment now (R79, R221). -/
def State.resolvable (s : State) (va : Nat) : Bool :=
  !s.fails va && match s.pageOf s.ctx.fn va with
    | some p => !s.flipHeld (p.phys va)
    | none => false

/-- The walker resolves a miss of the focused fragment, the pager making the page resident (R197, R221). -/
def State.walk (s : State) (va : Nat) : State :=
  let t := s.pageIn s.ctx.fn va
  match t.pageOf t.ctx.fn va with
  | some p => t.learn t.tm.core p
  | none => t

/-- R194, R219, R221: the walker has resolved a miss of a parked fragment; once none is left the fragment issues again. -/
def execTranslationResolved (f : FragRef) (s : State) : Host.Outcome State Fault Refusal :=
  let u := s.focusRef f
  if !s.hasFrag f then .next s
  else match u.missing.find? u.resolvable with
    | none => .next s
    | some va =>
      let v := u.walk va
      match v.missing.filter fun x => !v.resolved x with
      | [] => .next (v.setFr { v.fr with wait := .none })
      | x :: _ => .next (v.setFr { v.fr with wait := .page x })

/-- PAGE of a memory instruction (R221): the unfinished lanes whose translation is known are performed first, which takes a
replay-buffer entry; then PAGE is raised for the others. -/
def State.pageMem (s : State) (r : Replay) (m : MemOp) : State :=
  let c := s.pageSplit m
  match c.bad, c.miss with
  | some x, _ => s.raise x s.fr.pc (s.fr.pc + 4)
  | none, [] => s.setFr { s.fr with wait := .none }
  | none, q :: qs =>
    if c.good.isEmpty || s.fr.holdsEntry || decide (s.replayHeld s.tm.core < 128) then
      let (s1, es) := s.pass m c.good
      let mask := if m.d then s.fr.mask else maskOf fun i => (q :: qs).any fun y => y.ix == i
      let r' := { r with todo := mask, vals := s.buffered ++ es, entry := r.entry || !c.good.isEmpty, op := some s.opId }
      let s2 := if es.isEmpty then s1 else s1.countMem m (c.requests m)
      (s2.setFr { s2.fr with replay := some r' }).raise { code := .page, mask := mask, info := q.addr.toNat } s.fr.pc
        (s.fr.pc + 4)
    else s

/-- The length in bytes of an instruction. -/
def lengthOf (i : Instr) : Nat :=
  match encode i with
  | some p => p.1 / 8
  | none => 0

/-- The join counter that a lane's instruction reaches (R312, R313, R319). -/
def joinOf (i : Instr) (l : Lane) : Option Word :=
  match i with
  | .exit => l.jex
  | .spawn .. | .spawnTry .. | .cwait => if l.jcp = 0 then none else some l.jcp
  | _ => none

/-- The lanes of a waiting instruction without accesses of its own whose translation failed: those whose join counter fails, or the
whole fragment (R214). -/
def State.failedLanes (s : State) (r : Replay) (va : Nat) : LaneFault :=
  let fails := fun (l : Lane) => inMask r.todo l.ix && (joinOf r.ins l).any fun a => s.fails a.toNat
  match s.active.filter fails with
  | [] => s.faultAll .page va
  | l :: ls => { code := .page, mask := maskOf fun i => (l :: ls).any (·.ix == i), info := ((joinOf r.ins l).getD 0).toNat }

/-- A failing page at the address that a `rep` looks at raises nothing there: the fetch that reaches it does (R219, log entry 25). -/
def isRep : Instr → Bool
  | .rep .. => true
  | _ => false

/-- Raises PAGE for a fragment all of whose misses fail (R219, R221). -/
def State.raisePage (s : State) (va : Nat) : State :=
  match s.fr.replay with
  | none => s.fetchFault .page va
  | some r =>
    match memOpOf r.ins with
    | some m => s.pageMem r m
    | none =>
      if isRep r.ins then s.setFr { s.fr with wait := .none }
      else s.raise (s.failedLanes r va) s.fr.pc (s.fr.pc + BitVec.ofNat 64 (lengthOf r.ins))

/-- The pager reports that the page of a miss cannot be made resident (R221). -/
def State.pageLost (s : State) (va : Nat) : State :=
  match s.pageOf s.ctx.fn va with
  | some p => { s with pages := s.pages.map fun q => if q = p ∧ !p.resident then { q with lost := true } else q }
  | none => s

/-- R219, R221: the mapping is invalid, or the pager cannot make the page resident: of the misses of the parked fragment, the first that
has not failed fails. PAGE is raised once every miss that is left has failed. -/
def execPage (f : FragRef) (s : State) : Host.Outcome State Fault Refusal :=
  let u := s.focusRef f
  match u.missing with
  | [] => .next s
  | va :: vs =>
    if !s.hasFrag f then .next s
    else
      let v := match (va :: vs).find? fun x => !u.fails x with
        | some x => u.pageLost x
        | none => u
      if (va :: vs).all v.fails then .next (v.raisePage va) else .next v

/-! ### Instruction lines (R301) -/

/-- A fragment that waits for a line of code goes on. -/
def Frag.lineHere (line : Nat) (f : Frag) : Frag := if f.wait = .fetch line then { f with wait := .none } else f

/-- A core's instruction cache receives a line, as the fetch agent of its die sees it (R78); it holds 512, the newest first (R301). -/
def State.fillCode (s : State) (line core : Nat) : State :=
  let mine := (s.icache.filter fun c => c.core == core && c.line != line).take 511
  let new : CodeLine := { core := core, line := line, bytes := (List.range 128).map fun i => s.seenByte (dieOf core) 0 (line * 128 + i) }
  { s with icache := new :: mine ++ s.icache.filter fun c => c.core != core }

/-- Whether a team waits for a line of code: a fragment of it, or its sequencer (R219, R301). -/
def State.fetches (s : State) (line : Nat) (t : Team) : Bool :=
  (t.groups.any fun g => g.allFrags.any fun f => f.wait == .fetch line) ||
    (t.seq.st == .run && t.seq.flight.isNone && s.seqLine t == some line)

/-- The cores of a die that hold a team of a launch with one of the CODE addresses of a list, each once (R301). -/
def State.codeCores (s : State) (die : Nat) (codes : List Word) : List Nat :=
  ((s.allTeams.filter fun t => dieOf t.core == die && codes.contains t.lp.code).map fun t => t.core).dedup

/-- The fetch agent reads a line once and writes it into the instruction caches of some cores; the fragments there that wait for it go on (R301). -/
def State.fillCores (s : State) (line : Nat) (cores : List Nat) : State :=
  (cores.foldl (fun (s : State) c => s.fillCode line c) s).mapTeams fun t =>
    if cores.contains t.core then t.mapGroups fun g => g.mapFrags (Frag.lineHere line) else t

/-- R301: the die's fetch agent reads a line that a core misses once, and writes it into the instruction cache of every core of the die
that holds a team of a launch with the same CODE; a self-test of the line's row or of a bank that receives it delays it (R373). -/
def execFetchFill (core line : Nat) (s : State) : Host.Outcome State Fault Refusal :=
  let codes := ((s.allTeams.filter fun t => t.core == core && s.fetches line t).map fun t => t.lp.code).dedup
  let cores := s.codeCores (dieOf core) codes
  if s.underTest (0, line) || cores.any fun c => s.underTest (codeMem, cacheKey c line) then .next s
  else .next (s.fillCores line cores)

/-- A fetch whose translation is missing: a fragment at a new instruction parks; for one whose parked instruction goes on the walker brings the
translation back at once, or it fails (R219, R221). -/
def State.fetchMiss (s : State) (va : Nat) : State :=
  if s.fr.fresh && s.fr.replay.isNone then s.parkFr (.page va) else if s.fails va then s.fetchFault .page va else s.walk va

/-- A fetch whose line of code is missing: the same, with the fetch agent (R301). -/
def State.fetchLost (s : State) (line : Nat) : State :=
  if s.fr.fresh && s.fr.replay.isNone then s.parkFr (.fetch line)
  else s.fillCores line (s.codeCores (dieOf s.tm.core) [s.tm.lp.code])

/-- R92: a fragment passed over for 256 cycles ranks above its class until it issues. -/
def execStarvationPromotion (f : FragRef) (s : State) : Host.Outcome State Fault Refusal :=
  let u := s.focusRef f
  .next (if s.hasFrag f && decide (256 ≤ u.fr.passed) then u.setFr { u.fr with promoted := true } else s)

/-- R186: a yield ends after 64 cycles. -/
def execYieldExpiry (f : FragRef) (s : State) : Host.Outcome State Fault Refusal :=
  .next (if s.hasFrag f then
    let u := s.focusRef f
    u.setFr { u.fr with yielded := false } else s)

end Sys2Proof.Machine
end

