-- ==== Sys2Proof/Machine/Engine.lean ====
section
/-!
DEFINITION. What the transfer engines share: view geometry and its checks (R280 to R282), translation (R283), registered
ranges (R72, R75, R285), and moving a tile as one event (R71, R74, R284, R286).
-/
namespace Sys2Proof.Machine

/-! ### View geometry (R280, R281) -/

/-- A view register read by its fields; an extent of 0 counts as 1 (R280). -/
structure View where
  base : Nat
  d0   : Nat
  d1   : Nat
  d2   : Nat
  d3   : Nat
  s1   : Nat
  s2   : Nat
  s3   : Nat
  ty   : Nat
  tw   : Nat
  th   : Nat
  sp   : Nat
  deriving DecidableEq, Repr

/-- The fields of a view register. -/
def viewOf (v : List Half) : View :=
  let w := fun i => (v.getD i 0).toNat
  { base := w 0 + w 1 * 2 ^ 32, d0 := max 1 (w 2), d1 := max 1 (w 3), d2 := max 1 (w 4), d3 := max 1 (w 5), s1 := w 6,
    s2 := w 7, s3 := w 8, ty := field (w 9) 3 0, tw := max 1 (field (w 13) 15 0), th := max 1 (field (w 13) 31 16),
    sp := field (w 14) 2 0 }

/-- The element size in half bytes: f4 takes one (R280). -/
def View.nibs (v : View) : Nat :=
  match v.ty with
  | 4 | 5 | 6 | 7 => 16
  | 10 | 11 | 13 | 14 => 2
  | 12 => 1
  | _ => 8

/-- The element size in bytes, 1 for f4 (R282). -/
def View.size (v : View) : Nat := max 1 (v.nibs / 2)

/-- Tiles along dimensions 0 and 1, and all tiles (R281). -/
def View.n0 (v : View) : Nat := (v.d0 + v.tw - 1) / v.tw
def View.n1 (v : View) : Nat := (v.d1 + v.th - 1) / v.th
def View.tiles (v : View) : Nat := v.n0 * v.n1 * v.d2 * v.d3

/-- Bytes of a packed row and of a packed tile (R281). -/
def View.rowBytes (v : View) : Nat := v.tw * v.nibs / 2
def View.tileBytes (v : View) : Nat := v.rowBytes * v.th

/-- The half-byte address of element (r, c) of tile `k` (R281). -/
def View.nibAddr (v : View) (k r c : Nat) : Nat :=
  2 * (v.base + (k / v.n0 % v.n1 * v.th + r) * v.s1 + k / (v.n0 * v.n1) % v.d2 * v.s2 + k / (v.n0 * v.n1 * v.d2) * v.s3) +
    (k % v.n0 * v.tw + c) * v.nibs

/-- The byte address of element (r, c) of tile `k`. -/
def View.addr (v : View) (k r c : Nat) : Nat := v.nibAddr k r c / 2

/-- Whether element (r, c) of tile `k` lies in the tensor (R281). -/
def View.valid (v : View) (k r c : Nat) : Bool :=
  decide (k % v.n0 * v.tw + c < v.d0) && decide (k / v.n0 % v.n1 * v.th + r < v.d1)

/-- The elements of a tile in row-major order. -/
def View.cells (v : View) : List (Nat × Nat) :=
  (List.range v.th).flatMap fun r => (List.range v.tw).map fun c => (r, c)

/-- The valid elements of a tile in row-major order. -/
def View.elems (v : View) (k : Nat) : List (Nat × Nat) := v.cells.filter fun x => v.valid k x.1 x.2

/-! ### Spaces (R59, R60) -/

/-- Whether `len` bytes at an address of a space lie in its legal range for a team (R59). -/
def Team.inSpace (t : Team) (sp a len : Nat) : Bool :=
  match sp with
  | 0 => decide (a + len ≤ 2 ^ 56)
  | 2 => decide (a + len ≤ t.lp.spad)
  | 3 => decide (a / 2 ^ 20 < t.lp.cw * t.lp.ch) && decide (a % 2 ^ 20 + len ≤ t.lp.spad)
  | 4 => decide (a + len ≤ t.lp.dspad)
  | _ => false

/-- Where a team's address of a space lies: space and key of a byte, none without a translation (R59, R60). -/
def State.placeOf (s : State) (r : TeamRef) (cluster home sp a : Nat) : Option (Nat × Nat) :=
  let k := s.ctxs.getD r.ctx LaunchCtx.empty
  match sp with
  | 0 => (s.physOf k.fn a).map fun pa => (0, pa)
  | 2 => some (2, scrKey r.core r.ctx a)
  | 3 => (k.map.lookup (cluster * (k.lp.cw * k.lp.ch) + a / 2 ^ 20)).map fun m => (2, scrKey m r.ctx (a % 2 ^ 20))
  | 4 => some (4, dspKey home r.ctx a)
  | _ => none

/-- A fault of a view or an operand: its code and `%finfo`. -/
abbrev Bad := Code × Nat

/-- Whether a global address is known to lie where the physical map holds no memory (R60). -/
def State.hole (s : State) (fn va : Nat) : Bool := (s.physOf fn va).any fun pa => !s.paThere pa

/-- Whether `len` bytes at an address of a space of the focused team are where the team may not reach: outside the space's legal range
(R59), or on a page that maps no memory (R60). -/
def State.outside (s : State) (sp a len : Nat) : Bool := !s.tm.inSpace sp a len || (sp == 0 && s.hole s.ctx.fn a)

/-- Steps 1 to 3 of R282 for the tiles `ks` of the focused team; `bits` are the instruction's own. -/
def State.viewFault (s : State) (v : View) (bits : Nat) (ks : List Nat) : Option Bad :=
  if v.ty = 15 then some (.illty, bits)
  else
    let out := ks.findSome? fun k => ((v.elems k).map fun x => v.addr k x.1 x.2).find? fun a => s.outside v.sp a v.size
    match out with
    | some a => some (.space, a)
    | none =>
      if v.base % v.size ≠ 0 ∨ v.s1 % v.size ≠ 0 ∨ v.s2 % v.size ≠ 0 ∨ v.s3 % v.size ≠ 0 ∨ v.rowBytes % 16 ≠ 0 ∨
          (v.nibs = 1 ∧ v.tw % 2 = 1) then some (.align, v.base)
      else none

/-- What translating a list of global addresses comes to (R283). -/
inductive Pages where
  | ok
  | miss (va : Nat)
  | bad (b : Bad)

/-- Translation, PROT and REGION of global addresses: those read and those written by an operation of team `t` (R283). -/
def State.checkPages (s : State) (t : Team) (rd wr : List Nat) : Pages :=
  let fn := (s.ctxs.getD t.ctx LaunchCtx.empty).fn
  let known := fun va => (s.physOf fn va).isSome
  let page := fun va => s.pageOf fn va
  match (rd ++ wr).find? fun va => !known va with
  | some va => .miss va
  | none =>
    let fails := fun (p : PageEntry → Nat → Bool) (vas : List Nat) => vas.find? fun va => match page va with
      | some e => p e va
      | none => false
    let first := fun (c : Code) (a b : Option Nat) => (a.orElse fun _ => b).map fun va => ((c, va) : Bad)
    let space := first .space (fails (fun e va => !s.paThere (e.phys va)) rd) (fails (fun e va => !s.paThere (e.phys va)) wr)
    let prot := first .prot (fails (fun e _ => !e.r) rd) (fails (fun e _ => !e.w) wr)
    let region := first .region (fails (fun e _ => regionBad t e false) rd) (fails (fun e _ => regionBad t e true) wr)
    match space.orElse fun _ => prot.orElse fun _ => region with
    | some b => .bad b
    | none => .ok

/-- The addresses of a view's valid elements in space g, for the tiles `ks`. -/
def View.globals (v : View) (ks : List Nat) : List Nat :=
  if v.sp = 0 then ks.flatMap fun k => (v.elems k).map fun x => v.addr k x.1 x.2 else []

/-- The addresses, one in 16 bytes, of a packed range in space g. -/
def packedGlobals (sp a len : Nat) : List Nat :=
  if sp = 0 then (List.range ((len + 15) / 16)).map fun i => a + 16 * i else []

/-! ### Registered ranges (R72, R75, R283, R285) -/

/-- The lines of an address range of a space, as spans of physical keys: global pages one by one, window members one by
one. -/
def State.spansOf (s : State) (t : Team) (sp lo hi : Nat) : List Span :=
  let fn := (s.ctxs.getD t.ctx LaunchCtx.empty).fn
  match sp with
  | 0 => s.pages.filterMap fun p =>
      let a := max lo p.va
      let b := min hi (p.va + 2 ^ p.log2 - 1)
      if p.fn = fn ∧ a ≤ b then some { sp := 0, lo := lineOf (p.phys a), hi := lineOf (p.phys b) } else none
  | 2 => [{ sp := 2, lo := lineOf (scrKey t.core t.ctx lo), hi := lineOf (scrKey t.core t.ctx hi) }]
  | 3 => (List.range (t.lp.cw * t.lp.ch)).filterMap fun m =>
      let a := max lo (m * 2 ^ 20)
      let b := min hi (m * 2 ^ 20 + t.lp.spad - 1)
      if a ≤ b then (s.placeOf { core := t.core, ctx := t.ctx } t.cluster t.home 3 (m * 2 ^ 20)).map fun p =>
        { sp := 2, lo := lineOf (p.2 + a % 2 ^ 20), hi := lineOf (p.2 + b % 2 ^ 20) }
      else none
  | _ => [{ sp := 4, lo := lineOf (dspKey t.home t.ctx lo), hi := lineOf (dspKey t.home t.ctx hi) }]

/-- The bounding span of the valid elements of a tile (R283). -/
def State.viewSpans (s : State) (t : Team) (v : View) (k : Nat) : List Span :=
  match (v.elems k).map fun x => v.addr k x.1 x.2 with
  | [] => []
  | a :: as => s.spansOf t v.sp (as.foldl min a) (as.foldl max a + v.size - 1)

/-- The bounding span of a packed range. -/
def State.packedSpans (s : State) (t : Team) (sp a len : Nat) : List Span := s.spansOf t sp a (a + len - 1)

/-- Whether two spans share a line. -/
def Span.meets (a b : Span) : Bool := a.sp == b.sp && decide (a.lo ≤ b.hi) && decide (b.lo ≤ a.hi)

/-- Whether a span holds a line. -/
def Span.has (a : Span) (x : LineId) : Bool := a.sp == x.1 && decide (a.lo ≤ x.2) && decide (x.2 ≤ a.hi)

/-- The lines of a span in scratchpads. -/
def Span.scrLines (a : Span) : List Nat := if a.sp = 2 then (List.range (a.hi + 1 - a.lo)).map fun i => a.lo + i else []

/-- Whether every table an operation needs has room for it (R14, R72). -/
def State.tablesFit (s : State) (o : EngineOp) : Bool := s.entriesFit o.allEntries

/-- The lines of a started matrix operation meet a span (R273). -/
def State.flightMeets (s : State) (reads : Bool) (p : Span) : Bool :=
  s.allTeams.any fun t => match t.seq.flight with
    | some f => (f.writes.any fun w => p.has (w.sp, lineOf w.key)) || (reads && f.reads.any p.has)
    | none => false

/-- The cores whose scratchpads hold a span. -/
def Span.cores (a : Span) : List Nat :=
  if a.sp = 2 then (List.range (scrCore a.hi + 1 - scrCore a.lo)).map fun i => scrCore a.lo + i else []

/-- Whether an operation waits at the edge of an island whose scratchpads it reads or writes: while the clock of a move stands, and while
the island is not ON, unless it was in flight when the island began to quiesce (R346, R352). -/
def State.opAtEdge (s : State) (o : EngineOp) : Bool :=
  ((o.src ++ o.dst).flatMap Span.cores).any fun c =>
    let x := s.islands.getD (islandOf c) Island.reset
    x.moveTo.isSome || !(x.pstate == .on || (x.pstate == .quiescing && decide (o.id ≤ x.edge)))

/-- Whether an operation waits in the engine (R74, R75, R79, R273, R285), at the edge of an island (R346, R352), or for a self-test
(R373). -/
def State.opBlocked (s : State) (o : EngineOp) : Bool :=
  let meets := fun (xs ys : List Span) => xs.any fun x => ys.any x.meets
  !o.absent.isEmpty ||
    (s.ops.any fun e => decide (e.id < o.id) && (meets o.dst (e.src ++ e.dst) || meets o.src e.dst)) ||
    (o.dst.any (s.flightMeets true)) || (o.src.any (s.flightMeets false)) ||
    ((o.src ++ o.dst).any fun p => p.sp == 0 && s.flipping.any fun f => f.2 && decide (p.lo ≤ f.1 * 32 + 31) &&
      decide (f.1 * 32 ≤ p.hi)) ||
    s.opAtEdge o || s.tests.any fun t => (o.src ++ o.dst).any fun p => p.has (if t.1 == l2Mem then 0 else t.1, t.2.1)

/-- Marks scratchpad lines absent (R74). -/
def State.clearPresence (s : State) (ls : List Nat) : State := { s with absent := s.absent ++ ls.filter fun x => !s.absent.contains x }

/-- Whether an operation will write a scratchpad line. -/
def EngineOp.writesLine (o : EngineOp) (x : Nat) : Bool := o.dst.any fun p => p.has (2, x)

/-- Sets presence bits at the completion of an operation that is out of the tables: a line is there for later work unless an operation
in flight has still to write it, and an operation waits for it no longer unless one issued before it has (R74, R75). -/
def State.setPresence (s : State) (ls : List Nat) : State :=
  let open' := fun (is : EngineOp → Bool) (x : Nat) => s.ops.any fun o => is o && o.writesLine x
  { s with absent := s.absent.filter fun x => !ls.contains x || open' (fun _ => true) x
           ops := s.ops.map fun o => { o with absent := o.absent.filter fun x => !ls.contains x || open' (fun e => decide (e.id < o.id)) x } }

/-! ### Current reservations (R349) -/

/-- Whether a request of `u` units may be granted now. -/
def Island.fits (x : Island) (u : Nat) : Bool := decide (x.used + u ≤ x.cap.toNat) || x.used == 0

/-- Changes an island. -/
def State.modIsland (s : State) (i : Nat) (f : Island → Island) : State := { s with islands := s.islands.modify i f }

/-- An island's registers. -/
def State.islandAt (s : State) (i : Nat) : Island := s.islands.getD i Island.reset

/-- Asks the collar of a core's island: granted at once where nothing is queued and the units fit, else queued. -/
def State.collarAsk (s : State) (r : CollarReq) : State × Bool :=
  let i := islandOf r.team.core
  let x := s.islandAt i
  if x.cq.isEmpty && x.fits r.units then (s.modIsland i fun x => { x with used := x.used + r.units }, true)
  else (s.modIsland i fun x => { x with cq := x.cq ++ [r] }, false)

/-- Releases units held on a core's island. -/
def State.collarFree (s : State) (core u : Nat) : State := s.modIsland (islandOf core) fun x => { x with used := x.used - u }

/-- Whether the issuing core's copy path carries an operation: a stack's loader or storer carries a `tld` or `tst` whose
global operand lies in the stack (R25, R349). -/
def State.onCopyPath (s : State) (o : EngineOp) : Bool :=
  let v := viewOf o.view
  match o.kind with
  | .tld | .tst => match s.placeOf o.team o.cluster o.home v.sp (v.addr o.tile 0 0) with
    | some (0, pa) => decide (0x60_0000_0000 ≤ pa)
    | _ => true
  | .xfer | .fred => true
  | .fill | .drain => false

/-- REGISTERS an operation: its absent source lines are those absent now; its scratchpad destination goes absent (R72,
R74). -/
def State.register (s : State) (o : EngineOp) : State :=
  let o := { o with absent := (o.src.flatMap Span.scrLines).filter fun x => s.absent.contains x }
  let o := { o with unit := s.onCopyPath o }
  let (s, got) := if o.unit then s.collarAsk { team := o.team, op := some o.id, burst := false, units := 1, prio := s.tm.lp.prio } else (s, false)
  let o := { o with got := got, waiting := s.opBlocked o || (o.unit && !got) }
  State.clearPresence { s with ops := s.ops ++ [o] } (o.dst.flatMap Span.scrLines)

/-! ### Moving a tile (R71, R284, R286) -/

/-- One element to be moved: its place and half-byte offset, its size in half bytes, its value, and whether it carries
poison. -/
structure Move where
  sp   : Nat
  key  : Nat
  nib  : Nat
  size : Nat
  val  : Nat
  bad  : Bool
  deriving DecidableEq, Repr

/-- Whether a place is host memory behind a link that is down (R327). -/
def State.hostDead (s : State) (p : Nat × Nat) : Bool :=
  p.1 == 0 && isHostPa p.2 && !(s.hlinks.getD (linkOf p.2) { up := true, mode := .cxl }).up

/-- The number in `n` bytes that an agent of a die reads at a place (R78). -/
def State.seenNat (s : State) (die sp key n : Nat) : Nat := ofBytes ((List.range n).map fun i => s.seenByte die sp (key + i))

/-- Reads an element's value and poison at a place, for an agent of a die. -/
def State.readElem (s : State) (die : Nat) (p : Nat × Nat) (nib size : Nat) : Nat × Bool :=
  (if size = 1 then (s.seenByte die p.1 p.2).toNat / 16 ^ nib % 16 else s.seenNat die p.1 p.2 (size / 2),
   s.poison.contains (p.1, lineOf p.2) || s.hostDead p)

/-- Writes an element; a dead link leaves host bytes unwritten (R327). -/
def State.writeMove (s : State) (m : Move) : State :=
  if s.hostDead (m.sp, m.key) then s
  else if m.size = 1 then
    let b := (s.byteAt m.sp m.key).toNat
    s.putByte m.sp m.key (BitVec.ofNat 8 (b - b / 16 ^ m.nib % 16 * 16 ^ m.nib + m.val * 16 ^ m.nib))
  else s.putNat m.sp m.key (m.size / 2) m.val

/-- Whether an operation writes its packed range. -/
def OpKind.loads : OpKind → Bool
  | .tld | .xfer | .fill => true
  | .tst | .drain | .fred => false

/-- The place of element (r, c) of the view, and its half byte. -/
def State.elemPlace (s : State) (o : EngineOp) (r c : Nat) : Option ((Nat × Nat) × Nat) :=
  let n := (viewOf o.view).nibAddr o.tile r c
  (s.placeOf o.team o.cluster o.home (viewOf o.view).sp (n / 2)).map fun p => (p, n % 2)

/-- The place of element (r, c) in the packed tile. -/
def State.packedPlace (s : State) (o : EngineOp) (r c : Nat) : Option ((Nat × Nat) × Nat) :=
  let n := 2 * (o.paddr + r * (viewOf o.view).rowBytes) + c * (viewOf o.view).nibs
  (s.placeOf o.team o.cluster o.home o.psp (n / 2)).map fun p => (p, n % 2)

/-- The die of the unit that carries an operation: a stack's loader or storer, or the issuing core's copy path (R25). That a stack's loader sees the
posted stores to a page in host bias that its own die sees, and not those of the issuing core's die, is a DESIGN CHOICE (log entry 68: R78 speaks
of the agents of a die, and R25 lets the choice of path change time only). -/
def State.opDie (s : State) (o : EngineOp) : Nat :=
  if s.onCopyPath o then dieOf o.team.core
  else match s.placeOf o.team o.cluster o.home (viewOf o.view).sp ((viewOf o.view).addr o.tile 0 0) with
    | some (0, pa) => if pa < 0x60_0000_0000 then pa / 0x18_0000_0000 else dieOf o.team.core
    | _ => dieOf o.team.core

/-- Every element that an operation moves, with the sources read now (R284). -/
def State.movesOf (s : State) (o : EngineOp) : List Move :=
  let v := viewOf o.view
  let die := s.opDie o
  v.cells.filterMap fun x =>
    match s.elemPlace o x.1 x.2, s.packedPlace o x.1 x.2 with
    | e, some (q, j) =>
      if o.kind.loads then
        let got := match e with
          | some (p, i) => if v.valid o.tile x.1 x.2 then s.readElem die p i v.nibs else (0, false)
          | none => (0, false)
        some { sp := q.1, key := q.2, nib := j, size := v.nibs, val := got.1, bad := got.2 }
      else if v.valid o.tile x.1 x.2 then e.map fun (p, i) =>
        let got := s.readElem die q j v.nibs
        { sp := p.1, key := p.2, nib := i, size := v.nibs, val := got.1, bad := got.2 }
      else none
    | _, none => none

/-- The bytes of zero from the end of a packed tile to the next line boundary: `tld`, and `xfer` into c or w (R284). -/
def State.padOf (s : State) (o : EngineOp) : List Move :=
  if o.kind = .tld ∨ (o.kind = .xfer ∧ (o.psp = 2 ∨ o.psp = 3)) then
    let n := (viewOf o.view).tileBytes
    (List.range ((128 - (o.paddr + n) % 128) % 128)).filterMap fun i =>
      (s.placeOf o.team o.cluster o.home o.psp (o.paddr + n + i)).map fun p =>
        { sp := p.1, key := p.2, nib := 0, size := 2, val := 0, bad := false }
  else []

/-- Performs moves in order. -/
def State.writeMoves (s : State) : List Move → State
  | [] => s
  | m :: ms => (s.writeMove m).writeMoves ms

/-- Whether a list of moves writes every byte of a line. -/
def coversLine (ms : List Move) (x : LineId) : Bool :=
  (List.range 128).all fun i => ms.any fun m =>
    m.sp == x.1 && decide (m.key ≤ x.2 * 128 + i) && decide (x.2 * 128 + i < m.key + max 1 (m.size / 2))

/-- The poison of destination lines: a poisoned element poisons its line, and a line written whole with good data loses its
mark (R286). -/
def State.movePoison (s : State) (ms : List Move) : State :=
  let lines := (ms.map fun m => (m.sp, lineOf m.key)).dedup
  let bad := lines.filter fun x => ms.any fun m => m.bad && m.sp == x.1 && lineOf m.key == x.2
  let good := lines.filter fun x => !bad.contains x && coversLine ms x
  { s with poison := (s.poison.filter fun x => !bad.contains x && !good.contains x) ++ bad }

/-- Whether a line keeps stamps: host memory, pages in host bias and read-only pages do not (R65). -/
def State.keepsStamps (s : State) (x : LineId) : Bool :=
  x.1 != 0 || (!s.hostDirected (x.2 * 128) && !(s.pages.any fun p => p.region == 1 && decide (p.pa ≤ x.2 * 128) &&
    decide (x.2 * 128 < p.pa + 2 ^ p.log2)))

/-- The lines that an operation reads. -/
def State.readLines (s : State) (o : EngineOp) : List LineId :=
  let v := viewOf o.view
  let ps := if o.kind.loads || o.kind == .fred then
      (v.elems o.tile).filterMap fun x => (s.elemPlace o x.1 x.2).map (·.1)
    else v.cells.filterMap fun x => (s.packedPlace o x.1 x.2).map (·.1)
  (ps.map fun p => (p.1, lineOf p.2)).dedup.filter s.keepsStamps

/-- ONE EVENT of an engine (R71): the elements `ms` are written, their lines and those read are stamped, presence is set, the
operation leaves the tables; the stamp is the second part. -/
def State.moveAll (s : State) (o : EngineOp) (ms : List Move) : State × Nat :=
  let wr := ((ms.map fun m => (m.sp, lineOf m.key)).dedup).filter s.keepsStamps
  let (s1, t) := s.stampEvent o.pts 0 (s.readLines o) [] wr
  let s2 := { (s1.writeMoves ms).movePoison ms with ops := s1.ops.filter fun e => e.id != o.id }
  let s3 := if o.got then s2.collarFree o.team.core 1 else s2
  (s3.setPresence (o.dst.flatMap Span.scrLines), t)

/-- An operation moves its tile. -/
def State.moveTile (s : State) (o : EngineOp) : State × Nat := s.moveAll o (s.movesOf o ++ s.padOf o)

/-- A cp operation of a team is complete at stamp `t` (R71, R201). -/
def State.opCounted (s : State) (o : EngineOp) (t : Nat) : State :=
  s.modTeam o.team fun tm => { tm with outs := tm.outs.map fun x => if x.id = o.id ∧ x.cls = .cp then { x with done := some t } else x }

/-- The engine operation numbered `id`. -/
def State.opById (s : State) (id : Nat) : Option EngineOp := s.ops.find? fun o => o.id == id

end Sys2Proof.Machine
end

