-- ==== Sys2Proof/Machine/Burst.lean ====
section
/-!
DEFINITION. The lane engine's burst reservation (R349): the latencies of R131, the cycle in which a core's ports issue, and what a cycle
with more than two long instructions asks of the collar.
-/
namespace Sys2Proof.Machine

/-- Whether an integer `mul` or `mulhi` is a 64-bit one. -/
def wideInt (ty : Ty) : Bool := ty == .i64 || ty == .n64

/-- Whether an instruction of a type is a float one, of latency 4 or more (R131). -/
def floatTy (ty : Ty) : Bool := ty == .f32 || ty == .f64 || ty == .h2 || ty == .bh2

/-- Whether the instruction that the focused fragment issues has a latency of 4 or more (R131): `pick` has one for an entry in the backing
area. -/
def State.longIssue (s : State) : Instr → Bool
  | .mul _ ty _ => wideInt ty || floatTy ty
  | .mulhi ty _ => wideInt ty
  | .add _ ty _ | .sub _ ty _ | .fma _ ty _ | .min ty _ | .max ty _ | .clamp ty _ => floatTy ty
  | .floor _ _ | .ceil _ _ | .trunc _ _ | .rint _ _ _ | .cvt _ _ _ _ => true
  | .div _ _ _ | .rem _ _ | .sqrt _ _ _ => true
  | .rcp _ | .rsqrt _ | .exp2 _ | .log2 _ | .tanh _ | .sin _ | .cos _ | .qcvt _ _ _ => true
  | .norm _ _ _ | .amul _ _ _ _ _ => true
  | .pick n false => s.active.any fun l => decide (l.stk.length - l.back ≤ n.toNat)
  | _ => false

/-- A core's present cycle; one that has not issued stands before its first. -/
def State.cycleOf (s : State) (core : Nat) : CoreCycle :=
  (s.cycles.find? fun c => c.core == core).getD { core := core, ports := [], long := 0 }

/-- A cycle after an issue from `port`: a port that issues again, or one that may not issue in it, begins the next. -/
def CoreCycle.issue (c : CoreCycle) (port : Nat) (long stop : Bool) : CoreCycle :=
  if stop || c.ports.contains port then { c with ports := [port], long := bit long }
  else { c with ports := port :: c.ports, long := c.long + bit long }

/-- Whether an issue from `port` would be a cycle's third of latency 4 or more, which takes a burst reservation (R349). -/
def CoreCycle.bursts (c : CoreCycle) (port : Nat) (long : Bool) : Bool := long && !c.ports.contains port && decide (2 ≤ c.long)

/-- The lane engine of a core asks for its burst reservation, unless it holds or awaits one (R349). -/
def State.askBurst (s : State) (core ctx prio : Nat) : State :=
  let x := s.islandAt (islandOf core)
  if x.bursts.contains core || x.cq.any fun r => r.burst && r.team.core == core then s
  else
    let (t, got) := s.collarAsk { team := { core := core, ctx := ctx }, op := none, burst := true, units := 2, prio := prio }
    if got then t.modIsland (islandOf core) fun x => { x with bursts := x.bursts ++ [core] } else t

/-- THE FOCUSED FRAGMENT'S PORT ISSUES `i` in the present cycle of its core: the third of latency 4 or more issues in it under a burst
reservation, and without one in the next (R349). An instruction that wakes or replays issues no more. -/
def State.portIssue (s : State) (i : Instr) : State :=
  if !(s.fr.fresh && s.fr.replay.all Replay.again) then s
  else
    let core := s.tm.core
    let port := s.gp.gslot % 4
    let long := s.longIssue i
    let c := s.cycleOf core
    let third := c.bursts port long
    let t := if third then s.askBurst core s.tm.ctx s.tm.lp.prio else s
    let stop := third && !(t.islandAt (islandOf core)).bursts.contains core
    { t with cycles := c.issue port long stop :: t.cycles.filter fun x => x.core != core }

end Sys2Proof.Machine
end

