-- ==== Sys2Proof/Machine/Seq.lean ====
section
/-!
DEFINITION. The sequencer of the focused team: fetching a word (R248, R271), issuing an instruction, the end of an
instruction with the check of the loop stack (R270), waiting (R231), and a sequencer fault with its record (R245, R276).
-/
namespace Sys2Proof.Machine

/-- The focused team's sequencer. -/
abbrev State.seq (s : State) : Seq := s.tm.seq

/-- Replaces the focused team's sequencer. -/
def State.setSeq (s : State) (q : Seq) : State := { s with tm := { s.tm with seq := q } }

/-- Whether a matrix-stream address lies in the code object: not before CODE (R299), and on a mapped page (log entry 24). -/
def State.inCode (s : State) (va : Word) : Bool := decide (s.tm.lp.code ≤ va) && (s.pageOf s.ctx.fn va.toNat).isSome

/-- Fetches the word at MPC; outside the code object it raises SPACE (R248, R271), and on a page that the pager cannot make resident
PAGE (R219, R221). -/
def State.fetchMatrixWord (s : State) : Fetch :=
  if !s.inCode s.seq.mpc then .bad .space s.seq.mpc.toNat
  else if s.pageFails s.ctx.fn s.seq.mpc.toNat then .bad .page s.seq.mpc.toNat
  else s.fetchMatrix s.ctx.fn s.seq.mpc.toNat

/-- A fetch that misses: the sequencer waits for the pager (R219, R221). -/
def State.seqMiss (s : State) (va : Nat) : State :=
  { s with seqNo := s.seqNo + 1 }.pageIn s.ctx.fn va

/-- A fetch whose line of code is not in the core's instruction cache: the sequencer waits for the fetch agent (R301). -/
def State.seqFill (s : State) (_line : Nat) : State := { s with seqNo := s.seqNo + 1 }

/-- The 32-byte record of a sequencer fault, byte 0 first (R276). -/
def seqRecord (c : Code) (word engine : Nat) (mpc : Word) (detail : Nat) : List Byte :=
  toBytes 1 (codeNum c) ++ toBytes 1 (field word 7 2) ++ toBytes 2 engine ++ toBytes 4 0 ++ toBytes 8 mpc.toNat ++
    toBytes 8 word ++ toBytes 8 detail

/-- A SEQUENCER FAULT (R245, R276, R305, R356): the context goes to FAULT, its record goes to the debug area, a trace record is sent, a task
that the team runs becomes FAULTED, and the launch ends. -/
def State.seqFault (s : State) (c : Code) (detail word : Nat) : State :=
  let e := matrixEngine s.tm.core
  let fn := s.ctx.fn
  let s := s.setSeq { s.seq with st := .fault }
  let s := s.faultTasks s.teamRef (codeNum c) e (fun w => s.physOf fn w.toNat)
  let s := s.noteTeam e 5 0 (BitVec.ofNat 64 (codeNum c) ||| (s.seq.mpc <<< 8))
  let s := s.dump s.tm.ctx e 0 (seqRecord c word e s.seq.mpc detail)
  s.fatal s.tm.ctx (s.fatalFault (codeNum c) e (seqPlace s.tm.core) 0)

/-- What an instruction of the matrix stream comes to: a next state, a fault with its detail, or a wait. -/
inductive SeqRes where
  | ok (s : State)
  | fault (c : Code) (detail : Nat)
  | wait (st : SeqState) (s : State)

/-- The word of an instruction (R248). -/
def wordOf (i : Instr) : Nat :=
  match encode i with
  | some p => p.2
  | none => 0

/-- The check of the loop stack against an instruction's next address (R270). -/
def mloopCheck : List MLoop → Word → List MLoop × Word
  | [], pc => ([], pc)
  | l :: ls, pc =>
    if pc = l.fin then
      (if l.count ≤ 1 then mloopCheck ls pc else ({ l with count := l.count - 1 } :: ls, l.body))
    else (l :: ls, pc)

/-- Continues the sequencer at `pc`, after the loop check. -/
def Seq.goTo (q : Seq) (pc : Word) : Seq :=
  let r := mloopCheck q.loops pc
  { q with loops := r.1, mpc := r.2, st := .run }

/-- The end of an instruction that does not transfer: MPC advances by 8 (R248). -/
def State.seqNext (s : State) : State := s.setSeq (s.seq.goTo (s.seq.mpc + 8))

/-- A transfer; outside the code object it raises SPACE and has no effect (R271, R275). -/
def State.seqJump (s : State) (target : Word) : SeqRes :=
  if s.inCode target then .ok (s.setSeq (s.seq.goTo target)) else .fault .space target.toNat

/-- The address `n` words of 8 bytes away from MPC. -/
def State.seqTarget (s : State) (off : BitVec 32) : Word := s.seq.mpc + (off.signExtend 64 <<< 3)

/-- Notes that the sequencer issues; a wait of the instruction begins here (R320). -/
def State.seqIssue (s : State) : State :=
  { s with seqNo := s.seqNo + 1 }.setSeq { s.seq with since := s.seqNo + 1, waitNs := s.now }

/-- A step whose phase is over stops the sequencer once it waits (R360). -/
def State.noteStop (s : State) : State :=
  { s with stepping := s.stepping.map fun k =>
      if k.team == s.teamRef && k.doneAt.isSome && s.seq.st != .run && s.seq.flight.isNone then { k with seqHeld := true } else k }

/-- An instruction of the matrix stream: it always answers a next state (R231). -/
def seqStep (i : Instr) (body : State → SeqRes) (s : State) : Host.Outcome State Fault Refusal :=
  let s := s.seqIssue
  match body s with
  | .ok s' => .next s'.noteStop
  | .fault c d => .next (s.seqFault c d (wordOf i))
  | .wait st s' => .next (s'.setSeq { s'.seq with st := st }).noteStop

/-- The accumulator slot `n` of the focused team (R230). -/
def State.accSlot (s : State) (n : Nat) : AccSlot := s.tm.acc.getD n AccSlot.empty

/-- Replaces an accumulator slot. -/
def State.setAcc (s : State) (n : Nat) (a : AccSlot) : State := { s with tm := { s.tm with acc := s.tm.acc.set n a } }

/-- The code of a token state in a fault record (R276). -/
def tokenCode : Token → Nat
  | .mat => 0
  | .given => 1
  | .lane _ => 2
  | .back => 3

/-- The MTOK fault of an operation that names slot `n`: outside the share, or its token is not MAT (R235, R275, R276). -/
def State.mtok (s : State) (n : Nat) : Option (Code × Nat) :=
  if s.tm.acc.length ≤ n then some (.mtok, n + 64)
  else if (s.accSlot n).tok = .mat then none
  else some (.mtok, n + tokenCode (s.accSlot n).tok * 16)

end Sys2Proof.Machine
end

