-- ==== Sys2Proof/Machine/Meet.lean ====
section
/-!
DEFINITION. Where fragments meet: seams and merging (R95 to R98, R170, R171), transfer slots (R180), and team and gang
barriers with the sequencer's side and the yoke's presence (R181 to R184, R234, R243).
-/
namespace Sys2Proof.Machine

/-! ### Seams -/

/-- The seam numbered `j` of a group. -/
def Group.seamAt (g : Group) (j : Nat) : Seam := g.seams.getD j Seam.idle

/-- Replaces a seam. -/
def Group.setSeam (g : Group) (j : Nat) (x : Seam) : Group := { g with seams := g.seams.set j x }

/-- `a` covers `b`. -/
def covers (a b : Mask) : Bool := (b &&& ~~~a) == 0

/-- The arrival with the lowest lane. -/
def lowestFrag (fs : List Frag) (f : Frag) : Frag :=
  fs.foldl (fun a b => if lowestLane b.mask < lowestLane a.mask then b else a) f

/-- The fragment that parked most recently. -/
def latestParked (fs : List Frag) (f : Frag) : Frag := fs.foldl (fun a b => if a.parkedAt < b.parkedAt then b else a) f

/-- The arrival whose trap registers and record a merged fragment keeps: the one with the lowest lane, before it one that runs a handler
(DESIGN CHOICE, log entry 68). -/
def trapFrag (arr : List Frag) (last : Frag) : Frag :=
  let low := lowestFrag arr last
  match (last :: arr).filter fun f => f.trap.isSome with
  | [] => low
  | f :: fs => lowestFrag fs f

/-- A MERGE (R96): the fragments `arr` join at the instruction after the `mend` of `last`; the seam goes to IDLE and a new
region begins at the merged depths (R171). Of what R96 does not name, the merged fragment takes the region window and the yield mark of
the arrival with the lowest lane, and the last issue of the latest (DESIGN CHOICE, log entry 68). -/
def Group.merge (g : Group) (j : Nat) (arr : List Frag) (last : Frag) : Group :=
  let low := lowestFrag arr last
  let mask := arr.foldl (fun m f => m ||| f.mask) last.mask
  let tr := trapFrag arr last
  let m := { low.unwait with
    mask := mask, trap := tr.trap, fcode := tr.fcode, fpc := tr.fpc, fmask := tr.fmask, finfo := tr.finfo,
    pts := arr.foldl (fun (t : Nat) (f : Frag) => max t f.pts) last.pts,
    seen := arr.foldl (fun (t : Nat) (f : Frag) => max t f.seen) last.seen,
    held := last.held || arr.any (·.held),
    lastIssue := arr.foldl (fun (t : Nat) (f : Frag) => max t f.lastIssue) last.lastIssue }.goOn false (last.pc + 4)
  let depth := ((g.lanes.find? fun l => inMask mask l.ix).map fun l => l.stk.length).getD 0
  let m := { m with region := m.regionAt m.pc low.region.base low.region.count depth }
  let gone := fun (f : Frag) => (f.mask &&& mask) != 0
  { g with fr := m, frs := (g.allFrags.filter fun f => !gone f)
           lanes := g.lanes.map fun l => if inMask mask l.ix then l.markRegion else l
           seams := g.seams.set j Seam.idle }

/-- The fragments of a group parked at seam `j`. -/
def Group.parkedAtSeam (g : Group) (j : Nat) : List Frag := g.allFrags.filter fun f => f.wait == .seam j

/-- A merge that an exit or a release causes: the last arrival is the fragment that parked most recently (R96). -/
def Group.mergeParked (g : Group) (j : Nat) : Group :=
  match g.parkedAtSeam j with
  | [] => g.setSeam j Seam.idle
  | f :: fs => g.merge j (f :: fs) (latestParked fs f)

/-- The exit of lanes at one seam (R95). -/
def Group.seamExit (g : Group) (m : Mask) (j : Nat) : Group :=
  let x := g.seamAt j
  let y := { x with expect := x.expect &&& ~~~m, arrived := x.arrived &&& ~~~m }
  match x.st with
  | .idle => g
  | .opened => g.setSeam j (if y.expect = 0 then Seam.idle else y)
  | .part => if covers y.arrived y.expect then g.mergeParked j else g.setSeam j y

/-- `%finfo` of DEPTH (R214). -/
def depthInfo (j expL gotL expS gotS : Nat) (tret : Bool) : Nat :=
  j + expL % 2 ^ 11 * 2 ^ 8 + gotL % 2 ^ 11 * 2 ^ 19 + bit tret * 2 ^ 31 + expS % 2 ^ 6 * 2 ^ 32 + gotS % 2 ^ 6 * 2 ^ 40

/-- R95, R170. -/
def execSeam (j : Fin 8) (s : State) : Host.Outcome State Fault Refusal :=
  laneStep 4 (fun s =>
    let x := s.gp.seamAt j
    let d := s.laneDepth
    let ds := s.fr.sstk.length
    match x.st with
    | .idle =>
      .ok ((s.setGp (s.gp.setSeam j { st := .opened, expect := s.fr.mask, arrived := 0, dl := d, ds := ds })).finishRegion 4)
    | _ =>
      if d = x.dl ∧ ds = x.ds then .ok ((s.setGp (s.gp.setSeam j { x with expect := x.expect ||| s.fr.mask })).finishRegion 4)
      else .fault (s.faultAll .depth (depthInfo j x.dl d x.ds ds false))) s

/-- R95, R171: arrives at a seam; the last arrival merges (R96). -/
def execMend (j : Fin 8) (delta : BitVec 5) (s : State) : Host.Outcome State Fault Refusal :=
  laneStep 4 (fun s =>
    let x := s.gp.seamAt j
    let d := s.laneDepth
    let ds := s.fr.sstk.length
    let want := ((x.dl : Int) + delta.toInt)
    let arrived := x.arrived ||| s.fr.mask
    if x.st = .idle ∨ s.fr.mask &&& x.expect = 0 then .ok (s.finishRegion 4)
    else if (d : Int) ≠ want ∨ ds ≠ x.ds then
      .fault (s.faultAll .depth (depthInfo j (want % 2048).toNat d x.ds ds false))
    else if covers arrived x.expect then .ok (s.setGp (s.gp.merge j (s.gp.parkedAtSeam j) s.fr))
    else .park (.seam j) (s.setGp (s.gp.setSeam j { x with st := .part, arrived := arrived }))) s

/-- R98: with every live fragment parked at a `mend`, and none of them in a handler (R216), the PART seam of lowest index is
released. -/
def execLostReconvergenceRelease (core gslot : Nat) (s : State) : Host.Outcome State Fault Refusal :=
  match s.allTeams.find? (fun t => t.core == core && t.groups.any fun g => g.gslot == gslot) with
  | none => .next s
  | some t =>
    let u := (s.focusTeam t.core t.ctx).focusGroup gslot
    let g := u.gp
    let stuck := g.allFrags.all fun f => f.trap.isNone && match f.wait with
      | .seam _ => true
      | _ => false
    match (List.range 8).find? fun j => (g.seamAt j).st == .part with
    | none => .next s
    | some j =>
      if stuck then .next (u.setGp { g.mergeParked j with lost := true, seamrel := g.seamrel + 1 }) else .next s

/-! ### Transfer slots (R180) -/

/-- R180: fills an EMPTY slot with the values of the active lanes. -/
def execXput (x : Fin 16) (s : State) : Host.Outcome State Fault Refusal :=
  laneStep 4 (fun s => s.withStack (.of 1 0) .none true fun s =>
    let sl := s.tm.xs.getD x XSlot.empty
    if sl.full ∨ s.before (fun w => w == .xslot x true) then .park (.xslot x true) s
    else
      let vals := (List.range 32).map fun i =>
        match s.active.find? (·.ix == i) with
        | some l => arg (valsOf 1 l.stk) 0
        | none => sl.vals.getD i 0
      let sl := { vals := vals, wmask := s.fr.mask, full := true, pts := s.fr.pts : XSlot }
      .ok (((s.setTm { s.tm with xs := s.tm.xs.set x sl }).popLanes 1).finishRegion 4)) s

/-- R180: empties a FULL slot into the active lanes. -/
def execXget (x : Fin 16) (s : State) : Host.Outcome State Fault Refusal :=
  laneStep 4 (fun s => s.withStack (.of 0 1) .none false fun s =>
    let sl := s.tm.xs.getD x XSlot.empty
    if !sl.full ∨ s.before (fun w => w == .xslot x false) then .park (.xslot x false) s
    else
      let s := (s.setTm { s.tm with xs := s.tm.xs.set x { sl with full := false } }).handOff sl.pts
      let out := fun i => if inMask sl.wmask i then sl.vals.getD i 0 else 0
      .ok ((s.replaceLanes 0 1 fun l => [Entry.plain (out l.ix)]).finishRegion 4)) s

/-! ### Barriers (R181 to R184) -/

/-- The barrier numbered `n` of a team. -/
def Team.barAt (t : Team) (n : Nat) : Barrier := t.bars.getD n Barrier.empty

/-- Replaces a barrier. -/
def Team.setBar (t : Team) (n : Nat) (b : Barrier) : Team := { t with bars := t.bars.set n b }

/-- Team group `i` while it has a live lane. -/
def Team.groupAt (t : Team) (i : Nat) : Option Group := t.groups.find? fun g => !g.child && g.gix == i

/-- Whether team group `i` has arrived: its arrivals cover its live lanes, or it has exited (R181). -/
def Team.hasArrived (t : Team) (b : Barrier) (i : Nat) : Bool :=
  match t.groupAt i with
  | some g => covers ((b.arr.lookup i).getD 0) g.liveMask
  | none => true

/-- Whether a half of a yoked team is present in the current phase (R243). -/
def Team.halfPresent (t : Team) (b : Barrier) (lo hi : Nat) : Bool :=
  let mine := (List.range (min hi b.groups)).filter fun i => decide (lo ≤ i)
  mine.any (fun i => (t.groupAt i).isSome) && mine.all fun i => !b.absent.contains i

/-- The presence bits of the conditional and the unconditional half (R242, R243). -/
def Team.presence (t : Team) (b : Barrier) : BitVec 2 :=
  let g := t.lp.team
  BitVec.ofNat 2 (2 * bit (t.halfPresent b 0 (g / 2)) + bit (t.halfPresent b (g / 2) g))

/-- The sequencer after phase `p` of barrier `n` (R231, R234): it runs on after `mwt`, and executes `marv` again. -/
def Seq.phaseOver (q : Seq) (n p : Nat) : Seq :=
  match q.st with
  | .wbar n' p' again => if n' = n ∧ p' ≤ p then (if again then { q with st := .run } else q.goTo (q.mpc + 8)) else q
  | _ => q

/-- Raises the pts of every fragment of a group. -/
def Group.raisePts (g : Group) (t : Nat) : Group := g.mapFrags fun f => { f with pts := max f.pts t }

/-- Every fragment of a group receives a hand-off. -/
def Group.receives (g : Group) (t n : Nat) : Group := g.mapFrags fun f => f.receives t n

/-- Raises the pts of a barrier's participants (R70, R181). -/
def Team.raisePts (t : Team) (b : Barrier) (p : Nat) : Team :=
  { t.mapGroups (fun g => if !g.child && decide (g.gix < b.groups) then g.raisePts p else g) with
    seq := if b.plusM then { t.seq with pts := max t.seq.pts p } else t.seq }

/-- A PHASE COMPLETES (R181, R184, R243): pts are carried, the yoke latches presence, waiters are released. -/
def Team.phaseDone (t : Team) (n : Nat) : Team :=
  let b := t.barAt n
  let here := t.presence b
  let t := t.raisePts b b.pts
  let q := if b.plusM ∧ t.lp.yoke then { t.seq with cp := here, lp := t.seq.lp &&& here } else t.seq
  let b' := { b with phase := b.phase + 1, arr := [], absent := [], seqArr := false, gangMark := false, pts := 0,
                     gangDone := if b.gangMark then b.gangDone ++ [(b.phase, b.pts)] else b.gangDone }
  { t with seq := q.phaseOver n b.phase, bars := t.bars.set n b' }

/-- Completes the phase of barrier `n` if every participant has arrived: the exit of the last live one completes a phase in which a group has
arrived, and where every participating group has exited no further phase begins (R181; DESIGN CHOICE, log entry 68). -/
def Team.checkBarrier (t : Team) (n : Nat) : Team :=
  let b := t.barAt n
  let all := (List.range b.groups).all (t.hasArrived b) && (!b.plusM || b.seqArr)
  let any := b.plusM || !b.arr.isEmpty || (List.range b.groups).any fun i => (t.groupAt i).isSome
  if all && any then t.phaseDone n else t

/-- The records of the barrier phases that have completed since the team stood as `old`, sent by the unit `engine` whose arrival or exit completed
them (R356). -/
def State.notePhases (s : State) (old : Team) (engine : Nat) (tcb : Word) : State :=
  (List.range 16).foldl (fun s n =>
    let p := (old.barAt n).phase
    if p = (s.tm.barAt n).phase then s
    else s.noteTeam engine 8 tcb (BitVec.ofNat 64 n ||| (BitVec.ofNat 64 p <<< 8))) s

/-- A fragment that stands parked when the phase of a step completes stops there, but for one whose instruction is in progress (R360) and one that
waits to issue, which is not parked (R91). -/
def Frag.stopParked (f : Frag) : Frag := { f with held := f.held || (f.wait != .none && !f.wait.inProgress && !f.wait.unissued) }

/-- A step's phase is over: its gang level is the team level, and the team stops from here on (R360). -/
def State.stepPhase (s : State) (old : Team) : State :=
  match s.stepOf s.tm with
  | some k =>
    let s := s.setTm ((List.range 16).foldl (fun t n =>
      let p := (old.barAt n).phase
      if p = (t.barAt n).phase then t else t.setBar n { t.barAt n with gangRel := p :: (t.barAt n).gangRel }) s.tm)
    if k.doneAt.isNone ∧ k.phase < (s.tm.barAt k.bar).phase then
      State.noteStop { s with stepping := some { k with doneAt := some s.seqNo }
                              tm := s.tm.mapGroups fun g => g.mapFrags Frag.stopParked }
    else s
  | none => s

/-- The participants of the barrier phases that have completed since the team stood as `old` have received a hand-off (R70, R280). -/
def State.handPhases (s : State) (old : Team) : State :=
  let done := (List.range 16).filter fun n => (old.barAt n).phase != (s.tm.barAt n).phase
  s.setTm (s.tm.mapGroups fun g =>
    if !g.child && done.any fun n => decide (g.gix < (old.barAt n).groups) then g.receives 0 s.seqNo else g)

/-- What the completion of barrier phases since the team stood as `old` brings: the hand-off, trace records, and the end of a step's
run. -/
def State.phasesBy (s : State) (old : Team) (engine : Nat) (tcb : Word) : State :=
  ((s.handPhases old).notePhases old engine tcb).stepPhase old

/-- The same where the focused group has completed them. -/
def State.phasesOver (s : State) (old : Team) : State := s.phasesBy old (laneEngine s.tm.core) s.gp.tcb

/-- Checks every barrier of a team, as an exit does (R182). -/
def Team.checkBarriers (t : Team) : Team := (List.range 16).foldl Team.checkBarrier t

/-- A fragment's arrival at a barrier (R182). -/
def Barrier.arrive (b : Barrier) (i : Nat) (f : Frag) (absent gang : Bool) : Barrier :=
  let m := (b.arr.lookup i).getD 0 ||| f.mask
  { b with arr := (i, m) :: b.arr.filter (fun a => a.1 != i)
           absent := if absent && !b.absent.contains i then i :: b.absent else b.absent
           gangMark := b.gangMark || gang
           pts := max b.pts f.pts
           last := (i, b.phase) :: b.last.filter (fun a => a.1 != i) }

/-- Whether the executing group is a participant of a barrier (R181). -/
def State.participates (s : State) (b : Barrier) : Bool := !s.gp.child && decide (s.gp.gix < b.groups)

/-- R182. -/
def execBarArrive (b : Fin 16) (absent gang : Bool) (s : State) : Host.Outcome State Fault Refusal :=
  laneStep 4 (fun s =>
    let x := s.tm.barAt b
    if !s.participates x then .ok (s.finishRegion 4)
    else if (s.fr.mask &&& (x.arr.lookup s.gp.gix).getD 0) ≠ 0 then .park (.arrive b x.phase) s
    else
      let u := s.setTm ((s.tm.setBar b (x.arrive s.gp.gix s.fr absent gang)).checkBarrier b)
      .ok ((u.phasesOver s.tm).finishRegion 4)) s

/-- R183: the phase waited for is the one in which the group's arrival mask last gained lanes; a fragment that already
waits keeps its phase. -/
def execBarWait (b : Fin 16) (gang : Bool) (s : State) : Host.Outcome State Fault Refusal :=
  laneStep 4 (fun s =>
    let x := s.tm.barAt b
    let p := match s.fr.wait with
      | .barrier _ p _ => some p
      | _ => x.last.lookup s.gp.gix
    match p with
    | none => .ok (s.finishRegion 4)
    | some p =>
      if !s.participates x ∨ x.over p gang then .ok (s.finishRegion 4) else .park (.barrier b p gang) s) s

/-- The gang level of a virtual core: its cluster's gang, or its own cluster outside any (R184, R300). -/
def gangLevel (r : LaunchRec) (vcore : Nat) : Nat :=
  let c := vcore / (r.cw * r.ch)
  if r.gang = 0 then c else c / r.gang

/-- The pts with which the team on virtual core `v` of a launch completed gang phase `p` of barrier `b`, if it has. -/
def State.gangPts (s : State) (ctx v b p : Nat) : Option Nat :=
  match s.allTeams.find? fun t => t.ctx == ctx && t.vcore == v with
  | some t => (t.barAt b).gangDone.lookup p
  | none => ((s.ctxs.getD ctx LaunchCtx.empty).gangGone.find? fun x => x.1 == v && x.2.1 == b && x.2.2.1 == p).map (·.2.2.2)

/-- R184: a phase completes at the gang level when every team of the level has completed it at the team level. -/
def execGangPhaseComplete (ctx : Fin 8) (gang : Nat) (b : Fin 16) (s : State) : Host.Outcome State Fault Refusal :=
  let k := s.ctxs.getD ctx LaunchCtx.empty
  let members := (k.map.map (·.1)).filter fun v => gangLevel k.lp v == gang
  let mine := fun (t : Team) => t.live && t.ctx == ctx.val && members.contains t.vcore
  let open' := ((s.tm :: s.teams).filter mine).flatMap fun t =>
    ((t.barAt b).gangDone.map (·.1)).filter fun p => !(t.barAt b).gangRel.contains p
  match open'.find? fun p => members.all fun v => (s.gangPts ctx v b p).isSome with
  | none => .next s
  | some p =>
    let pts := members.foldl (fun m v => max m ((s.gangPts ctx v b p).getD 0)) 0
    let free := fun (u : Team) =>
      let x := u.barAt b
      let v := (u.raisePts { x with plusM := false } pts).setBar b { x with gangRel := p :: x.gangRel }
      v.mapGroups fun g => if !g.child && decide (g.gix < x.groups) then g.receives 0 s.seqNo else g
    .next (s.mapTeams fun u => if mine u then free u else u)

end Sys2Proof.Machine
end

