-- ==== Sys2Proof/Machine/Acc.lean ====
section
/-!
DEFINITION. Accumulator slots on the lane side (R205, R206, R235, R236) and `mstart` (R207).
-/
namespace Sys2Proof.Machine

/-- ACCTOK for a slot outside the team's share (R205). -/
def State.accOut (s : State) (n : Nat) : Option LaneFault :=
  if s.tm.acc.length ≤ n then some (s.faultAll .acctok n) else none

/-- Whether the executing group holds a slot (R205). -/
def State.holdsAcc (s : State) (n : Nat) : Bool := (s.accSlot n).tok == .lane s.gp.uid

/-- The largest pts of a group's fragments (R70, R206). -/
def Group.maxPts (g : Group) : Nat := g.allFrags.foldl (fun t f => max t f.pts) 0

/-- R205, R235: takes a given slot; the group's pts rise to the hand-off (R236). -/
def execAcq (a : Fin 16) (s : State) : Host.Outcome State Fault Refusal :=
  laneStep 4 (fun s =>
    match s.accOut a with
    | some x => .fault x
    | none =>
      if s.holdsAcc a then .ok (s.finishRegion 4)
      else if (s.accSlot a).tok = .given then
        let p := (s.accSlot a).pts
        let s := s.setAcc a { s.accSlot a with tok := .lane s.gp.uid }
        .ok ((s.setGp (s.gp.receives p s.seqNo)).finishRegion 4)
      else .park (.acq a) s) s

/-- A slot goes BACK with a stamp; a sequencer waiting in WTOK for it takes it and runs on (R231, R235, R236). -/
def Team.giveBack (t : Team) (n pts : Nat) : Team :=
  let x := t.acc.getD n AccSlot.empty
  if t.seq.st = .wtok n then
    { t with acc := t.acc.set n { x with tok := .mat, pts := pts }
             seq := { t.seq with pts := max t.seq.pts pts }.goTo (t.seq.mpc + 8) }
  else { t with acc := t.acc.set n { x with tok := .back, pts := pts } }

/-- R205, R235. -/
def execRel (a : Fin 16) (s : State) : Host.Outcome State Fault Refusal :=
  laneStep 4 (fun s =>
    match s.accOut a with
    | some x => .fault x
    | none =>
      if s.holdsAcc a then .ok ((s.setTm (s.tm.giveBack a s.gp.maxPts)).finishRegion 4)
      else .fault (s.faultAll .acctok a)) s

/-- The faults of `acc.ld` and `acc.st` (R205, R214): ACCTOK, then SPACE for the lanes whose index is too large. -/
def State.accFault (s : State) (n : Nat) (k : Nat) : Option LaneFault :=
  if (s.accOut n).isSome || !s.holdsAcc n then some (s.faultAll .acctok n)
  else
    let ix := fun (l : Lane) => (arg (valsOf k l.stk) 0).toNat
    match s.active.filter fun l => decide (4096 ≤ ix l) with
    | [] => none
    | l :: ls => some { code := .space, mask := maskOf fun i => (l :: ls).any (·.ix == i), info := ix l }

/-- The test-unit name of the physical accumulator slot of a core that a slot of the focused team's share is (R230, R372; log entry 37): space 3 and
this key. -/
def State.accKey (s : State) (slot : Nat) : LineId := (3, s.tm.core * 16 + s.tm.phys.getD slot slot)

/-- R205: reads an element; a slot with an uncorrected error gives poisoned entries (R222, R371). -/
def execAccLd (a : Fin 16) (s : State) : Host.Outcome State Fault Refusal :=
  laneStep 4 (fun s => s.withStack (.of 1 1) .none true fun s =>
    match s.accFault a 1 with
    | some x => .fault x
    | none =>
      let x := s.accSlot a
      let key := s.accKey a
      if s.underTest key then .park (.presence [key]) s
      else
        let pois := if x.bad then some a.val else none
        .ok ((s.replaceLanes 1 1 fun l =>
          [{ Entry.plain (zx32 (x.tile.getD (arg (valsOf 1 l.stk) 0).toNat 0)) with pois := pois }]).finish 4)) s

/-- R205: writes an element, the lanes in ascending index. -/
def execAccSt (a : Fin 16) (s : State) : Host.Outcome State Fault Refusal :=
  laneStep 4 (fun s => s.withStack (.of 2 0) .none true fun s =>
    match s.accFault a 2 with
    | some x => .fault x
    | none =>
      let x := s.accSlot a
      if s.underTest (s.accKey a) then .park (.presence [s.accKey a]) s
      else
      let tile := s.active.foldl (fun t l =>
        let ws := valsOf 2 l.stk
        t.set (arg ws 0).toNat (lo32 (arg ws 1))) x.tile
      .ok (((s.setAcc a { x with tile := tile }).popLanes 2).finishRegion 4)) s

/-- R207: starts a halted sequencer; requests are served in the order in which they issue. -/
def execMstart (off : BitVec 14) (s : State) : Host.Outcome State Fault Refusal :=
  laneStep 4 (fun s =>
    if s.seq.st ≠ .halted ∨ s.before (fun w => w == .mstart) then .park .mstart s
    else
      let target := (s.fr.pc >>> 3 <<< 3) + (off.signExtend 64 <<< 3)
      .ok ((s.setSeq { s.seq with st := .run, mpc := target }).finishRegion 4)) s

end Sys2Proof.Machine
end

