-- ==== Sys2Proof/Machine/Transcend.lean ====
section
/-!
DEFINITION. The transcendental functions of R144: exp2, log2, sin, cos and tanh in f32, correctly rounded. A result is
bounded from both sides in fixed point; where both bounds round to one code that code is the correctly rounded one, and
where they do not the result is a free value (log entry 8).
-/
namespace Sys2Proof.Machine

/-- Fraction bits of the fixed-point values below. -/
def fxP : Nat := 700
/-- One. -/
def fxOne : Int := (2 ^ 700 : Nat)
/-- Half the width of the bounds, in units of 2^-700: far above the truncation errors of the series. -/
def fxErr : Int := (2 ^ 40 : Nat)
/-- Fixed-point product. -/
def fxMul (a b : Int) : Int := a * b / (2 ^ 700 : Nat)

/-- The series of exp: term k+1 is term k times x/(k+1). -/
def expLoop (x : Int) : Nat → Nat → Int → Int → Int
  | 0, _, _, acc => acc
  | n + 1, k, t, acc => expLoop x n (k + 1) (fxMul t x / (k + 1 : Nat)) (acc + t)
/-- exp x for |x| below 1. -/
def fxExp (x : Int) : Int := expLoop x 150 0 fxOne 0

/-- The alternating series of sin (from k = 1, t = x) and cos (from k = 0, t = 1). -/
def trigLoop (x2 : Int) : Nat → Nat → Int → Int → Int
  | 0, _, _, acc => acc
  | n + 1, k, t, acc => trigLoop x2 n (k + 2) (-(fxMul t x2 / ((k + 1) * (k + 2) : Nat))) (acc + t)
/-- sin r for |r| at most pi/4. -/
def fxSin (r : Int) : Int := trigLoop (fxMul r r) 80 1 r 0
/-- cos r for |r| at most pi/4. -/
def fxCos (r : Int) : Int := trigLoop (fxMul r r) 80 0 fxOne 0

/-- The odd series z + z^3/3 + ..., with alternating signs if `alt`, at `b` fraction bits. -/
def oddLoop (b : Nat) (alt : Bool) (z2 : Int) : Nat → Nat → Int → Int → Int
  | 0, _, _, acc => acc
  | n + 1, k, p, acc =>
    oddLoop b alt z2 n (k + 2) ((if alt then -1 else 1) * (p * z2 / (2 ^ b : Nat))) (acc + p / (k : Nat))
/-- atanh z at 700 fraction bits, for |z| at most 1/3. -/
def fxAtanh (z : Int) : Int := oddLoop 700 false (fxMul z z) 240 1 z 0
/-- ln 2. -/
def fxLn2 : Int := 2 * fxAtanh (fxOne / 3)
/-- atan(1/n) at 900 fraction bits. -/
def atanInv (n : Nat) : Int :=
  oddLoop 900 true (((2 ^ 900 : Nat) : Int) / (n * n : Nat)) 420 1 (((2 ^ 900 : Nat) : Int) / (n : Nat)) 0
/-- pi at 900 fraction bits, by Machin's formula. -/
def piWide : Int := 16 * atanInv 5 - 4 * atanInv 239

/-- The f32 code of a value known to lie within `fxErr` of v*2^(e-700), where it is inexact: code and flags. -/
def fxRound (op : Nat) (x : Half) (v : Int) (e : Int) : Half × Flags :=
  let lo := v - fxErr
  let hi := v + fxErr
  if lo < 0 ∧ 0 < hi then Config.undecided op x
  else
    let neg := decide (v < 0)
    let a := roundTo fmtF32 .rne 0 neg lo.natAbs (e - 700) true
    let b := roundTo fmtF32 .rne 0 neg hi.natAbs (e - 700) true
    if a = b then (BitVec.ofNat 32 a.1, a.2) else Config.undecided op x

/-- The f32 code of a pair of code and flags. -/
def code32 (r : Nat × Flags) : Half × Flags := (BitVec.ofNat 32 r.1, r.2)

/-- A finite value in fixed point: m*2^e at 700 fraction bits, exact for every f32 below 2^128. -/
def fxOf (neg : Bool) (m : Nat) (e : Int) : Int := signedM neg (shiftBy m (e + 700))

/-- 2^x (R144). -/
def exp2F (x : Half) : Half × Flags :=
  match decodeF fmtF32 x.toNat with
  | .nan s => code32 (fmtF32.nanCode, flagIf s fNV)
  | .inf n => code32 (if n then 0 else fmtF32.infCode, 0)
  | .fin n m e =>
    if finCmp n m e false 128 0 ≠ .lt then code32 (overflowCode fmtF32 .rne false, fOF ||| fNX)
    else if finCmp n m e true 160 0 = .lt then code32 (0, fUF ||| fNX)
    else
      let v := fxOf n m e
      let k := v / fxOne
      let f := v - k * fxOne
      if f = 0 then code32 (roundTo fmtF32 .rne 0 false 1 k false)
      else fxRound 0x23 x (fxExp (fxMul f fxLn2)) k

/-- log2 x (R144). -/
def log2F (x : Half) : Half × Flags :=
  match decodeF fmtF32 x.toNat with
  | .nan s => code32 (fmtF32.nanCode, flagIf s fNV)
  | .inf n => code32 (if n then invalidF fmtF32 else (fmtF32.infCode, 0))
  | .fin n m e =>
    if m = 0 then code32 (infCodeOf fmtF32 true, fDZ)
    else if n then code32 (invalidF fmtF32)
    else
      let l := Nat.log2 m
      let k : Int := (l : Int) + e
      if m = 2 ^ l then code32 (roundTo fmtF32 .rne 0 (decide (k < 0)) k.natAbs 0 false)
      else
        let z := ((m - 2 ^ l : Nat) : Int) * fxOne / (m + 2 ^ l : Nat)
        fxRound 0x24 x (k * fxOne + 2 * fxAtanh z * fxOne / fxLn2) 0

/-- The quadrant of x and the rest x - k*pi/2 at 700 fraction bits. -/
def trigReduce (n : Bool) (m : Nat) (e : Int) : Int × Int :=
  let v := signedM n (shiftBy m (e + 900))
  let k := (2 * v + piWide / 2) / piWide
  (k, (v - k * piWide / 2) / (2 ^ 200 : Nat))

/-- sin x (R144), radians. -/
def sinF (x : Half) : Half × Flags :=
  match decodeF fmtF32 x.toNat with
  | .nan s => code32 (fmtF32.nanCode, flagIf s fNV)
  | .inf _ => code32 (invalidF fmtF32)
  | .fin n m e =>
    if m = 0 then (x, 0)
    else
      let (k, r) := trigReduce n m e
      let v := match (k % 4).toNat with
        | 0 => fxSin r | 1 => fxCos r | 2 => -fxSin r | _ => -fxCos r
      fxRound 0x25 x v 0

/-- cos x (R144), radians. -/
def cosF (x : Half) : Half × Flags :=
  match decodeF fmtF32 x.toNat with
  | .nan s => code32 (fmtF32.nanCode, flagIf s fNV)
  | .inf _ => code32 (invalidF fmtF32)
  | .fin n m e =>
    if m = 0 then (0x3F800000, 0)
    else
      let (k, r) := trigReduce n m e
      let v := match (k % 4).toNat with
        | 0 => fxCos r | 1 => -fxSin r | 2 => -fxCos r | _ => fxSin r
      fxRound 0x26 x v 0

/-- tanh x (R144). -/
def tanhF (x : Half) : Half × Flags :=
  match decodeF fmtF32 x.toNat with
  | .nan s => code32 (fmtF32.nanCode, flagIf s fNV)
  | .inf n => code32 (if n then fmtF32.signW + 0x3F800000 else 0x3F800000, 0)
  | .fin n m e =>
    if m = 0 then (x, 0)
    else if finCmp false m e false 10 0 ≠ .lt then
      code32 (if n then fmtF32.signW + 0x3F800000 else 0x3F800000, fNX)
    else
      -- q = exp(-2|x|), from exp(-2|x|/32) by five squarings
      let q0 := fxExp (-(fxOf false m e) / 16)
      let q := [(), (), (), (), ()].foldl (fun a _ => fxMul a a) q0
      let t := (fxOne - q) * fxOne / (fxOne + q)
      fxRound 0x27 x (if n then -t else t) 0

end Sys2Proof.Machine
end

