-- ==== Sys2Proof/Machine/Arith.lean ====
section
/-!
DEFINITION. Integer and floating arithmetic (R138 to R144).
-/
namespace Sys2Proof.Machine

/-- Operand `k` of a list of decoded values. -/
def fv (vs : List FVal) (k : Nat) : FVal := vs.getD k (.fin false 0 0)

/-- An integer operation of two operands, exact and then narrowed (R138). -/
def intOp2 (ty : Ty) (md : Rm) (f : Int → Int → Int) (ws : List Word) : List Word :=
  [narrow ty md (f (intOf ty (arg ws 0)) (intOf ty (arg ws 1)))]

/-- An operation that is `fi` on integer types and `ff` on float types (R138, R141). -/
def arith2 (md : Rm) (ty : Ty) (fi : Int → Int → Int) (ff : Fmt → Rm → Nat → FVal → FVal → Nat × Flags) (drm : Nat) (gen : Half)
    (ws : List Word) : NumOut :=
  if ty.isFloat then floatOp ty md (fun fmt m u vs => ff fmt m u (fv vs 0) (fv vs 1)) drm gen ws
  else NumOut.pure (intOp2 ty md fi ws) gen

/-- R138, R141. -/
def execAdd (md : Rm) (ty : Ty) (d : Bool) (s : State) : Host.Outcome State Fault Refusal :=
  numStep 2 d 2 1 (arith2 md ty (fun a b => a + b) addF) s

/-- R138, R141. -/
def execSub (md : Rm) (ty : Ty) (d : Bool) (s : State) : Host.Outcome State Fault Refusal :=
  numStep 2 d 2 1 (arith2 md ty (fun a b => a - b) fun fmt m u a b => addF fmt m u a b.negate) s

/-- R138, R141. -/
def execMul (md : Rm) (ty : Ty) (d : Bool) (s : State) : Host.Outcome State Fault Refusal :=
  numStep 2 d 2 1 (arith2 md ty (fun a b => a * b) mulF) s

/-- R139: the high half of the exact product. -/
def execMulhi (ty : Ty) (d : Bool) (s : State) : Host.Outcome State Fault Refusal :=
  pureStep 2 d 2 1 (intOp2 ty .rne fun a b => a * b / (2 ^ widthOf ty : Nat)) s

/-- R139: the quotient truncated toward zero; all ones for a zero divisor. -/
def intDiv (a b : Int) : Int := if b = 0 then -1 else a.tdiv b

/-- R139: the remainder with the sign of `a`; `a` for a zero divisor. -/
def intRem (a b : Int) : Int := if b = 0 then a else a.tmod b

/-- R139, R141. -/
def execDiv (md : Rm) (ty : Ty) (d : Bool) (s : State) : Host.Outcome State Fault Refusal :=
  numStep 2 d 2 1 (arith2 md ty intDiv divF) s

/-- R139. -/
def execRem (ty : Ty) (d : Bool) (s : State) : Host.Outcome State Fault Refusal :=
  pureStep 2 d 2 1 (intOp2 ty .rne intRem) s

/-- R141: a*b + c with one rounding. -/
def execFma (md : Rm) (ty : Ty) (d : Bool) (s : State) : Host.Outcome State Fault Refusal :=
  numStep 2 d 3 1 (floatOp ty md fun fmt m u vs => fmaF fmt m u (fv vs 0) (fv vs 1) (fv vs 2)) s

/-- R141. -/
def execSqrt (md : Rm) (ty : Ty) (d : Bool) (s : State) : Host.Outcome State Fault Refusal :=
  numStep 2 d 1 1 (floatOp ty md fun fmt m u vs => sqrtF fmt m u (fv vs 0)) s

/-- A sign operation: on integers narrowed, on float elements bit by bit (R140, R143). -/
def signOp (md : Rm) (ty : Ty) (fi : Int → Int) (fb : Fmt → Nat → Nat) (ws : List Word) : List Word :=
  if ty.isFloat then bitsOp ty (fun fmt vs => fb fmt (vs.getD 0 0)) ws
  else [narrow ty md (fi (intOf ty (arg ws 0)))]

/-- R140, R143. -/
def execNeg (md : Rm) (ty : Ty) (d : Bool) (s : State) : Host.Outcome State Fault Refusal :=
  pureStep 2 d 1 1 (signOp md ty (fun a => -a) fun fmt v => if v < fmt.signW then v + fmt.signW else v - fmt.signW) s

/-- R140, R143. -/
def execAbs (md : Rm) (ty : Ty) (d : Bool) (s : State) : Host.Outcome State Fault Refusal :=
  pureStep 2 d 1 1 (signOp md ty (fun a => (a.natAbs : Int)) fun fmt v => v % fmt.signW) s

/-- R143: the magnitude of `a` with the sign of `b`. -/
def execCopysign (ty : Ty) (d : Bool) (s : State) : Host.Outcome State Fault Refusal :=
  pureStep 2 d 2 1 (bitsOp ty fun fmt vs => vs.getD 0 0 % fmt.signW + vs.getD 1 0 / fmt.signW * fmt.signW) s

/-- A choice among float operands: its code, and NV for a signalling operand (R142). -/
def chosenF (fmt : Fmt) (vs : List FVal) (v : FVal) : Nat × Flags := (encodeF fmt v, flagIf (anySnan vs) fNV)

/-- R140, R142. -/
def execMin (ty : Ty) (d : Bool) (s : State) : Host.Outcome State Fault Refusal :=
  numStep 2 d 2 1 (arith2 .rne ty min fun fmt _ _ a b => chosenF fmt [a, b] (minF a b)) s

/-- R140, R142. -/
def execMax (ty : Ty) (d : Bool) (s : State) : Host.Outcome State Fault Refusal :=
  numStep 2 d 2 1 (arith2 .rne ty max fun fmt _ _ a b => chosenF fmt [a, b] (maxF a b)) s

/-- R140, R142: min(max(x, lo), hi). -/
def execClamp (ty : Ty) (d : Bool) (s : State) : Host.Outcome State Fault Refusal :=
  numStep 2 d 3 1 (fun drm gen ws =>
    if ty.isFloat then
      floatOp ty .rne (fun fmt _ _ vs => chosenF fmt vs (minF (maxF (fv vs 0) (fv vs 1)) (fv vs 2))) drm gen ws
    else NumOut.pure [narrow ty .rne (min (max (intOf ty (arg ws 0)) (intOf ty (arg ws 1))) (intOf ty (arg ws 2)))] gen) s

/-- R143: toward minus infinity. -/
def execFloor (ty : Ty) (d : Bool) (s : State) : Host.Outcome State Fault Refusal :=
  numStep 2 d 1 1 (floatOp ty .rne fun fmt _ u vs => integralF fmt .rdn u false (fv vs 0)) s

/-- R143: toward plus infinity. -/
def execCeil (ty : Ty) (d : Bool) (s : State) : Host.Outcome State Fault Refusal :=
  numStep 2 d 1 1 (floatOp ty .rne fun fmt _ u vs => integralF fmt .rup u false (fv vs 0)) s

/-- R143: toward zero. -/
def execTrunc (ty : Ty) (d : Bool) (s : State) : Host.Outcome State Fault Refusal :=
  numStep 2 d 1 1 (floatOp ty .rne fun fmt _ u vs => integralF fmt .rtz u false (fv vs 0)) s

/-- R143: by MD, with NX. -/
def execRint (md : Rm) (ty : Ty) (d : Bool) (s : State) : Host.Outcome State Fault Refusal :=
  numStep 2 d 1 1 (floatOp ty md fun fmt m u vs => integralF fmt m u true (fv vs 0)) s

/-- A function of one f32 (R144). -/
def f32Op (f : Half → Half × Flags) (_drm : Nat) (gen : Half) (ws : List Word) : NumOut :=
  { vals := [zx32 (f (lo32 (arg ws 0))).1], fl := (f (lo32 (arg ws 0))).2, gen := gen }

/-- R144. -/
def execRsqrt (d : Bool) (s : State) : Host.Outcome State Fault Refusal :=
  numStep 2 d 1 1 (f32Op fun x => code32 (rsqrtF fmtF32 (decodeF fmtF32 x.toNat))) s

/-- R144. -/
def execRcp (d : Bool) (s : State) : Host.Outcome State Fault Refusal :=
  numStep 2 d 1 1 (f32Op fun x => code32 (rcpF fmtF32 (decodeF fmtF32 x.toNat))) s

/-- R144. -/
def execExp2 (d : Bool) (s : State) : Host.Outcome State Fault Refusal := numStep 2 d 1 1 (f32Op exp2F) s

/-- R144. -/
def execLog2 (d : Bool) (s : State) : Host.Outcome State Fault Refusal := numStep 2 d 1 1 (f32Op log2F) s

/-- R144. -/
def execSin (d : Bool) (s : State) : Host.Outcome State Fault Refusal := numStep 2 d 1 1 (f32Op sinF) s

/-- R144. -/
def execCos (d : Bool) (s : State) : Host.Outcome State Fault Refusal := numStep 2 d 1 1 (f32Op cosF) s

/-- R144. -/
def execTanh (d : Bool) (s : State) : Host.Outcome State Fault Refusal := numStep 2 d 1 1 (f32Op tanhF) s

end Sys2Proof.Machine
end

