-- ==== Sys2Proof/Machine/Sums.lean ====
section
/-!
DEFINITION. Exact sums of products (R55 to R57, R151) and structure-constant tables (R239).
-/
namespace Sys2Proof.Machine

/-- The exact product; infinity times zero is an invalid NaN. -/
def mulV (a b : FVal) : FVal :=
  match a, b with
  | .nan x, .nan y => .nan (x || y)
  | .nan x, _ => .nan x
  | _, .nan y => .nan y
  | .fin n m e, .fin n' m' e' => .fin (n != n') (m * m') (e + e')
  | _, _ => if a.isZero || b.isZero then .nan true else .inf (a.sign != b.sign)

/-- The exact sum of terms: a NaN for a NaN term or infinities of both signs (an invalid one for an invalid term or the
latter); an exact zero is +0 unless every term is -0 (R55, R56, R151). -/
def sumV (vs : List FVal) : FVal :=
  let pos := vs.any fun v => v == .inf false
  let neg := vs.any fun v => v == .inf true
  if anyNan vs then .nan (anySnan vs || (pos && neg))
  else if pos && neg then .nan true
  else if pos then .inf false
  else if neg then .inf true
  else
    let (z, e) := vs.foldl (fun a v => match v with
      | .fin n m x => if m = 0 then a else exactAdd a.1 a.2 (signedM n m) x
      | _ => a) ((0 : Int), (0 : Int))
    if z = 0 then .fin (!vs.isEmpty && vs.all fun v => v.sign) 0 0 else .fin (decide (z < 0)) z.natAbs e

/-- An exact value rounded to binary32; an infinite sum stays infinite. -/
def roundSum (md : Rm) (u : Nat) (v : FVal) : Nat × Flags :=
  match v with
  | .nan s => (fmtF32.nanCode, flagIf s fNV)
  | .inf n => (infCodeOf fmtF32 n, 0)
  | .fin n m e => roundTo fmtF32 md u n m e false

/-- The product byte for e_i*e_j (R239). -/
def tableByte (bytes : List Byte) (i j : Nat) : Nat := (bytes.getD (8 * i + j) 0).toNat

/-- The sign of a product: 0 adds no term (R239). -/
def tableSign (b : Nat) : Int := match field b 7 6 with
  | 1 => 1
  | 3 => -1
  | _ => 0

/-- The conjugation sign bit of component `c` (R239). -/
def conjBit (bytes : List Byte) (c : Nat) : Bool := (bytes.getD 64 0).getLsbD c

/-- The first failing product byte of a table used with dimension `d` (R151). -/
def tableBad (bytes : List Byte) (d : Nat) : Option Nat :=
  ((List.range d).flatMap fun i => (List.range d).map fun j => 8 * i + j).find? fun k =>
    let b := (bytes.getD k 0).toNat
    field b 7 6 == 2 || decide (d ≤ field b 2 0)

/-- The value with its sign changed where `z` is negative. -/
def signedV (z : Int) (v : FVal) : FVal := if z < 0 then v.negate else v

/-- The terms of component `c` of the product of two elements of dimension `d` (R57, R153, R154): with `rev`, each is b*a
under the entry for (j, i). A NaN component that enters no term leaves the sum as its terms give it (R151; DESIGN CHOICE, log entry 68). -/
def algTerms (bytes : List Byte) (d : Nat) (rev : Bool) (c : Nat) (a b : Nat → FVal) : List FVal :=
  (List.range d).flatMap fun i => (List.range d).filterMap fun j =>
    let t := if rev then tableByte bytes j i else tableByte bytes i j
    if tableSign t ≠ 0 ∧ field t 2 0 = c then some (signedV (tableSign t) (mulV (a i) (b j))) else none

end Sys2Proof.Machine
end

