-- ==== Sys2Proof/Machine/Algebra.lean ====
section
/-!
DEFINITION. Algebra operations of the lanes (R151 to R154).
-/
namespace Sys2Proof.Machine

/-- The number of components. -/
def dimOf : Dim → Nat
  | .d2 => 2
  | .d4 => 4
  | .d8 => 8

/-- Component `k` of a list of operands: the f32 in its low half (R151). -/
def comp (ws : List Word) (k : Nat) : FVal := decodeF fmtF32 (lo32 (arg ws k)).toNat

/-- An algebra operation that pops `n` and pushes `m` entries; ALGT where table `t` cannot serve dimension `dim` (R151, R277). -/
def algStep (len : Nat) (d : Bool) (t : Nat) (dim n m : Nat) (f : List Byte → Nat → Half → List Word → NumOut) (s : State) :
    Host.Outcome State Fault Refusal :=
  laneStep len (fun s =>
    let u := Use.of n m
    s.withStack (if d then .none else u) (if d then u else .none) true fun s =>
      let tab := (s.tm.tabs.getD t AlgTable.empty).bytes
      match tableBad tab dim with
      | some k => .fault (s.faultAll .algt (t + k * 2 ^ 8))
      | none => .ok ((s.num d n m (f tab)).finish len)) s

/-- R152: exact. -/
def conjOut (dim : Nat) (tab : List Byte) (_drm : Nat) (gen : Half) (ws : List Word) : NumOut :=
  let vs := (List.range dim).map fun c =>
    roundSum .rne 0 (if conjBit tab c then (comp ws c).negate else comp ws c)
  { vals := vs.map fun v => BitVec.ofNat 64 v.1, fl := vs.foldl (fun a v => a ||| v.2) 0, gen := gen }

/-- R153: component 0 of x*conj(x). -/
def normOut (dim : Nat) (tab : List Byte) (_drm : Nat) (gen : Half) (ws : List Word) : NumOut :=
  let r := roundSum .rne 0 (sumV (algTerms tab dim false 0 (comp ws)
    fun j => if conjBit tab j then (comp ws j).negate else comp ws j))
  { vals := [BitVec.ofNat 64 r.1], fl := r.2, gen := gen }

/-- R154: the components in ascending order, each rounded once. -/
def amulOut (md : Rm) (dim : Nat) (rev : Bool) (tab : List Byte) (drm : Nat) (gen : Half) (ws : List Word) : NumOut :=
  let mode := resolveMode md drm
  let (vs, fl, g) := roundElems mode
    (fun u c => roundSum mode u (sumV (algTerms tab dim rev c (comp ws) fun j => comp ws (dim + j)))) dim 0 gen
  { vals := vs.map fun v => BitVec.ofNat 64 v, fl := fl, gen := g }

/-- R152. -/
def execConj (dim : Dim) (t : Fin 2) (d : Bool) (s : State) : Host.Outcome State Fault Refusal :=
  algStep 2 d t.val (dimOf dim) (dimOf dim) (dimOf dim) (conjOut (dimOf dim)) s

/-- R153. -/
def execNorm (dim : Dim) (t : Fin 2) (d : Bool) (s : State) : Host.Outcome State Fault Refusal :=
  algStep 2 d t.val (dimOf dim) (dimOf dim) 1 (normOut (dimOf dim)) s

/-- R154. -/
def execAmul (md : Rm) (dim : Dim) (t : Fin 4) (rev : Bool) (d : Bool) (s : State) : Host.Outcome State Fault Refusal :=
  algStep 6 d t.val (dimOf dim) (2 * dimOf dim) (dimOf dim) (amulOut md (dimOf dim) rev) s

end Sys2Proof.Machine
end

