-- ==== Sys2Proof/Machine/Bits.lean ====
section
/-!
DEFINITION. Bit operations (R145, R146).
-/
namespace Sys2Proof.Machine

/-- A bit operation on the `w`-bit operands of a type. -/
def bitStep (ty : Ty) (d : Bool) (n : Nat) (f : Nat → (Nat → Nat) → Nat) (s : State) : Host.Outcome State Fault Refusal :=
  pureStep 2 d n 1 (fun ws => [place ty (f (widthOf ty) fun k => operandBits ty (arg ws k))]) s

/-- R145. -/
def execAnd (ty : Ty) (d : Bool) (s : State) : Host.Outcome State Fault Refusal := bitStep ty d 2 (fun _ x => x 0 &&& x 1) s

/-- R145. -/
def execOr (ty : Ty) (d : Bool) (s : State) : Host.Outcome State Fault Refusal := bitStep ty d 2 (fun _ x => x 0 ||| x 1) s

/-- R145. -/
def execXor (ty : Ty) (d : Bool) (s : State) : Host.Outcome State Fault Refusal := bitStep ty d 2 (fun _ x => x 0 ^^^ x 1) s

/-- R145. -/
def execNot (ty : Ty) (d : Bool) (s : State) : Host.Outcome State Fault Refusal :=
  bitStep ty d 1 (fun w x => 2 ^ w - 1 - x 0) s

/-- R145: logical left shift by n mod w. -/
def execShl (ty : Ty) (d : Bool) (s : State) : Host.Outcome State Fault Refusal :=
  bitStep ty d 2 (fun w x => x 0 * 2 ^ (x 1 % w) % 2 ^ w) s

/-- R145: logical right shift by n mod w. -/
def execShr (ty : Ty) (d : Bool) (s : State) : Host.Outcome State Fault Refusal :=
  bitStep ty d 2 (fun w x => x 0 / 2 ^ (x 1 % w)) s

/-- R145: arithmetic right shift by n mod w. -/
def execSar (ty : Ty) (d : Bool) (s : State) : Host.Outcome State Fault Refusal :=
  bitStep ty d 2 (fun w x => (toSigned w (x 0) / (2 ^ (x 1 % w) : Nat) % (2 ^ w : Nat)).toNat) s

/-- R145: left rotation by n mod w. -/
def execRotl (ty : Ty) (d : Bool) (s : State) : Host.Outcome State Fault Refusal :=
  bitStep ty d 2 (fun w x => x 0 * 2 ^ (x 1 % w) % 2 ^ w + x 0 / 2 ^ (w - x 1 % w)) s

/-- R145: the number of one bits. -/
def execPopc (ty : Ty) (d : Bool) (s : State) : Host.Outcome State Fault Refusal :=
  bitStep ty d 1 (fun w x => (List.range w).countP fun i => (x 0).testBit i) s

/-- R145: leading zeros. -/
def execClz (ty : Ty) (d : Bool) (s : State) : Host.Outcome State Fault Refusal :=
  bitStep ty d 1 (fun w x => if x 0 = 0 then w else w - 1 - Nat.log2 (x 0)) s

/-- R145: trailing zeros. -/
def execCtz (ty : Ty) (d : Bool) (s : State) : Host.Outcome State Fault Refusal :=
  bitStep ty d 1 (fun w x => ((List.range w).find? fun i => (x 0).testBit i).getD w) s

/-- The width of a bit field that starts at `p` (R146). -/
def fieldLen (w p len : Nat) : Nat := min (len % 128) (w - p)

/-- R146: the zero-extended field. -/
def execBfx (ty : Ty) (d : Bool) (s : State) : Host.Outcome State Fault Refusal :=
  bitStep ty d 3 (fun w x => x 0 / 2 ^ (x 1 % w) % 2 ^ fieldLen w (x 1 % w) (x 2)) s

/-- R146: the field replaced. -/
def execBfi (ty : Ty) (d : Bool) (s : State) : Host.Outcome State Fault Refusal :=
  bitStep ty d 4 (fun w x =>
    let p := x 2 % w
    let l := fieldLen w p (x 3)
    x 0 - x 0 / 2 ^ p % 2 ^ l * 2 ^ p + x 1 % 2 ^ l * 2 ^ p) s

end Sys2Proof.Machine
end

