-- ==== Sys2Proof/Machine/Transfer.lean ====
section
/-!
DEFINITION. `vset` (R128), the direct copies `tld`, `tst` and `xfer` (R283 to R286), and the events of the engines that move
tiles (R71, R75).
-/
namespace Sys2Proof.Machine

/-- R128: writes a word of a view register. -/
def execVset (d : Bool) (f : Fin 15) (v : Fin 16) (imm : BitVec 32) (s : State) : Host.Outcome State Fault Refusal :=
  laneStep 6 (fun s => s.withStack .none (if d then .of 1 0 else .none) true fun s =>
    let x := if d then lo32 (arg (s.scalarArgs 1) 0) else imm
    let s := if d then s.replaceScalar 1 [] else s
    let e : VSet := { id := s.seqNo, v := v, f := f, val := x, who := s.gp.uid, mask := s.fr.mask }
    .ok ((s.setTm { s.tm with views := s.tm.views.modify v fun w => w.set f x, vsets := s.tm.vsets ++ [e] }).finish 6)) s

/-- Whether the executing fragment sees a `vset`: its own, or one before the last hand-off that it received (R280;
DEDUCED, log entry 76). -/
def State.seesVset (s : State) (e : VSet) : Bool := (e.who == s.gp.uid && (e.mask &&& s.fr.mask) != 0) || decide (e.id ≤ s.fr.seen)

/-- The image of a view register as a transfer instruction of the executing fragment reads it when it issues (R280). -/
def State.viewImage (s : State) (v : Nat) : List Half :=
  (s.tm.vsets.filter fun e => e.v == v && s.seesVset e).foldl (fun w e => w.set e.f e.val) (s.tm.lp.views.getD v [])

/-- A direct copy (R283, R284): its kind, its view, and the packed range's SPACE code and address. -/
structure Copy where
  kind : OpKind
  v    : Nat
  psp  : Nat
  addr : Nat

/-- The checks of the scalar operands: SPACE, then ALIGN (R284). -/
def State.operandFault (s : State) (c : Copy) (len : Nat) : Option Bad :=
  let unit := if c.kind = .tst ∨ c.psp = 0 ∨ c.psp = 4 then 16 else 128
  if !s.tm.inSpace c.psp c.addr len then some (.space, c.addr)
  else match (packedGlobals c.psp c.addr len).find? (s.hole s.ctx.fn) with
    | some a => some (.space, a)
    | none => if c.addr % unit ≠ 0 then some (.align, c.addr) else none

/-- The bytes of the packed range: with its padding where it is a destination in c or w (R284). -/
def Copy.span (c : Copy) (len : Nat) : Nat :=
  if c.kind.loads && (c.psp == 2 || c.psp == 3) then (len + 127) / 128 * 128 else len

/-- A copy at issue (R283): checks, translation, registration and the count, in that order. -/
def copyBody (i : Instr) (pops : Nat) (mk : State → Copy) (s : State) : Res :=
  s.withStack .none (.of pops 0) true fun s =>
    let c := mk s
    let img := s.viewImage c.v
    let v := viewOf img
    let fault := (s.viewFault v (wordOf i) [0]).orElse fun _ => s.operandFault c v.tileBytes
    match fault with
    | some b => .fault (s.faultAll b.1 b.2)
    | none =>
      let va := v.globals [0]
      let pk := packedGlobals c.psp c.addr v.tileBytes
      match if c.kind.loads then s.checkPages s.tm va pk else s.checkPages s.tm pk va with
      | .miss a => .park (.page a) (s.awaitPage i)
      | .bad b => .fault (s.faultAll b.1 b.2)
      | .ok =>
        let vs := s.viewSpans s.tm v 0
        let ps := s.packedSpans s.tm c.psp c.addr (c.span v.tileBytes)
        let o : EngineOp :=
          { id := s.seqNo, kind := c.kind, team := s.teamRef, who := s.gp.uid, cluster := s.tm.cluster, home := s.tm.home,
            mask := s.fr.mask, pts := s.fr.pts, view := img, tile := 0, psp := c.psp, paddr := c.addr,
            src := if c.kind.loads then vs else ps, dst := if c.kind.loads then ps else vs, waiting := false, absent := [],
            ring := 0, slot := 0, session := 0, joined := false, result := none,
            unit := false, got := false }
        if 32 ≤ s.tm.cpBusy ∨ !s.tablesFit o then .park (.stall o.allEntries) s
        else .ok ((((s.register o).countOp .cp).replaceScalar pops []).finishRegion 4)

/-- R284: tile 0 of a view into the scratchpad. -/
def execTld (v : Fin 16) (s : State) : Host.Outcome State Fault Refusal :=
  laneStep 4 (copyBody (.tld v) 1 fun s => { kind := .tld, v := v, psp := 2, addr := (arg (s.scalarArgs 1) 0).toNat }) s

/-- R284: a packed tile in the scratchpad to tile 0 of a view. -/
def execTst (v : Fin 16) (s : State) : Host.Outcome State Fault Refusal :=
  laneStep 4 (copyBody (.tst v) 1 fun s => { kind := .tst, v := v, psp := 2, addr := (arg (s.scalarArgs 1) 0).toNat }) s

/-- R284: tile 0 of a view to an address of a space. -/
def execXfer (v : Fin 16) (s : State) : Host.Outcome State Fault Refusal :=
  laneStep 4 (copyBody (.xfer v) 2 fun s =>
    let ws := s.scalarArgs 2
    { kind := .xfer, v := v, psp := (arg ws 1).toNat, addr := (arg ws 0).toNat }) s

/-- R75, R285: an operation that waited in the engine starts. -/
def execEngineOpStart (op : Nat) (s : State) : Host.Outcome State Fault Refusal :=
  match s.opById op with
  | some o =>
    if s.opBlocked o || (o.unit && !o.got) then .next s
    else .next { s with ops := s.ops.map fun e => if e.id = op then { e with waiting := false } else e }
  | none => .next s

/-- R71, R74: a direct copy completes as one event. -/
def execEngineOpComplete (op : Nat) (s : State) : Host.Outcome State Fault Refusal :=
  match s.opById op with
  | some o =>
    if (o.kind = .tld ∨ o.kind = .tst ∨ o.kind = .xfer) ∧ !o.waiting ∧ !s.opBlocked o then
      let r := s.moveTile o
      .next (r.1.opCounted o r.2)
    else .next s
  | none => .next s

end Sys2Proof.Machine
end

