-- ==== Sys2Proof/Machine/Rings.lean ====
section
/-!
DEFINITION. Rings (R287 to R297): the instructions of lanes, and the events of subscriptions and drains.
-/
namespace Sys2Proof.Machine

/-! ### The ring's own transitions -/

/-- `%finfo` of RINGST (R297). -/
def ringInfo (q reason slot : Nat) : Nat := q + reason * 2 ^ 4 + slot * 2 ^ 8

/-- RINGST for the executing fragment. -/
def State.ringst (s : State) (q : Nat) (reason slot : Nat) : Res := .fault (s.faultAll .ringst (ringInfo q reason (slot % 256)))

/-- The ring numbered `q` of a team. -/
def Team.ringAt (t : Team) (q : Nat) : Ring := t.rings.getD q Ring.empty

/-- Replaces a ring. -/
def Team.setRing (t : Team) (q : Nat) (r : Ring) : Team := { t with rings := t.rings.set q r }

/-- Replaces a ring of the focused team. -/
def State.setRing (s : State) (q : Nat) (r : Ring) : State := s.setTm (s.tm.setRing q r)

/-- The FREE slot of lowest index (R288). -/
def Ring.freeSlot (r : Ring) : Option Nat := (List.range r.slots).find? fun i => r.st.getD i .full == .free

/-- Changes a slot's state and stamp. -/
def Ring.setSlot (r : Ring) (i : Nat) (x : SlotState) (pts : Nat) : Ring := { r with st := r.st.set i x, spts := r.spts.set i pts }

/-- A slot becomes FULL and joins the queue (R288). -/
def Ring.publish (r : Ring) (i pts : Nat) : Ring := { r.setSlot i .full pts with queue := r.queue ++ [i] }

/-- Whether a subscription has tiles left to fill. -/
def Stream.wants (d : Stream) : Bool := decide (d.next < (viewOf d.view).tiles)

/-- Notes when a subscription begins to wait for a slot (R288). -/
def Ring.noteWait (r : Ring) (n : Nat) : Ring :=
  { r with sub := r.sub.map fun d => if d.wants && d.since.isNone && r.freeSlot.isNone then { d with since := some n } else d }

/-- The identity of a producer's entry. -/
def Ring.producer (r : Ring) (u : Nat) : Option Producer := r.prods.find? fun p => p.who == some u

/-- Registers a producer, or the reason of R297 why it cannot be (R289). -/
def Ring.enrol (r : Ring) (who : Option Nat) (pts : Nat) : Except Nat Ring :=
  if r.prods.any fun p => p.who == who then .ok r
  else if r.ended then .error 4
  else if 4 ≤ r.prods.length then .error 3
  else .ok { r with prods := r.prods ++ [{ who := who, eos := false, pts := pts }] }

/-- Changes a producer's entry. -/
def Ring.modProducer (r : Ring) (who : Option Nat) (f : Producer → Producer) : Ring :=
  { r with prods := r.prods.map fun p => if p.who = who then f p else p }

/-! ### Lane instructions -/

/-- The slot that a value names in `%finfo`: none for -1 (R297). -/
def namedSlot (x : Word) : Nat := if x = BitVec.allOnes 64 then 255 else x.toNat

/-- A ring instruction: its stack picture, and RINGST for an undeclared ring, with the slot that an operand names (R287, R290, R297). -/
def ringStep (q : Nat) (pops pushes : Nat) (body : Ring → State → Res) (s : State) : Host.Outcome State Fault Refusal :=
  laneStep 4 (fun s => s.withStack .none (.of pops pushes) (decide (0 < pops)) fun s =>
    let r := s.tm.ringAt q
    if r.slots = 0 then s.ringst q 0 (if pops = 0 then 255 else namedSlot (arg (s.scalarArgs 1) 0)) else body r s) s

/-- Whether the sequencer's operation waits for the head of ring `q` as its operand B (R260, R288). -/
def Team.matrixWants (t : Team) (q : Nat) : Bool :=
  match t.seq.st with
  | .wres (.mma x) => x.bq && x.b.val == q && !(t.seq.held.any fun h => h.1 == q)
  | _ => false

/-- R291; a matrix operation that waits for the same head goes first (R288). -/
def execRingGet (q : Fin 16) (s : State) : Host.Outcome State Fault Refusal :=
  ringStep q 0 1 (fun r s =>
    let push := fun (s : State) (v : Word) => Res.ok ((s.replaceScalar 0 [Entry.plain v]).finishRegion 4)
    match r.drain with
    | some d => if r.drained d then push (s.raisePts d.stamp) (BitVec.allOnes 64) else .park (.ring q false) s
    | none =>
      match r.queue with
      | i :: rest =>
        if s.before (fun w => w == .ring q false) || s.tm.matrixWants q then .park (.ring q false) s
        else
          let r' := { r.setSlot i (.taken s.gp.uid) 0 with queue := rest, taken := true }
          push ((s.setRing q r').handOff (r.spts.getD i 0)) (BitVec.ofNat 64 i)
      | [] => if r.allEos then push (s.setRing q { r with ended := true }) (BitVec.allOnes 64) else .park (.ring q false) s) s

/-- The publication that `ring.put` and `ring.eos` begin with (R292, R293): the group is registered first, and slot `x` is
published unless it is -1. The error is the reason and the slot of R297. -/
def Ring.offer (r : Ring) (u pts : Nat) (x : Word) (putting : Bool) : Except (Nat × Nat) Ring :=
  let names := x != BitVec.allOnes 64
  let slot := namedSlot x
  match r.enrol (some u) pts with
    | .error e => .error (e, slot)
    | .ok r =>
      if (names || putting) && ((r.producer u).map (·.eos)).getD false then .error (4, slot)
      else if !names then .ok r
      else if r.slots ≤ x.toNat then .error (1, slot)
      else if r.st.getD x.toNat .free = .resv u then .ok ((r.publish x.toNat pts).modProducer (some u) fun p => { p with pts := pts })
      else .error (2, slot)

/-- R292: publishes, then reserves; a fragment that waits for a slot has published already. -/
def execRingPut (q : Fin 16) (g : Guard) (s : State) : Host.Outcome State Fault Refusal :=
  ringStep q 1 1 (fun r s =>
    let x := arg (s.scalarArgs 1) 0
    if !s.fr.guard g then .ok ((s.replaceScalar 1 [Entry.plain x]).finishRegion 4)
    else
      let mine := s.fr.wait == .ring q true
      match if mine then .ok r else r.offer s.gp.uid s.fr.pts x true with
      | .error e => s.ringst q e.1 e.2
      | .ok r =>
        let ahead := s.before (fun w => w == .ring q true) || match r.sub with
          | some d => d.wants && match d.since with
            | some n => !mine || decide (n < s.fr.parkedAt)
            | none => false
          | none => false
        match r.freeSlot with
        | some i =>
          if ahead then .park (.ring q true) (s.setRing q r)
          else
            let r' := (r.setSlot i (.resv s.gp.uid) 0).noteWait s.seqNo
            .ok ((((s.setRing q r').handOff (r.spts.getD i 0)).replaceScalar 1 [Entry.plain (BitVec.ofNat 64 i)]).finishRegion 4)
        | none => .park (.ring q true) (s.setRing q r)) s

/-- R294: frees a slot that a group of the team has taken. -/
def execRingDone (q : Fin 16) (g : Guard) (s : State) : Host.Outcome State Fault Refusal :=
  ringStep q 1 0 (fun r s =>
    let x := arg (s.scalarArgs 1) 0
    let done := fun (s : State) => Res.ok ((s.replaceScalar 1 []).finishRegion 4)
    if !s.fr.guard g then done s
    else if r.slots ≤ x.toNat then s.ringst q 1 x.toNat
    else match r.st.getD x.toNat .free with
      | .taken _ =>
        let r' := r.setSlot x.toNat .free s.fr.pts
        done (s.setRing q { r' with sub := r'.sub.map fun d => { d with pts := max d.pts s.fr.pts } })
      | _ => s.ringst q 2 x.toNat) s

/-- R293: publishes, and sets the group's eos bit. -/
def execRingEos (q : Fin 16) (g : Guard) (s : State) : Host.Outcome State Fault Refusal :=
  ringStep q 1 0 (fun r s =>
    let done := fun (s : State) => Res.ok ((s.replaceScalar 1 []).finishRegion 4)
    if !s.fr.guard g then done s
    else match r.offer s.gp.uid s.fr.pts (arg (s.scalarArgs 1) 0) false with
      | .error e => s.ringst q e.1 e.2
      | .ok r => done (s.setRing q (r.modProducer (some s.gp.uid) fun p => { p with eos := true }))) s

/-- REGION of a view's pages, as far as they are mapped: the check of `ring.sub` and `ring.drain`, which translate nothing
(R295). -/
def State.viewRegion (s : State) (v : View) (write : Bool) : Option Bad :=
  ((v.globals (List.range v.tiles)).find? fun va => match s.pageOf s.ctx.fn va with
    | some p => regionBad s.tm p write
    | none => false).map fun va => (.region, va)

/-- What `ring.sub` and `ring.drain` check before the registration, and the stream they set up (R295). -/
def streamStep (i : Instr) (q v : Nat) (write : Bool) (conflict : Ring → Bool) (set : Ring → Stream → State → Except Nat Ring)
    (s : State) : Host.Outcome State Fault Refusal :=
  ringStep q 0 0 (fun r s =>
    let img := s.viewImage v
    let w := viewOf img
    match (s.viewFault w (wordOf i) (List.range w.tiles)).orElse fun _ => s.viewRegion w write with
    | some b => .fault (s.faultAll b.1 b.2)
    | none =>
      if r.slotBytes < w.tileBytes then s.ringst q 6 255
      else if conflict r then s.ringst q 5 255
      else match set r { view := img, next := 0, pts := 0, busy := [], since := none, stamp := 0, born := s.seqNo } s with
        | .error e => s.ringst q e 255
        | .ok r' => .ok ((s.setRing q (r'.noteWait s.seqNo)).finishRegion 4)) s

/-- R295: a subscription becomes a producer. -/
def execRingSub (q v : Fin 16) (s : State) : Host.Outcome State Fault Refusal :=
  streamStep (.ringSub q v) q v false (fun r => r.sub.isSome || r.drain.isSome)
    (fun r d s => (r.enrol none s.fr.pts).map fun r => { r with sub := some { d with pts := s.fr.pts } }) s

/-- R295: the storer becomes the consumer. -/
def execRingDrain (q v : Fin 16) (s : State) : Host.Outcome State Fault Refusal :=
  streamStep (.ringDrain q v) q v true (fun r => r.sub.isSome || r.drain.isSome || r.taken)
    (fun r d _ => .ok { r with drain := some d }) s

/-! ### Subscriptions and drains -/

/-- The transfer unit that serves a global address for a core (R23, R25, R279): a stack's loader or storer, or the core's copy
path. -/
def transferEngine (core : Nat) (storer : Bool) (pa : Option Nat) : Nat :=
  match pa with
  | some a => if a < 0x60_0000_0000 then engineId 2 (a / 0x18_0000_0000) (2 * field a 8 8 + bit storer) else copyEngine core
  | none => copyEngine core

/-- The unit that carries tile `k` of a view of a team. -/
def State.tileUnit (s : State) (t : Team) (storer : Bool) (v : View) (k : Nat) : Nat :=
  transferEngine t.core storer (if v.sp = 0 then s.physOf (s.ctxs.getD t.ctx LaunchCtx.empty).fn (v.addr k 0 0) else none)

/-- A transfer of the focused team that its unit `e` finds at fault after its issue ends the launch; its address goes to the debug area (R295,
R334). -/
def State.unitFatal (s : State) (e : Nat) (c : Code) (va : Nat) : State :=
  let s := s.noteTeam e 5 0 (BitVec.ofNat 64 (codeNum c) ||| (BitVec.ofNat 64 va <<< 8))
  (s.dump s.tm.ctx e 0 (toBytes 8 va)).fatal s.tm.ctx (s.fatalFault (codeNum c) e (unitPlace e) 0)

/-- A fill or a drain's write of the focused team that fails (R295). -/
def State.streamFatal (s : State) (c : Code) (storer : Bool) (v : View) (k va : Nat) : State := s.unitFatal (s.tileUnit s.tm storer v k) c va

/-- The subscriptions, or the drains, at work on the module, with their teams. -/
def State.streams (s : State) (storer : Bool) : List (Team × Stream) :=
  s.allTeams.flatMap fun t => t.rings.filterMap fun r =>
    if storer then (r.drain.filter fun d => !r.drained d).map fun d => (t, d)
    else (r.sub.filter fun d => d.wants || !d.busy.isEmpty).map fun d => (t, d)

/-- Whether a stack's loader serves a subscription, or its storer a drain: 64 at once, the further ones wait in it (R279). A stream
belongs to the unit of its first tile (DEDUCED, log entry 73). -/
def State.streamServed (s : State) (t : Team) (storer : Bool) (d : Stream) : Bool :=
  let unit := fun (x : Team × Stream) => s.tileUnit x.1 storer (viewOf x.2.view) 0
  unit (t, d) == copyEngine t.core ||
    decide (((s.streams storer).filter fun x => unit x == unit (t, d) && decide (x.2.born < d.born)).length < 64)

/-- The operation that moves tile `k` of a stream of ring `q` to or from a slot. -/
def State.streamOp (s : State) (kind : OpKind) (q : Nat) (r : Ring) (d : Stream) (slot : Nat) : EngineOp :=
  let v := viewOf d.view
  let a := r.base + slot * r.slotBytes
  let vs := s.viewSpans s.tm v d.next
  let ps := s.packedSpans s.tm 2 a v.tileBytes
  { id := s.seqNo, kind := kind, team := s.teamRef, who := 0, cluster := s.tm.cluster, home := s.tm.home, mask := 0, pts := d.pts,
    view := d.view, tile := d.next, psp := 2, paddr := a, src := if kind.loads then vs else ps,
    dst := if kind.loads then ps else vs, waiting := false, absent := [], ring := q, slot := slot, session := 0, joined := false,
    result := none, unit := false, got := false }

/-- What a fill or a write meets at its pages: it goes on, it waits for the pager, or it ends the launch (R295). -/
def State.streamPages (s : State) (v : View) (k : Nat) (write : Bool) (go : State → State) : State :=
  let va := v.globals [k]
  match if write then s.checkPages s.tm [] va else s.checkPages s.tm va [] with
  | .ok => go s
  | .bad b => s.streamFatal b.1 write v k b.2
  | .miss a => if s.pageFails s.ctx.fn a then s.streamFatal .page write v k a else s.pageIn s.ctx.fn a

/-- Whether a fragment of the focused team has waited longer for a slot of ring `q` than its subscription (R288). -/
def State.putterAhead (s : State) (q : Nat) (d : Stream) : Bool :=
  s.tm.groups.any fun g => g.allFrags.any fun f => f.wait == .ring q true && match d.since with
    | some n => decide (f.parkedAt < n)
    | none => true

/-- Brings a named team into focus. -/
def State.focusRun (s : State) (t : TeamRef) : State := s.focusTeam t.core t.ctx

/-- R295: the subscription reserves the lowest FREE slot and issues the fill of its next tile. -/
def execRingSubscriptionFill (t : TeamRef) (q : Fin 16) (s : State) : Host.Outcome State Fault Refusal :=
  if (s.findTeam t).isNone then .next s
  else
    let u := s.focusRun t
    let r := u.tm.ringAt q
    match r.sub, r.freeSlot with
    | some d, some i =>
      if !d.wants || u.putterAhead q d || !u.teamRuns u.tm || u.tm.halting || !u.streamServed u.tm false d then .next s
      else .next (u.streamPages (viewOf d.view) d.next false fun u =>
        let u := { u with seqNo := u.seqNo + 1 }
        let d := { d with pts := max d.pts (r.spts.getD i 0) }
        let o := u.streamOp .fill q r d i
        if !u.tablesFit o then u
        else
          let d' := { d with next := d.next + 1, busy := d.busy ++ [(d.next, i, false)], since := none }
          (u.register o).setRing q ({ r.setSlot i .resvSub 0 with sub := some d' }.noteWait u.seqNo))
    | _, _ => .next s

/-- The fills that are complete and preceded by no unfinished tile become FULL in tile order (R288, R295). -/
def publishFills (r : Ring) : List (Nat × Nat × Bool) → Ring × List (Nat × Nat × Bool)
  | (_, i, true) :: rest => publishFills (r.publish i (r.spts.getD i 0)) rest
  | bs => (r, bs)

/-- The subscription after a fill of slot `i` has completed at stamp `t`. -/
def Ring.filled (r : Ring) (i t : Nat) : Ring :=
  match r.sub with
  | none => r
  | some d =>
    let busy := d.busy.map fun b => if b.2.1 = i then (b.1, i, true) else b
    let (r', left) := publishFills { r with spts := r.spts.set i t } busy
    let d' := { d with busy := left }
    let r'' := { r' with sub := some d' }
    if left.isEmpty && !d'.wants then r''.modProducer none fun p => { p with eos := true } else r''

/-- R71, R288: a fill completes. -/
def execRingFillComplete (op : Nat) (s : State) : Host.Outcome State Fault Refusal :=
  match s.opById op with
  | some o =>
    if o.kind = .fill ∧ !o.waiting ∧ !s.opBlocked o then
      let (s', t) := s.moveTile o
      .next (s'.modTeam o.team fun tm => tm.setRing o.ring ((tm.ringAt o.ring).filled o.slot t))
    else .next s
  | none => .next s

/-- R295: the drain takes the head of the queue and writes its slot to its next tile. -/
def execRingDrainTake (t : TeamRef) (q : Fin 16) (s : State) : Host.Outcome State Fault Refusal :=
  if (s.findTeam t).isNone then .next s
  else
    let u := s.focusRun t
    let r := u.tm.ringAt q
    match r.drain, r.queue with
    | some d, i :: rest =>
      let v := viewOf d.view
      if !u.teamRuns u.tm || u.tm.halting || !u.streamServed u.tm true d then .next s
      else if !d.wants then .next (u.streamFatal .ringst true v 0 (r.base + i * r.slotBytes))
      else .next (u.streamPages v d.next true fun u =>
        let u := { u with seqNo := u.seqNo + 1 }
        let d := { d with pts := max d.pts (r.spts.getD i 0) }
        let o := u.streamOp .drain q r d i
        if !u.tablesFit o then u
        else
          let d' := { d with next := d.next + 1, busy := d.busy ++ [(d.next, i, false)] }
          (u.register o).setRing q { r.setSlot i .takenDrain 0 with queue := rest, drain := some d' })
    | _, _ => .next s

/-- The drain after slot `i` has been written at stamp `t`. -/
def Ring.wrote (r : Ring) (i t : Nat) : Ring :=
  { r.setSlot i .free 0 with
    drain := r.drain.map fun d => { d with busy := d.busy.filter (fun b => b.2.1 != i), stamp := max d.stamp t } }

/-- R71, R288: a drain's write completes and its slot is FREE. -/
def execRingDrainWriteComplete (op : Nat) (s : State) : Host.Outcome State Fault Refusal :=
  match s.opById op with
  | some o =>
    if o.kind = .drain ∧ !o.waiting ∧ !s.opBlocked o then
      let (s', t) := s.moveTile o
      .next (s'.modTeam o.team fun tm => tm.setRing o.ring ((tm.ringAt o.ring).wrote o.slot t))
    else .next s
  | none => .next s

end Sys2Proof.Machine
end

