-- ==== Sys2Proof/Machine/Fabric.lean ====
section
/-!
DEFINITION. The fabric engine (R329 to R334): `fred`, the reduction sessions, and the fabric links.
-/
namespace Sys2Proof.Machine

/-! ### Sessions (R330, R331) -/

/-- Session `n`. -/
def State.session (s : State) (n : Nat) : Session := s.sessions.getD n Session.reset

/-- Changes a session. -/
def State.modSession (s : State) (n : Nat) (f : Session → Session) : State := { s with sessions := s.sessions.modify n f }

/-- The fields of the registers. -/
def Session.isOpen (x : Session) : Bool := x.sctl.getLsbD 31
def Session.fmtCode (x : Session) : Nat := field x.sctl.toNat 27 26
def Session.ncon (x : Session) : Nat := field x.sctl.toNat 15 0
def Session.exp (x : Session) : Int := toSigned 9 (field x.sctl.toNat 24 16)
def Session.elements (x : Session) : Nat := field x.scnt.toNat 16 0
def Session.uplinkNo (x : Session) : Nat := field x.sroute.toNat 4 0

/-- The element type and format of FMT; 0b11 is reserved. -/
def Session.ty (x : Session) : Option (Nat × Fmt) :=
  match x.fmtCode with
  | 0 => some (3, fmtF32)
  | 1 => some (9, fmtBf16)
  | 2 => some (8, fmtF16)
  | _ => none

/-- Bits of one value: 16 or 32. -/
def Session.width (x : Session) : Nat := if x.fmtCode = 0 then 32 else 16

/-- The sums of a round: one for each element, two in the 16-bit formats, whose elements hold a pair of values (log entry 33). -/
def Session.values (x : Session) : Nat := x.elements * (32 / x.width)

/-- Whether a session is open and granted to a launch context (R332). -/
def Session.servesCtx (x : Session) (ctx : Nat) : Bool :=
  x.isOpen && x.sroute.getLsbD 8 && field x.sroute.toNat 7 5 == ctx

/-- What one value contributes to an element: the fixed-point integer and which of NAN, SAT and TRUNC it sets (R331). -/
def fixedOf (e : Int) (v : FVal) : Int × Bool × Bool × Bool :=
  match v with
  | .fin neg m q =>
    -- the value is m · 2^q, in units of 2^(e − 72)
    let k := q - (e - 72)
    let mag := shiftBy m k
    let exact := decide (0 ≤ k) || decide (m % 2 ^ (-k).toNat = 0)
    if 2 ^ 95 ≤ mag then ((if neg then -(2 ^ 95 - 1) else 2 ^ 95 - 1), false, true, false)
    else (signedM neg mag, false, false, !exact)
  | _ => (0, true, false, false)

/-- The element of a round's result: the exact sum rounded once, the canonical NaN where it is poisoned (R331). -/
def sumTo (f : Fmt) (e : Int) (sum : Int) (bad : Bool) : Half :=
  if bad then BitVec.ofNat 32 f.nanCode
  else if sum = 0 then 0
  else BitVec.ofNat 32 (convertTo f .rne 0 (.fin (decide (sum < 0)) sum.natAbs (e - 72))).1

/-! ### `fred` (R332) -/

/-- A contribution's values in row-major tile order, read now: value and poison of each; invalid positions give +0. An element of h2
or bh2 holds two values (R34, R280), which are summed independently of each other (log entry 33). -/
def State.contribution (s : State) (o : EngineOp) : List (FVal × Bool) :=
  let v := viewOf o.view
  let die := s.opDie o
  let split := fun (got : Nat × Bool) =>
    match v.ty with
    | 3 => [(decodeF fmtF32 got.1, got.2)]
    | 9 => [(decodeF fmtBf16 (got.1 % 2 ^ 16), got.2), (decodeF fmtBf16 (got.1 / 2 ^ 16), got.2)]
    | _ => [(decodeF fmtF16 (got.1 % 2 ^ 16), got.2), (decodeF fmtF16 (got.1 / 2 ^ 16), got.2)]
  v.cells.flatMap fun x =>
    if v.valid o.tile x.1 x.2 then match s.elemPlace o x.1 x.2 with
      | some (p, i) => split (s.readElem die p i v.nibs)
      | none => split (0, false)
    else split (0, false)

/-- The elements of a result: a value each in f32, a pair of values each in the 16-bit formats (log entry 33). -/
def packValues (bits : Nat) : List Half → List Half
  | [] => []
  | [a] => [a]
  | a :: b :: l => if bits = 16 then (a ||| (b <<< 16)) :: packValues bits l else a :: packValues bits (b :: l)

/-- Steps 2 to 4 of the checks of `fred`. -/
def State.fredFault (s : State) (n : Nat) (v : View) (bits d : Nat) : Option Bad :=
  let x := s.session n
  if !x.servesCtx s.tm.ctx then some (.space, n)
  else if x.ty.map (·.1) ≠ some v.ty ∨ v.tw * v.th ≠ x.elements then some (.illty, bits)
  else if d % 128 ≠ 0 then some (.align, d)
  else if !s.tm.inSpace 2 d v.tileBytes then some (.space, d)
  else none

/-- R332: contributes tile 0 of a view to a reduction session. -/
def execFred (v : Fin 16) (n : Fin 64) (s : State) : Host.Outcome State Fault Refusal :=
  laneStep 4 (fun s => s.withStack .none (.of 1 0) true fun s =>
    let i : Instr := .fred v n
    let d := (arg (s.scalarArgs 1) 0).toNat
    let img := s.viewImage v
    let w := viewOf img
    match (s.viewFault w (wordOf i) [0]).orElse fun _ => s.fredFault n w (wordOf i) d with
    | some b => .fault (s.faultAll b.1 b.2)
    | none =>
      match s.checkPages s.tm (w.globals [0]) [] with
      | .miss a => .park (.page a) (s.awaitPage i)
      | .bad b => .fault (s.faultAll b.1 b.2)
      | .ok =>
        let o : EngineOp :=
          { id := s.seqNo, kind := .fred, team := s.teamRef, who := s.gp.uid, cluster := s.tm.cluster, home := s.tm.home,
            mask := s.fr.mask, pts := s.fr.pts, view := img, tile := 0, psp := 2, paddr := d, src := s.viewSpans s.tm w 0,
            dst := s.packedSpans s.tm 2 d w.tileBytes, waiting := false, absent := [], ring := 0, slot := 0, session := n,
            joined := false, result := none, unit := false, got := false }
        if 32 ≤ s.tm.cpBusy ∨ !s.tablesFit o then .park (.stall o.allEntries) s
        else .ok ((((s.register o).countOp .cp).replaceScalar 1 []).finishRegion 4)) s

/-! ### Rounds (R331 to R334) -/

/-- The operations `ids` receive a round's result, all at the largest pts among them (R333). -/
def State.giveResult (s : State) (ids : List Nat) (vals : List Half) : State :=
  let pts := (s.ops.filter fun o => ids.contains o.id).foldl (fun m o => max m o.pts) 0
  { s with ops := s.ops.map fun (o : EngineOp) => if ids.contains o.id then { o with result := some vals, pts := pts } else o }

/-- A session whose next round begins. -/
def Session.nextRound (x : Session) : Session :=
  { x with round := x.round + 1, got := [], links := [], count := 0, sums := [], bad := [], began := none }

/-- Hands a round's result back on the links that its contributions came from (R331). -/
def Session.handDown (x : Session) (links : List Nat) (round : BitVec 16) (vals : List Half) : Session :=
  { x with down := x.down ++ links.map fun l => (l, round, vals) }

/-- The result of the current round at its root: every sum rounded once (R331). -/
def Session.result (x : Session) : List Half :=
  packValues x.width ((x.sums.zip x.bad).map fun p => sumTo ((x.ty.map (·.2)).getD fmtF32) x.exp p.1 p.2)

/-- The round whose partial sums a session that is not the root sends on its uplink (R331). -/
def Session.sent (x : Session) (now : Nat) : UpRound :=
  { round := x.round, got := x.got, links := x.links, sums := x.sums, bad := x.bad, began := x.began.getD now }

/-- With its NCON-th contribution the round completes: the root rounds the sums, another module sends them on (R331). -/
def State.roundDone (s : State) (n : Nat) : State :=
  let x := s.session n
  if x.count < x.ncon then s
  else if x.uplinkNo = 0 then
    (s.giveResult x.got x.result).modSession n fun x => (x.handDown x.links x.round x.result).nextRound
  else s.modSession n fun x => { x.nextRound with uplink := x.uplink ++ [x.sent s.now] }

/-- A session whose current round takes in sums and poison marks: of a contribution, or of a round below. -/
def Session.add (x : Session) (now count : Nat) (sums : List Int) (bad : List Bool) : Session :=
  { x with
    count := x.count + count, sums := sums.mapIdx fun i f => x.sums.getD i 0 + f
    bad := bad.mapIdx fun i b => x.bad.getD i false || b
    began := x.began.orElse fun _ => some now }

/-- A session with one more contribution of this module. -/
def Session.join (x : Session) (id now : Nat) (vals : List (FVal × Bool)) : Session :=
  let fs := vals.map fun p => fixedOf x.exp p.1
  { x.add now 1 (fs.map (·.1)) ((vals.zip fs).map fun p => p.1.2 || p.2.2.1) with
    got := x.got ++ [id]
    nan := x.nan || fs.any fun f => f.2.1
    sat := x.sat || fs.any fun f => f.2.2.1
    trunc := x.trunc || fs.any fun f => f.2.2.2 }

/-- The canonical NaNs that an aborted round gives its contributions (R334). -/
def Session.nans (x : Session) : List Half :=
  let nan : Half := BitVec.ofNat 32 ((x.ty.map (·.2)).getD fmtF32).nanCode
  List.replicate x.elements (if x.width = 16 then nan ||| (nan <<< 16) else nan)

/-- An operation that a fault ends leaves the tables; its destination lines are present again. -/
def State.cancelOp (s : State) (o : EngineOp) : State :=
  let s := { s with ops := s.ops.filter fun e => e.id != o.id }
  let s := if o.got then s.collarFree o.team.core 1 else s
  s.setPresence (o.dst.flatMap Span.scrLines)

/-- A `fred` of this module reaches the switch: it joins the current round; at a session that has been closed it completes as in an aborted
round (log entry 22). A fault in a source page ends the launch; the issuing core's copy path, which carries every `fred`, reports it (R295, R334,
R349). -/
def State.ownArrival (s : State) (o : EngineOp) : State :=
  let v := viewOf o.view
  let x := s.session o.session
  let joined := fun (s : State) => { s with ops := s.ops.map fun (e : EngineOp) => if e.id = o.id then { e with joined := true } else e }
  if !x.isOpen then (joined s).giveResult [o.id] x.nans
  else
    let u := s.focusRun o.team
    match u.checkPages u.tm (v.globals [o.tile]) [] with
    | .ok => ((joined s).modSession o.session fun x => x.join o.id s.now (s.contribution o)).roundDone o.session
    | .bad b => (u.unitFatal (copyEngine o.team.core) b.1 b.2).cancelOp o
    | .miss a => if u.pageFails u.ctx.fn a then (u.unitFatal (copyEngine o.team.core) .page a).cancelOp o else u.pageIn u.ctx.fn a

/-- R331, R332: a contribution reaches the switch and joins the current round. -/
def execReductionContributionArrive (x : Arrival) (s : State) : Host.Outcome State Fault Refusal :=
  match x with
  | .own op => match s.opById op with
    | some o => if o.kind = .fred ∧ !o.joined ∧ !o.waiting ∧ !s.opBlocked o then .next (s.ownArrival o) else .next s
    | none => .next s
  | .below n link count sums bad =>
    if (s.session n).isOpen ∧ 0 < count ∧ sums.length = (s.session n).values ∧ bad.length = (s.session n).values then
      .next ((s.modSession n fun x => { x.add s.now count sums bad with links := x.links ++ [link.val] }).roundDone n)
    else .next s

/-- R331: the rounded result of a round comes back on the uplink, and goes on to the links below. -/
def execReductionUplinkResult (n : Fin 64) (round : BitVec 16) (vals : List (BitVec 32)) (s : State) :
    Host.Outcome State Fault Refusal :=
  match (s.session n).uplink.find? fun u => u.round == round with
  | some u => .next ((s.giveResult u.got vals).modSession n fun x => { x.handDown u.links round vals with uplink := x.uplink.erase u })
  | none => .next s

/-- R332, R333: a round's result is written to a destination, and the `fred` completes. -/
def execFredComplete (op : Nat) (s : State) : Host.Outcome State Fault Refusal :=
  match s.opById op with
  | some o => match o.result with
    | some vals =>
      if o.kind = .fred ∧ !(s.ops.any fun (e : EngineOp) => decide (e.id < o.id) && o.dst.any fun (d : Span) => (e.src ++ e.dst).any d.meets) then
        let size := (viewOf o.view).size
        let ms := vals.zipIdx.filterMap fun x =>
          (s.placeOf o.team o.cluster o.home 2 (o.paddr + x.2 * size)).map fun p =>
            ({ sp := p.1, key := p.2, nib := 0, size := 2 * size, val := x.1.toNat, bad := false } : Move)
        let (s', t) := s.moveAll o ms
        .next (s'.opCounted o t)
      else .next s
    | none => .next s
  | none => .next s

/-- µs that a round may take: TOUT, or 1,000 (R330). -/
def Session.timeout (x : Session) : Nat := if x.stime = 0 then 1000 else x.stime.toNat

/-- R334: a round that lacks contributions when its time is up is aborted: the current round, or one whose result has not come back on the
uplink. -/
def execReductionRoundTimeout (n : Fin 64) (s : State) : Host.Outcome State Fault Refusal :=
  let x := s.session n
  let late := fun (t : Nat) => decide (t + x.timeout * 1000 ≤ s.now)
  if x.began.any late then
    .next ((s.giveResult x.got x.nans).modSession n fun x => { (x.handDown x.links x.round x.nans).nextRound with abort := true })
  else match x.uplink.find? fun u => late u.began with
    | some u =>
      .next ((s.giveResult u.got x.nans).modSession n fun x => { x.handDown u.links u.round x.nans with
        abort := true, uplink := x.uplink.erase u })
    | none => .next s

/-- Whether a writer reaches the session registers: the physical function of a link, and Tison (R330, R343). -/
def reachesSessions : Writer → Bool
  | .vf _ => false
  | _ => true

/-- R330: a write of SCTL by `x.1` to session `x.2`. With EN set it starts round 0; contributions of a round that the write ends complete
with NaN (log entry 22). -/
def execSctlWrite (x : Writer × Fin 64) (v : BitVec 32) (s : State) : Host.Outcome State Fault Refusal :=
  if !reachesSessions x.1 then .next s
  else
    let n := x.2
    let x := s.session n
    let c := v &&& 0x8DFFFFFF
    .next ((s.giveResult x.got x.nans).modSession n fun x =>
      let y := { (x.handDown x.links x.round x.nans).nextRound with sctl := c }
      if c.getLsbD 31 then { y with round := 0 } else { y with round := x.round })

/-! ### Fabric links (R329) -/

/-- Fabric link `n`. -/
def State.modFlink (s : State) (n : Nat) (f : FabricLink → FabricLink) : State := { s with flinks := s.flinks.modify n f }

/-- A trained link; a width of 0 is a training that failed. -/
def FabricLink.train (x : FabricLink) (w : Nat) (peer : Byte) : FabricLink :=
  if w = 0 then { x with up := false, width := 0 } else { x with up := true, width := BitVec.ofNat 2 w, peer := peer }

/-- R329, R366: a link trains or retrains; in RECOVERY none does (R368). -/
def execFabricLinkTrain (link : Fin 16) (width : Fin 4) (peer : Byte) (s : State) : Host.Outcome State Fault Refusal :=
  .next (if s.recovery then s else s.modFlink link fun x => x.train width peer)

/-- R366: every second, a link that is down retrains. -/
def execFabricLinkRetryTimer (link : Fin 16) (width : Fin 4) (peer : Byte) (s : State) : Host.Outcome State Fault Refusal :=
  .next (if s.recovery then s else s.modFlink link fun x => if x.up then x else x.train width peer)

/-- R329: a link loses training. -/
def execFabricLinkDown (link : Fin 16) (s : State) : Host.Outcome State Fault Refusal :=
  .next (s.modFlink link fun x => { x with up := false, width := 0 })

/-- The key of record `i` of the error ring, whose 32 KB lie in one core's Tison memory (R374; log entry 37). -/
def errorKey (i : Nat) : Nat :=
  Config.errorRing % 4 * 2 ^ 32 + Config.errorRing / 4 % (2 ^ 18 - 2 ^ 15) / 32 * 32 + 32 * (i % 1024)

/-- The bytes of an error record (R374). -/
def ErrorRec.bytes (r : ErrorRec) : List Byte :=
  toBytes 8 r.time ++ toBytes 8 r.pa ++ toBytes 2 r.engine ++ toBytes 1 r.kind ++ toBytes 1 r.result ++ toBytes 12 0

/-- Adds a record to the error ring: when it is full the oldest is overwritten and the drop count rises (R374). -/
def State.addError (s : State) (r : ErrorRec) : State :=
  { s.putBytes 5 (errorKey s.errCount) r.bytes with
    errCount := s.errCount + 1, drops := if s.errCount < 1024 then s.drops else s.drops + 1 }

/-- The records that the physical function reads in the error ring, the oldest first (R374). -/
def State.errorRing (s : State) : List (List Byte) :=
  (List.range (min 1024 s.errCount)).map fun i => s.bytesAt 5 (errorKey (s.errCount - min 1024 s.errCount + i)) 32

/-- R329, R371, R374: a flit fails its CRC; it is sent again, or fails after every retry. -/
def execFlitCrcError (link : Fin 16) (recovered : Bool) (s : State) : Host.Outcome State Fault Refusal :=
  let s := s.modFlink link fun x =>
    { x with retry := if x.retry = 0xFF then 0xFF else x.retry + 1, crcerr := x.crcerr || !recovered }
  .next (s.addError { time := s.now, pa := 0, engine := engineId 4 4 (1 + link), kind := 3, result := 3 })

end Sys2Proof.Machine
end

