-- ==== Sys2Proof/Machine/Cross.lean ====
section
/-!
DEFINITION. Cross-lane operations over a member mask (R174 to R179).
-/
namespace Sys2Proof.Machine

/-- What an operation pops and pushes in each lane and in the fragment's scalar stack, the member mask included. -/
structure XShape where
  lanePops : Nat
  lanePush : Nat
  scalPops : Nat
  scalPush : Nat

/-- What an operation gives: the entries pushed in a lane, the change of the lane's predicates and flags, and the entries
pushed on the scalar stack, from the lane and the fragment's scalar operands. -/
structure XRes where
  push : Lane → List Word → List Word
  lane : Lane → Lane
  scal : List Word

/-- The member mask of a fragment: the low half of its top scalar entry (R174). -/
def Frag.memberMask (f : Frag) : Mask := lo32 (arg (valsOf 1 f.sstk) 0)

/-- Completes an operation for the focused fragment (R174). -/
def State.xfinish (s : State) (x : XShape) (r : XRes) : State :=
  let sargs := s.scalarArgs x.scalPops
  let s := s.mapActive r.lane
  let s := s.replaceLanes x.lanePops x.lanePush fun l => (r.push l sargs).map Entry.plain
  (s.replaceScalar x.scalPops (r.scal.map Entry.plain)).finish 4

/-- Completes an operation for the fragments that hold the lanes of `ls`, one after another. -/
def State.xfinishAll (s : State) (x : XShape) (r : XRes) : List Nat → State
  | [] => s
  | l :: ls => ((s.focusLane l).xfinish x r).xfinishAll x r ls

/-- Raises a fault for the fragments that hold the lanes of `ls`, each with `%finfo` from its own member mask. -/
def State.xraise (s : State) (c : Code) (info : Mask → Nat) : List Nat → State
  | [] => s
  | l :: ls =>
    let s := s.focusLane l
    (s.raise (s.faultAll c (info s.fr.memberMask)) s.fr.pc (s.fr.pc + 4)).xraise c info ls

/-- The named lanes that have exited or were never launched (R174). -/
def Group.deadOf (g : Group) (m : Mask) : Mask := m &&& ~~~g.liveMask

/-- The fragments held at an address, the one parked first in front. -/
def Group.heldAt (g : Group) (pc : Word) : List Frag :=
  (g.allFrags.filter fun f => f.pc == pc && match f.wait with
    | .xlane _ => true
    | _ => false).mergeSort fun a b => decide (a.parkedAt ≤ b.parkedAt)

/-- A cross-lane operation (R174): `f` computes it from the member mask and the lanes of the group. -/
def xStep (x : XShape) (f : Mask → (Nat → List Word) → XRes) (s : State) : Host.Outcome State Fault Refusal :=
  laneStep 4 (fun s => s.withStack (.of x.lanePops x.lanePush) (.of x.scalPops x.scalPush) true fun s =>
    let m := s.fr.memberMask
    let me := lowestLane s.fr.mask
    let dead := s.gp.deadOf m
    let held := (s.gp.heldAt s.fr.pc).filter fun g => g.mask != s.fr.mask
    if dead ≠ 0 then .fault (s.faultAll .xlexit dead.toNat)
    else
      let first := ((held.head?).map Frag.memberMask).getD 0
      if held.any fun g => g.memberMask != m then
        let lanes := held.map fun g => lowestLane g.mask
        .ok ((s.xraise .xmask (fun own => own.toNat + first.toNat * 2 ^ 32) (lanes ++ [me])))
      else if m &&& ~~~(held.foldl (fun a g => a ||| g.mask) s.fr.mask) = 0 then
        let vals := fun i => match s.gp.lanes.find? (·.ix == i) with
          | some l => valsOf x.lanePops l.stk
          | none => []
        .ok (s.xfinishAll x (f m vals) ((held.map fun g => lowestLane g.mask) ++ [me]))
      else .park (.xlane m) s) s

/-- The exit of lanes while fragments are held: XLEXIT for every fragment that names one (R174). -/
def State.xexit (s : State) : State :=
  let held := s.gp.allFrags.filter fun f => match f.wait with
    | .xlane m => s.gp.deadOf m != 0
    | _ => false
  let g := s.gp
  s.xraise .xlexit (fun own => (g.deadOf own).toNat) (held.map fun f => lowestLane f.mask)

/-- A value of a type placed as its result (R130, R175). -/
def typed (ty : Ty) (w : Word) : Word := place ty (operandBits ty w)

/-- R175: the value of the lane named, or `f` where it is no member. -/
def execPerm (ty : Ty) (s : State) : Host.Outcome State Fault Refusal :=
  xStep ⟨3, 1, 1, 0⟩ (fun m vals =>
    { push := fun l _ =>
        let mine := valsOf 3 l.stk
        let k := (arg mine 2).toNat % 32
        [typed ty (if inMask m k then arg (vals k) 0 else arg mine 1)]
      lane := fun l => l
      scal := [] }) s

/-- R176: the value of the one lane named by the scalar operand. -/
def execBcast (ty : Ty) (s : State) : Host.Outcome State Fault Refusal :=
  xStep ⟨1, 1, 2, 0⟩ (fun m vals =>
    { push := fun l sargs =>
        let k := (arg sargs 0).toNat % 32
        [typed ty (if inMask m k then arg (vals k) 0 else arg (valsOf 1 l.stk) 0)]
      lane := fun l => l
      scal := [] }) s

/-- The members' values in ascending lane index. -/
def memberVals (m : Mask) (vals : Nat → List Word) : List Word :=
  ((List.range 32).filter fun i => inMask m i).map fun i => arg (vals i) 0

/-- R177. -/
def voteOf (k : VoteKind) (vs : List Word) : Bool :=
  match k with
  | .any => vs.any fun v => v != 0
  | .all => vs.all fun v => v != 0
  | .eq => vs.all fun v => v == vs.headD 0

/-- R177: writes a predicate of every receiving lane. -/
def execVote (k : VoteKind) (pd : Fin 8) (neg : Bool) (s : State) : Host.Outcome State Fault Refusal :=
  xStep ⟨1, 0, 1, 0⟩ (fun m vals =>
    let v := voteOf k (memberVals m vals) != neg
    { push := fun _ _ => []
      lane := fun l => { l with preds := setPred l.preds pd v }
      scal := [] }) s

/-- R177: pushes the mask of the members whose value is not zero. -/
def execBallot (s : State) : Host.Outcome State Fault Refusal :=
  xStep ⟨1, 0, 1, 1⟩ (fun m vals =>
    { push := fun _ _ => []
      lane := fun l => l
      scal := [zx32 (maskOf fun i => inMask m i && arg (vals i) 0 != 0)] }) s

/-- The operation at one node: the result and its flags (R178). -/
def redNode (op : RedOp) (ty : Ty) (a b : Word) : Word × Flags :=
  if ty.isFloat then
    let one := fun k =>
      let x := decodeF (elemFmt ty) ((split ty a).getD k 0)
      let y := decodeF (elemFmt ty) ((split ty b).getD k 0)
      match op with
      | .add => addF (elemFmt ty) .rne 0 x y
      | .min => (encodeF (elemFmt ty) (minF x y), flagIf (anySnan [x, y]) fNV)
      | _ => (encodeF (elemFmt ty) (maxF x y), flagIf (anySnan [x, y]) fNV)
    let rs := (List.range (elems ty)).map one
    (joinElems ty (rs.map (·.1)), rs.foldl (fun f r => f ||| r.2) 0)
  else
    (match op with
      | .add => narrow ty .rne (intOf ty a + intOf ty b)
      | .min => narrow ty .rne (min (intOf ty a) (intOf ty b))
      | .max => narrow ty .rne (max (intOf ty a) (intOf ty b))
      | .and => typed ty (a &&& b)
      | .or => typed ty (a ||| b)
      | .xor => typed ty (a ^^^ b), 0)

/-- The identity of an operation (R178). -/
def redIdentity (op : RedOp) (ty : Ty) : Word :=
  if ty.isFloat then
    let f := elemFmt ty
    let c := match op with
      | .add => f.signW
      | .min => f.infCode
      | _ => f.signW + f.infCode
    joinElems ty (List.replicate (elems ty) c)
  else match op with
    | .min => narrow ty .rne (intMax ty)
    | .max => narrow ty .rne (intMin ty)
    | .and => place ty (2 ^ widthOf ty - 1)
    | _ => 0

/-- One level of the tree: neighbours are joined (R178). -/
def redLevel (op : RedOp) (ty : Ty) : List Word → List Word × Flags
  | a :: b :: rest =>
    let (v, f) := redNode op ty a b
    let (vs, fs) := redLevel op ty rest
    (v :: vs, f ||| fs)
  | vs => (vs, 0)

/-- The levels of the tree. -/
def redTree (op : RedOp) (ty : Ty) : Nat → List Word → List Word × Flags
  | 0, vs => (vs, 0)
  | n + 1, vs =>
    let (ws, f) := redLevel op ty vs
    let (us, g) := redTree op ty n ws
    (us, f ||| g)

/-- The 32 leaves: members' values and identities (R178). -/
def redLeaves (op : RedOp) (ty : Ty) (m : Mask) (vals : Nat → List Word) : List Word :=
  (List.range 32).map fun i => if inMask m i then typed ty (arg (vals i) 0) else redIdentity op ty

/-- R178: the fixed tree over 32 leaves. -/
def execRed (op : RedOp) (ty : Ty) (s : State) : Host.Outcome State Fault Refusal :=
  xStep ⟨1, 1, 1, 0⟩ (fun m vals =>
    let (vs, f) := redTree op ty 5 (redLeaves op ty m vals)
    { push := fun _ _ => [vs.getD 0 0]
      lane := fun l => { l with lcw := orFlags l.lcw f }
      scal := [] }) s

/-- The inclusive results in ascending order after the first, and their flags (R179). -/
def scanFrom (op : RedOp) (ty : Ty) (acc : Word) : List Word → List Word × Flags
  | [] => ([], 0)
  | x :: xs =>
    let (v, f) := redNode op ty acc x
    let (vs, g) := scanFrom op ty v xs
    (v :: vs, f ||| g)

/-- R179: the running results, one rounding a step. -/
def execScan (op : RedOp) (ty : Ty) (excl : Bool) (s : State) : Host.Outcome State Fault Refusal :=
  xStep ⟨1, 1, 1, 0⟩ (fun m vals =>
    let xs := redLeaves op ty m vals
    let (vs, f) := scanFrom op ty (xs.headD 0) xs.tail
    let inc := xs.headD 0 :: vs
    { push := fun l _ => [if excl then (if l.ix = 0 then redIdentity op ty else inc.getD (l.ix - 1) 0) else inc.getD l.ix 0]
      lane := fun l => { l with lcw := orFlags l.lcw f }
      scal := [] }) s

end Sys2Proof.Machine
end

