-- ==== Sys2Proof/Machine/Exit.lean ====
section
/-!
DEFINITION. `exit` (R82, R185): what the lanes leave, and what the exit of a group's and of a team's last lane gives back.
-/
namespace Sys2Proof.Machine

/-- A 32-bit atomic addition at a counter, one event from `pts` (R66, R199). -/
def State.atomicAdd (s : State) (c : Counter) (d : Int) (pts : Nat) : State × Nat :=
  let v := ((s.natAt 0 c.pa 4 : Int) + d) % 2 ^ 32
  (s.putNat 0 c.pa 4 v.toNat).stampAtomics pts s.lease [c]

/-- The decrements of the join counters of exiting child lanes, in ascending lane index (R313). -/
def State.leaveJoins (s : State) (pts : Nat) : List Word → State
  | [] => s
  | a :: as =>
    let s := match s.counterAt s.ctx.fn a with
      | some c => (s.atomicAdd c (-1) pts).1
      | none => s
    s.leaveJoins pts as

/-- The rings of a team after a group's last lane has exited (R288, R289). -/
def Ring.groupGone (r : Ring) (u : Nat) : Ring :=
  { r with st := r.st.map fun x => if x = .resv u ∨ x = .taken u then .free else x
           prods := r.prods.map fun p => if p.who = some u then { p with eos := true } else p }

/-- The accumulator slots a group holds are released with the largest pts a fragment held at its exit (R206). -/
def Team.releaseAll (t : Team) (u pts : Nat) : Team :=
  (List.range t.acc.length).foldl (fun t n =>
    if (t.acc.getD n AccSlot.empty).tok = .lane u then t.giveBack n pts else t) t

/-- Whether no lane of a team is left and none is to come (R246). -/
def Team.over (t : Team) : Bool := t.groups.isEmpty && t.lines.isEmpty && t.queued.isEmpty && t.swapped.isEmpty

/-- The focused team gives up the array and its reservation, asked for or held. -/
def State.dropArray (s : State) : State :=
  let r := s.teamRef
  let u := s.seq.units
  ((s.modIsland (islandOf s.tm.core) fun x => { x with cq := x.cq.filter fun q => !(q.team == r && q.op.isNone && !q.burst) }).collarFree
    s.tm.core u).setSeq { s.seq with array := false, units := 0 }

/-- An operation of the focused team that has not started gives back the ring slot that it took: to the head of its queue, as it was (R245, R246,
R260). -/
def State.untake (s : State) : State :=
  match s.seq.took with
  | some (q, i, stamp, earlier) =>
    let back := fun (r : Ring) => { r with st := r.st.set i .full, spts := r.spts.set i stamp, queue := i :: r.queue, taken := earlier }
    { s with tm := { s.tm with rings := s.tm.rings.modify q back,
                               seq := { s.seq with took := none, held := s.seq.held.filter fun h => h != (q, i) } } }
  | none => s

/-- The focused team's sequencer stops once all its lanes have exited: an operation under way completes first, one that has not started has
no effect and gives up what it holds (R246). -/
def State.stopSeq (s : State) : State :=
  if s.tm.over && s.seq.st != .fault && s.seq.flight.isNone then
    let t := s.untake.dropArray
    t.setSeq { t.seq with st := .halted }
  else s

/-- A group after the exit of the lanes of its executing fragment. -/
def Group.leave (g : Group) : Group :=
  let m := g.fr.mask
  let g := { g with lanes := g.lanes.map fun l => if inMask m l.ix then Lane.empty l.ix else l
                    exitPts := max g.exitPts g.fr.pts
                    fr := Frag.empty }
  (List.range 8).foldl (fun g j => g.seamExit m j) g

/-- R185. The lanes leave their seams, barriers and member sets; a join counter whose page is not resident is awaited. -/
def execExit (s : State) : Host.Outcome State Fault Refusal :=
  laneStep 2 (fun s =>
    let joins := s.active.filterMap (·.jex)
    match joins.find? fun a => (s.counterAt s.ctx.fn a).isNone with
    | some a => .park (.page a.toNat) (s.awaitPage .exit)
    | none =>
      let s := s.leaveJoins s.fr.pts joins
      let u := s.gp.uid
      let s := s.setGp { s.gp.leave with blkAt := s.now }
      let s := if s.gp.alive then s else
        let t := s.tm.releaseAll u s.gp.exitPts
        s.setTm { t with rings := t.rings.map fun r => r.groupGone u }
      .ok (((s.setTm s.tm.checkBarriers).stopSeq.phasesOver s.tm).xexit)) s

end Sys2Proof.Machine
end

