-- ==== Sys2Proof/Machine/Convert.lean ====
section
/-!
DEFINITION. Conversion (R147, R148) and quantization (R149, R52, R53).
-/
namespace Sys2Proof.Machine

/-- Entries popped and pushed by a conversion (R147). -/
def cvtPops (src dst : Ty) : Nat := if src = .f32 ∧ (dst = .h2 ∨ dst = .bh2) then 2 else 1
def cvtPushes (src dst : Ty) : Nat := if dst = .f32 ∧ (src = .h2 ∨ src = .bh2) then 2 else 1

/-- The value of one source operand (R147): an element of a packed type is given by its bits. -/
def cvtSource (src : Ty) (w : Word) : FVal :=
  if src.isInt then
    let z := intOf src w
    .fin (decide (z < 0)) z.natAbs 0
  else decodeTy src (operandBits src w)

/-- One conversion of a value to a float type, to i8 or to an integer type: the code placed in an entry, and flags. -/
def cvtTo (dst : Ty) (md : Rm) (u : Nat) (v : FVal) : Nat × Flags :=
  match dst with
  | .f64 => convertTo fmtF64 md u v
  | .f32 => convertTo fmtF32 md u v
  | .h2 => convertTo fmtF16 md u v
  | .bh2 => convertTo fmtBf16 md u v
  | .e4m3 => convertTo fmtE4m3 md u v
  | .e5m2 => convertTo fmtE5m2 md u v
  | .f4 => convertTo fmtF4 md u v
  | .ds8 => encodeDs8 v
  | .i8 =>
    let r := floatToInt md u (-128) 127 v
    ((r.1 % 256).toNat, r.2)
  | _ =>
    let r := floatToInt md u (intMin dst) (intMax dst) v
    ((r.1 % (2 ^ widthOf dst : Nat)).toNat, r.2)

/-- Whether a conversion rounds, and so takes a generator step in `rsr` (R147, R148). -/
def cvtRounds (src dst : Ty) : Bool :=
  if src.isInt then dst == .f32 || (wide src && dst == .f64)
  else !(dst == .ds8 || (dst == .f64) || (dst == .f32 && src != .f64))

/-- R147, R148. -/
def cvtOut (md : Rm) (src dst : Ty) (drm : Nat) (gen : Half) (ws : List Word) : NumOut :=
  if src.isInt ∧ dst.isInt then NumOut.pure [narrow dst md (intOf src (arg ws 0))] gen
  else
    let mode := if cvtRounds src dst then resolveMode md drm else .rne
    if cvtPops src dst = 2 then
      let (vs, fl, g) := roundElems mode (fun u k => cvtTo dst mode u (cvtSource src (arg ws k))) 2 0 gen
      { vals := [joinElems dst vs], fl := fl, gen := g }
    else if cvtPushes src dst = 2 then
      let (vs, fl, g) := roundElems mode
        (fun u k => cvtTo dst mode u (decodeTy src ((split src (arg ws 0)).getD k 0))) 2 0 gen
      { vals := vs.map (place dst), fl := fl, gen := g }
    else
      let (vs, fl, g) := roundElems mode (fun u k => cvtTo dst mode u (cvtSource src (arg ws k))) 1 0 gen
      { vals := vs.map (place dst), fl := fl, gen := g }

/-- R147, R148. -/
def execCvt (md : Rm) (src dst : Ty) (d : Bool) (s : State) : Host.Outcome State Fault Refusal :=
  numStep 6 d (cvtPops src dst) (cvtPushes src dst) (cvtOut md src dst) s

/-- The elements of a fragment's active lanes with their block numbers (R149): lane, block, element values. -/
def blockElems (src : Ty) (n : Nat) (ls : List Lane) : List (Nat × Nat × FVal) :=
  ls.flatMap fun l =>
    (List.range (elems src)).map fun i =>
      (l.ix, (elems src * l.ix + i) / n, decodeF (elemFmt src) ((split src (arg (valsOf 1 l.stk) 0)).getD i 0))

/-- One lane's quantized codes, scale byte and flags (R52, R53, R149). -/
def quantLane (dst : Ty) (all : List (Nat × Nat × FVal)) (ix : Nat) : Word × Word × Flags :=
  let mine := all.filter fun e => e.1 == ix
  let blk := ((mine.map fun e => e.2.1).head?).getD 0
  let members := (all.filter fun e => e.2.1 == blk).map fun e => e.2.2
  match blockScale dst members with
  | none => (0, 0xFF, fNV)
  | some sc =>
    let qs := mine.map fun e => quantIn dst members sc e.2.2
    let wd := if dst = .f4 then 4 else 8
    (BitVec.ofNat 64 ((qs.getD 0 (0, 0)).1 + (qs.getD 1 (0, 0)).1 * 2 ^ wd), BitVec.ofNat 64 sc,
      qs.foldl (fun a q => a ||| q.2) 0)

/-- R149: quantizes blocks of `2 * half` elements across the active lanes. -/
def execQcvt (src dst : Ty) (half : BitVec 6) (s : State) : Host.Outcome State Fault Refusal :=
  laneStep 6 (fun s => s.withStack (.of 1 2) .none true fun s =>
    let all := blockElems src (2 * half.toNat) s.active
    let outs := s.active.map fun l => (l.ix, quantLane dst all l.ix)
    let out := fun ix => (outs.lookup ix).getD (0, 0, 0)
    let s := s.mapActive fun l => { l with lcw := orFlags l.lcw (out l.ix).2.2 }
    .ok ((s.replaceLanes 1 2 fun l => [Entry.plain (out l.ix).1, Entry.plain (out l.ix).2.1]).finish 6)) s

end Sys2Proof.Machine
end

