-- ==== Sys2Proof/Machine/MatrixOps.lean ====
section
/-!
DEFINITION. What matrix operations share: tile views and their lining (R48 to R51, R237, R252, R253), the checks of R275 in
their order, the waits of R273, classes and chunks (R54), and starting and completing an operation (R232, R233, R272).
-/
namespace Sys2Proof.Machine

/-! ### Tile views -/

/-- The element type of a TY code (R113). -/
def tyOfCode : Nat → Ty
  | 3 => .f32
  | 8 => .h2
  | 9 => .bh2
  | 10 => .e4m3
  | 11 => .e5m2
  | 12 => .f4
  | 13 => .ds8
  | 14 => .i8
  | _ => .b32

/-- The TY code of a type. -/
def codeOfTy : Ty → Nat
  | .b32 => 0
  | .i32 => 1
  | .n32 => 2
  | .f32 => 3
  | .b64 => 4
  | .i64 => 5
  | .n64 => 6
  | .f64 => 7
  | .h2 => 8
  | .bh2 => 9
  | .e4m3 => 10
  | .e5m2 => 11
  | .f4 => 12
  | .ds8 => 13
  | .i8 => 14

/-- Half bytes of an element of a grain type: one element of the packed types (R48). -/
def grainNibs : Ty → Nat
  | .h2 | .bh2 => 4
  | .e4m3 | .e5m2 | .ds8 | .i8 => 2
  | .f4 => 1
  | _ => 8

/-- The type of a view. -/
def TileView.type (v : TileView) : Ty := tyOfCode v.ty

/-- Half bytes of an element. -/
def TileView.nibs (v : TileView) : Nat := grainNibs v.type

/-- The half-byte address of element (r, c) (R253). -/
def TileView.nibAt (v : TileView) (r c : Nat) : Nat := 2 * (v.base + r * v.rs * 16) + c * v.nibs

/-- The grain of element (r, c) (R48). -/
def TileView.grain (v : TileView) (r c : Nat) : Nat := (v.nibAt r c / 2 - v.base) / 16

/-- Whether the view's lining shift is one of R49's. -/
def TileView.shiftOk (v : TileView) : Bool := decide (3 ≤ v.lshift) && decide (v.lshift ≤ 15)

/-- The address of a grain's lining entry (R49). -/
def TileView.entry (v : TileView) (g : Nat) : Nat := v.lbase + (g * 16 / 2 ^ v.lshift) / 2 * 2

/-- A tile view of the focused team. -/
def State.tileView (s : State) (t : Nat) : TileView := s.seq.tv.getD t TileView.empty

/-- A region of a view that an operation reads or writes: `rows` rows of `cols` columns. -/
structure Tile where
  v    : TileView
  rows : Nat
  cols : Nat
  wr   : Bool

/-- The elements of a region in row-major order. -/
def cellsOf (rows cols : Nat) : List (Nat × Nat) := (List.range rows).flatMap fun r => (List.range cols).map fun c => (r, c)

/-- Rows beyond their stride (R253). -/
def Tile.tooWide (x : Tile) : Bool := decide (x.v.rs * 32 < x.cols * x.v.nibs)

/-- The lining entries of a region, when its lining is enabled (R237). -/
def Tile.entries (x : Tile) : List Nat :=
  if x.v.lin && x.v.shiftOk then ((cellsOf x.rows x.cols).map fun e => x.v.entry (x.v.grain e.1 e.2)).dedup else []

/-- Whether bytes lie in a space of a tile view: c, w or d (R252). -/
def Team.tileSpace (t : Team) (sp a len : Nat) : Bool := sp != 0 && t.inSpace sp a len

/-- The first address of a region outside its space, or of a lining entry outside its own or on a page that maps no memory (R60, R253, R275
step 5). -/
def State.tileOut (s : State) (x : Tile) : Option Nat :=
  (((List.range x.rows).map fun r => x.v.base + r * x.v.rs * 16).find? fun a =>
      !s.tm.tileSpace x.v.sp a ((x.cols * x.v.nibs + 1) / 2)).orElse fun _ =>
    x.entries.find? fun a => s.outside x.v.lsp a 2

/-- ALIGN of a region (R48, R49, R275 step 6). -/
def Tile.misaligned (x : Tile) : Option Nat :=
  if x.v.base % 16 ≠ 0 then some x.v.base else if x.v.lin ∧ x.v.lbase % 2 ≠ 0 then some x.v.lbase else none

/-- A place an operation touches: space and key, and the address by which it is named in a record. -/
abbrev Touch := (Nat × Nat) × Nat

/-- Where an address of a space lies for the focused team. -/
def State.myPlace (s : State) (sp a : Nat) : Option (Nat × Nat) := s.placeOf s.teamRef s.tm.cluster s.tm.home sp a

/-! ### Grains (R50, R51) -/

/-- A grain's format, none for a zero grain, its scale byte where one applies, and its lining entry's address. -/
structure Grain where
  ty    : Option Ty
  scale : Option Nat
  ent   : Nat
  deriving DecidableEq, Repr

/-- The format of a lining code (R50). -/
def liningTy : Nat → Option Ty
  | 1 => some .e4m3
  | 2 => some .e5m2
  | 3 => some .f4
  | 4 => some .ds8
  | 5 => some .bh2
  | 6 => some .h2
  | 7 => some .i8
  | _ => none

/-- The lining code of a format (R250). -/
def liningCode : Ty → Nat
  | .e4m3 => 1
  | .e5m2 => 2
  | .f4 => 3
  | .ds8 => 4
  | .bh2 => 5
  | .h2 => 6
  | .i8 => 7
  | _ => 0

/-- Whether a view's TY may be read as raw grains (R51). -/
def rawOk (ty : Ty) : Bool := ty == .f32 || ty == .h2 || ty == .bh2 || ty.isNarrow

/-- Reads grain `g` of a view; the error is the address of its lining entry (R50, R51, MFMT). Where there is no entry to name, MFMT carries
LBASE for an invalid LSHIFT and 0 for a raw grain of a view without lining (DESIGN CHOICE, log entry 68). -/
def State.grainAt (s : State) (v : TileView) (g : Nat) : Except Nat Grain :=
  let raw := fun ent => if rawOk v.type then Except.ok { ty := some v.type, scale := none, ent := ent } else .error ent
  if !v.lin then raw 0
  else if !v.shiftOk then .error v.lbase
  else
    let ent := v.entry g
    match s.myPlace v.lsp ent with
    | none => .error ent
    | some p =>
      let byte := fun i => (s.seenByte (dieOf s.tm.core) p.1 (p.2 + i)).toNat
      if byte 0 = 0 then raw ent
      else if byte 0 = 0xFE then .ok { ty := none, scale := none, ent := ent }
      else match liningTy (byte 0) with
        | some t => if grainNibs t = v.nibs then .ok { ty := some t, scale := some (byte 1), ent := ent } else .error ent
        | none => .error ent

/-- Whether element (r, c) lies in a zero grain, whose data is not read (R50). -/
def State.zeroAt (s : State) (v : TileView) (r c : Nat) : Bool :=
  v.lin && match s.grainAt v (v.grain r c) with
    | .ok g => g.ty.isNone
    | .error _ => false

/-- The places of a region's elements; where it is read, those of zero grains stay out (R50). -/
def State.tilePlaces (s : State) (x : Tile) : List Touch :=
  (cellsOf x.rows x.cols).filterMap fun e =>
    let a := x.v.nibAt e.1 e.2 / 2
    if !x.wr && s.zeroAt x.v e.1 e.2 then none else (s.myPlace x.v.sp a).map fun p => (p, a)

/-- The places of a region's lining entries. -/
def State.entryPlaces (s : State) (x : Tile) : List Touch := x.entries.filterMap fun a => (s.myPlace x.v.lsp a).map fun p => (p, a)

/-- The lines of places. -/
def linesOf (ps : List Touch) : List LineId := (ps.map fun p => (p.1.1, lineOf p.1.2)).dedup

/-! ### Checks and waits (R273, R275) -/

/-- Steps 5 and 6 of R275. -/
def State.tileFault (s : State) (xs : List Tile) : Option Bad :=
  ((xs.findSome? s.tileOut).map fun a => ((.space, a) : Bad)).orElse fun _ =>
    (xs.findSome? Tile.misaligned).map fun a => (.align, a)

/-- The lines that regions read and write: elements and lining entries. -/
def State.readPlaces (s : State) (xs : List Tile) : List Touch :=
  xs.flatMap fun x => if x.wr then [] else s.tilePlaces x ++ s.entryPlaces x
def State.writePlaces (s : State) (xs : List Tile) : List Touch :=
  xs.flatMap fun x => if x.wr then s.tilePlaces x ++ s.entryPlaces x else []

/-- The places of written regions that the operation reads first: lining entries, which its checks read, and bytes of which an f4 element
takes one half (R265, R266, R277; DEDUCED, log entry 68). -/
def State.rereadPlaces (s : State) (xs : List Tile) : List Touch :=
  xs.flatMap fun x => if x.wr then (if x.v.nibs = 1 then s.tilePlaces x else []) ++ s.entryPlaces x else []

/-- Rules 1 and 2 of R273: an absent line, or an engine's range; and the edge of an island or a self-test (R346, R352, R373). -/
def State.linesWait (s : State) (rd wr : List LineId) : Bool :=
  ((rd ++ wr).any fun x => (x.1 == 2 && s.absent.contains x.2) || s.edgeHeld x || s.underTest x) ||
    (s.ops.any fun o => (rd ++ wr).any fun x => o.lockedDst.any fun p => p.has x) ||
    (s.ops.any fun o => wr.any fun x => o.src.any fun p => p.has x)

/-- Whether accumulator slots that an operation names are under self-test (R373). -/
def State.slotsWait (s : State) (ns : List Nat) : Bool := ns.any fun n => s.underTest (s.accKey n)

/-- ECCU of an accumulator slot that an operation reads; the slot's number stands for the address (R371; DESIGN CHOICE, log entry 68). -/
def State.slotsBad (s : State) (ns : List Nat) : Option Bad := (ns.find? fun n => (s.accSlot n).bad).map fun n => (.eccu, n)

/-- The global lining entries of regions that a page holds and that are not resident: the operation waits for the pager (R221, R273, R275
step 7). -/
def State.liningMiss (s : State) (xs : List Tile) : List Nat :=
  xs.flatMap fun x => if x.v.lsp = 0 then x.entries.filter fun a => (s.physOf s.ctx.fn a).isNone && !s.pageFails s.ctx.fn a else []

/-- Step 8 of R275: PAGE, PROT and REGION of global lining. -/
def State.liningFault (s : State) (xs : List Tile) : Option Bad :=
  let ents := xs.flatMap fun x => if x.v.lsp = 0 then x.entries.map fun a => (a, x.wr) else []
  let first := fun (c : Code) (p : PageEntry → Bool → Bool) =>
    (ents.find? fun e => match s.pageOf s.ctx.fn e.1 with
      | some q => p q e.2
      | none => false).map fun e => ((c, e.1) : Bad)
  ((ents.find? fun e => s.pageFails s.ctx.fn e.1).map fun e => ((.page, e.1) : Bad)).orElse fun _ =>
    (first .prot fun q w => if w then !q.w else !q.r).orElse fun _ => first .region fun q w => regionBad s.tm q w

/-! ### The scale cache (R238) -/

/-- The block of 64 bytes of lining in which a byte of global memory lies. -/
def blockOf (pa : Nat) : Nat := pa / 64

/-- Whether a place is served by a block of a list. -/
def servedBy (hits : List ScaleBlock) (p : Touch) : Bool := p.1.1 == 0 && hits.any fun b => b.block == blockOf p.1.2

/-- Step 12 of R275: a poisoned line that is read, or a block of the scale cache with an error (R371). -/
def State.poisonFault (s : State) (hits : List ScaleBlock) (rd : List Touch) : Option Bad :=
  (rd.find? fun p =>
    if servedBy hits p then hits.any fun b => b.block == blockOf p.1.2 && b.bad else s.poison.contains (p.1.1, lineOf p.1.2)).map fun p =>
      (.eccu, p.2)

/-- Whether reads of a line take a lease: it lies in a coherent page (R62, R66). -/
def State.leasedLine (s : State) (x : LineId) : Bool :=
  x.1 == 0 && s.pages.any fun p => p.region == 0 && decide (p.pa ≤ x.2 * 128) && decide (x.2 * 128 < p.pa + 2 ^ p.log2)

/-- Whether the scale cache may hold a block of a global line for the focused team: one of a coherent or a read-shared page, or of a private page
whose cluster has one core (R62, R238). -/
def State.scaleCached (s : State) (x : LineId) : Bool :=
  !s.hostDirected (x.2 * 128) && (!s.keepsStamps x || s.leasedLine x || s.tm.lp.cw * s.tm.lp.ch == 1)

/-- The global lining that regions read, by its places. -/
def State.scalePlaces (s : State) (xs : List Tile) : List Touch :=
  (xs.flatMap fun x => if x.wr then [] else s.entryPlaces x).filter fun p => p.1.1 == 0

/-- Memory as an operation sees it whose lining the blocks `hits` serve. -/
def State.withScales (s : State) (hits : List ScaleBlock) : State := hits.foldl (fun s b => s.putBytes 0 (64 * b.block) b.bytes) s

/-- The stamp before an operation's lines: a cached block's wts stands for its line's (R66, R238). -/
def scaleStamp (pts : Nat) (hits : List ScaleBlock) : Nat := hits.foldl (fun t b => if b.shared then t else max t b.wts) pts

/-- The lines that keep stamps. -/
def State.stampedOf (s : State) (xs : List LineId) : List LineId := xs.filter s.keepsStamps

/-- The blocks that serve an operation on regions: one whose rts lies below the operation's stamp is renewed at its home, and the stamp is
computed again (R66, R238). -/
def State.scaleHits (s : State) (xs : List Tile) : Nat → List ScaleBlock → List ScaleBlock
  | 0, hits => hits
  | n + 1, hits =>
    let u := s.withScales hits
    let home := (u.readPlaces xs).filter fun p => !servedBy hits p
    let t := s.eventStamp (scaleStamp s.seq.pts hits) (s.stampedOf (linesOf home)) (s.stampedOf (linesOf (u.writePlaces xs)))
    let keep := hits.filter fun b => b.shared || decide (t ≤ b.rts)
    if keep.length = hits.length then hits else s.scaleHits xs n keep

/-- The blocks of the core's scale cache that hold lining of regions and that it still holds (Config.scaleKept, log entry 69), and of them those
that serve an operation. -/
def State.scalesFor (s : State) (xs : List Tile) : List ScaleBlock :=
  let want := (s.scalePlaces xs).map fun p => blockOf p.1.2
  let cs := s.scales.filter fun b => b.core == s.tm.core && want.contains b.block && Config.scaleKept s.ticks b.block
  if cs.isEmpty then [] else s.scaleHits xs (cs.length + 1) cs

/-- A core's scale cache receives blocks; it holds 64, the newest first (R238, log entry 69). -/
def State.fillScales (s : State) (core : Nat) (bs : List ScaleBlock) : State :=
  let new := bs.take 64
  let mine := s.scales.filter fun b => b.core == core && !(new.any fun c => c.block == b.block)
  { s with scales := new ++ mine.take (64 - new.length) ++ s.scales.filter fun b => b.core != core }

/-- The blocks that an operation has read at their homes, from the places `home`, fill the scale cache with the lines' stamps (R238). -/
def State.keepScales (s : State) (home : List Touch) : State :=
  let bs := ((home.filter fun p => p.1.1 == 0 && s.scaleCached (0, lineOf p.1.2)).map fun p => blockOf p.1.2).dedup
  if bs.isEmpty then s
  else s.fillScales s.tm.core (bs.map fun b =>
    let x : LineId := (0, b / 2)
    { core := s.tm.core, block := b, wts := (s.stampOf x).wts, rts := (s.stampOf x).rts, shared := !s.keepsStamps x, bad := false
      bytes := s.bytesAt 0 (64 * b) 64 })

/-- Whether a block of the core's scale cache that regions need is under self-test (R373). -/
def State.scalesWait (s : State) (xs : List Tile) : Bool :=
  (s.scalePlaces xs).any fun p => s.underTest (scaleMem, cacheKey s.tm.core (blockOf p.1.2))

/-! ### Values of elements (R50, R51) -/

/-- The first MFMT of a region that is read (R51). -/
def State.grainFault (s : State) (x : Tile) : Option Bad :=
  (cellsOf x.rows x.cols).findSome? fun e => match s.grainAt x.v (x.v.grain e.1 e.2) with
    | .error a => some (.mfmt, a)
    | .ok _ => none

/-- A decoded element with its scale (R50). -/
def scaled (g : Grain) (w : Nat) : FVal :=
  match g.ty with
  | none => .fin false 0 0
  | some t =>
    match g.scale with
    | none => decodeTy t w
    | some 0xFF => .nan false
    | some sc => match decodeTy t w with
      | .fin n m e => .fin n m (e + ((sc : Int) - 127))
      | x => x

/-- The value of element (r, c) of a view. -/
def State.elemVal (s : State) (v : TileView) (r c : Nat) : FVal :=
  match s.grainAt v (v.grain r c), s.myPlace v.sp (v.nibAt r c / 2) with
  | .ok g, some p => if g.ty.isNone then .fin false 0 0 else scaled g (s.readElem (dieOf s.tm.core) p (v.nibAt r c % 2) v.nibs).1
  | _, _ => .nan false

/-! ### Classes (R54) -/

/-- The classes, slowest first: rate in MACs per cycle, chunk and collar units (R54, R349). -/
structure Class where
  rank  : Nat
  rate  : Nat
  chunk : Nat
  units : Nat

def w32 : Class := ⟨0, 4096, 4, 6⟩
def w16 : Class := ⟨1, 16384, 16, 6⟩
def w8d : Class := ⟨2, 32768, 16, 6⟩
def w8 : Class := ⟨3, 32768, 32, 8⟩
def w4 : Class := ⟨4, 65536, 64, 10⟩

/-- The class of a pair of formats; none where an i8 grain meets another format (R54). -/
def pairClass (a b : Ty) : Option Class :=
  let is16 := fun (t : Ty) => t == .h2 || t == .bh2
  let two := fun (x y : Ty) => (a == x && b == y) || (a == y && b == x)
  if a = .i8 ∨ b = .i8 then (if a = b then some w8 else none)
  else if a = .f32 ∨ b = .f32 then some w32
  else if two .ds8 .bh2 then some w8d
  else if is16 a || is16 b then some w16
  else if two .f4 .f4 || two .ds8 .e4m3 || two .ds8 .ds8 || two .ds8 .f4 then some w4
  else some w8

/-- The slower of two classes. -/
def Class.slower (a b : Class) : Class := if b.rank < a.rank then b else a

/-- The class of an operation from the grains that meet at each k, or the entry that raises MFMT; with zero grains only it is
the class of the types of its views (R54). Views of i8 and another format have no class then: MFMT, with detail 0 (DESIGN CHOICE, log
entry 68). -/
def opClass (pairs : List (Grain × Grain)) (ta tb : Ty) : Except Nat Class :=
  let step := fun (acc : Except Nat (Option Class)) (p : Grain × Grain) => acc.bind fun c =>
    match p.1.ty, p.2.ty with
    | some a, some b => match pairClass a b with
      | some k => .ok (some (match c with
        | some c => c.slower k
        | none => k))
      | none => .error (if a = .i8 then p.1.ent else p.2.ent)
    | _, _ => .ok c
  (pairs.foldl step (.ok none)).bind fun c => match c with
    | some c => .ok c
    | none => match pairClass ta tb with
      | some k => .ok k
      | none => .error 0

/-! ### Starting and completing (R231 to R233, R272) -/

/-- What preparing an operation comes to: a fault of steps 1 to 6 of R275 or of an ended ring; a wait with the lining addresses that the pager is
to make resident; a fault of the later steps, which is raised only once every wait of step 7 is over, that for the array among them (R237,
R274, R275); or a start with the units it asks of the collar, what its completion does, the places it reads, and the blocks of the scale cache
that serve it. -/
inductive Prep where
  | fault (c : Code) (detail : Nat)
  | wait (vas : List Nat)
  | late (c : Code) (detail : Nat)
  | go (units : Nat) (f : Flight) (rd : List Touch) (hits : List ScaleBlock)

/-- A prepared operation, with what preparing it changed: a ring slot that it has taken (R260). -/
abbrev Prepared := State × Prep

/-- A flight that changes nothing but its stamps. -/
def Flight.of (s : State) : Flight :=
  { tiles := [], writes := [], reads := [], gen := s.seq.gen, lp := none, free := none, table := none, gs := none }

/-- A fault as a preparation, and one of the steps after the waits. -/
def Prep.bad (b : Bad) : Prep := .fault b.1 b.2
def Prep.badLate (b : Bad) : Prep := .late b.1 b.2

/-- The steps of R275 common to every operation, for the regions `xs` and the accumulator slots `ns`, of which it reads `rs`: SPACE, ALIGN,
the waits, lining, the operation's own checks and result, and ECCU; lining is read through the scale cache (R238). -/
def State.prepTiles (s : State) (xs : List Tile) (ns rs : List Nat) (own : State → Except Bad (Nat × Flight)) : Prep :=
  match s.tileFault xs with
  | some b => .bad b
  | none =>
    let hits := s.scalesFor xs
    let u := s.withScales hits
    let rd := u.readPlaces xs
    let wr := u.writePlaces xs
    let miss := s.liningMiss xs
    if s.linesWait (linesOf rd) (linesOf wr) || s.slotsWait ns || s.scalesWait xs || !miss.isEmpty then .wait miss
    else match s.liningFault xs with
      | some b => .badLate b
      | none =>
        match (xs.filter fun x => !x.wr).findSome? u.grainFault with
        | some b => .badLate b
        | none => match own u with
          | .error b => .badLate b
          | .ok r => match (s.poisonFault hits (rd ++ u.rereadPlaces xs)).orElse fun _ => s.slotsBad rs with
            | some b => .badLate b
            | none => .go r.1 r.2 rd hits

/-- The stamp is taken at the start: lines read and written are stamped, those that a block of the scale cache serves apart, and the sequencer's
pts follows (R233, R238); the blocks read at their homes fill the scale cache. `mguide` has read LP and leaves it 0b11 (R244). -/
def State.startStamp (s : State) (f : Flight) (rd : List Touch) (hits : List ScaleBlock) : State :=
  let home := rd.filter fun p => !servedBy hits p
  let lines := s.stampedOf (linesOf home)
  let wr := s.stampedOf ((f.writes.map fun w => (w.sp, lineOf w.key)).dedup)
  let s := s.setSeq { s.seq with lp := f.lp.getD s.seq.lp, took := none }
  if lines.isEmpty && wr.isEmpty && hits.isEmpty then s.keepScales home
  else
    let (s', t) := s.stampEvent (scaleStamp s.seq.pts hits) s.lease (lines.filter fun x => !s.leasedLine x) (lines.filter s.leasedLine) wr
    (s'.setSeq { s'.seq with pts := t }).keepScales home

/-- A tile written to a slot; a slot written whole has only the error that the tile carries (R371). -/
def AccSlot.write (a : AccSlot) (x : TileWrite) : AccSlot := { a with tile := x.tile, bad := x.bad || (a.bad && !x.whole) }

/-- COMPLETION of an operation (R272): tiles and bytes are written together, a ring slot is freed, tables, scale and
generator take their new values, and the sequencer goes on. -/
def State.complete1 (s : State) (f : Flight) : State :=
  let s := s.putWrites f.writes
  let t := s.tm
  let acc := f.tiles.foldl (fun (a : List AccSlot) (x : TileWrite) => a.modify x.slot fun y => y.write x) t.acc
  let rings := match f.free with
    | some (q, i) => t.rings.modify q fun r =>
      { r.setSlot i .free t.seq.pts with sub := r.sub.map fun d => { d with pts := max d.pts t.seq.pts } }
    | none => t.rings
  let held := match f.free with
    | some (q, _) => t.seq.held.filter fun h => h.1 != q
    | none => t.seq.held
  let tabs := match f.table with
    | some (n, x) => t.tabs.set n x
    | none => t.tabs
  let q := { t.seq with gen := f.gen, held := held, gs := f.gs.getD t.seq.gs, flight := none, array := false, units := 0, waitNs := s.now }
  s.setTm { t with acc := acc, rings := rings, tabs := tabs, seq := q.goTo (q.mpc + 8) }

/-- Another team of the core that uses or waits for the array (R232). -/
def State.arrayBusy (s : State) : Bool :=
  s.allTeams.any fun t => t.core == s.tm.core && t.ctx != s.tm.ctx && (t.seq.array || t.seq.flight.isSome || match t.seq.st with
    | .wres _ => true
    | _ => false)

/-- AN OPERATION that its sequencer reaches: it faults, waits in WRES, or, with the array and its reservation free, starts and
completes (R231, R232, R273, R275, R349). `array` says whether it uses the array at all. A fault of the steps after the waits is raised once the
array is free; it asks for no reservation (DESIGN CHOICE, log entry 68: without lining that can be read an operation has no class). -/
def opStep (i : Instr) (array : Bool) (prep : State → Prepared) (s : State) : Host.Outcome State Fault Refusal :=
  seqStep i (fun s =>
    let (s, p) := prep s
    match p with
    | .fault c d => .fault c d
    | .wait _ => .wait (.wres i) s
    | .late c d => if array && s.arrayBusy then .wait (.wres i) s else .fault c d
    | .go units f rd hits =>
      let isl := s.islandAt (islandOf s.tm.core)
      if array && (s.arrayBusy || !(isl.cq.isEmpty && isl.fits units)) then .wait (.wres i) s
      else .ok ((s.startStamp f rd hits).complete1 f)) s

/-- MSHAPE at step 4 or 11 of R275 (R276). -/
def mshape (step kq : Nat) : Bad := (.mshape, step + kq * 2 ^ 8)

/-- The size that MC or NC names; 0b11 is invalid (R249). -/
def sizeOf? : Fin 4 → Option Nat
  | 0 => some 16
  | 1 => some 32
  | 2 => some 64
  | 3 => none

/-- Sets an element of a tile. -/
def setCell (t : List Half) (r c : Nat) (w : Nat) : List Half := t.set (64 * r + c) (BitVec.ofNat 32 w)

/-- An element of a tile. -/
def cell (t : List Half) (r c : Nat) : Nat := (t.getD (64 * r + c) 0).toNat

/-- One rounding with the generator's step in `rsr` (R45, R258). -/
def roundStep (md : Rm) (gen : Half) (f : Nat → Nat × Flags) : Nat × Half :=
  let (u, g) := genFor md gen
  ((f u).1, g)

/-- Folds a rounding over elements in row-major order. -/
def roundAll (md : Rm) (f : Nat × Nat → Nat → Nat × Flags) : List (Nat × Nat) → Half → List ((Nat × Nat) × Nat) × Half
  | [], gen => ([], gen)
  | e :: es, gen =>
    let (v, g) := roundStep md gen (f e)
    let (vs, g') := roundAll md f es g
    ((e, v) :: vs, g')

/-- The byte writes of an element of `nibs` half bytes; a half byte keeps the other one of its byte (R265). -/
def State.elemWrites (s : State) (acc : List ByteWrite) (p : Nat × Nat) (nib nibs v : Nat) : List ByteWrite :=
  if nibs = 1 then
    let old := (match acc.reverse.find? fun (w : ByteWrite) => w.sp == p.1 && w.key == p.2 with
      | some w => w.val
      | none => s.byteAt p.1 p.2).toNat
    acc ++ [{ sp := p.1, key := p.2, val := BitVec.ofNat 8 (old - old / 16 ^ nib % 16 * 16 ^ nib + v * 16 ^ nib) }]
  else acc ++ (List.range (nibs / 2)).zipWith (fun i b => { sp := p.1, key := p.2 + i, val := b }) (toBytes (nibs / 2) v)

/-- The writes of a list of elements of a view, each with its code. -/
def State.tileWrites (s : State) (v : TileView) (es : List ((Nat × Nat) × Nat)) : List ByteWrite :=
  es.foldl (fun acc e => match s.myPlace v.sp (v.nibAt e.1.1 e.1.2 / 2) with
    | some p => s.elemWrites acc p (v.nibAt e.1.1 e.1.2 % 2) v.nibs e.2
    | none => acc) []

/-- The write of a lining entry: code byte, then scale byte (R49). -/
def State.entryWrite (s : State) (v : TileView) (ent code scale : Nat) : List ByteWrite :=
  match s.myPlace v.lsp ent with
  | some p => [{ sp := p.1, key := p.2, val := BitVec.ofNat 8 code }, { sp := p.1, key := p.2 + 1, val := BitVec.ofNat 8 scale }]
  | none => []

end Sys2Proof.Machine
end

