-- ==== Sys2Proof/Machine/Matrix.lean ====
section
/-!
DEFINITION. The matrix stream: products (R259 to R262), moving tiles (R263 to R266), setup (R252 to R258), the yoke (R242 to
R244, R267, R268), meetings and control (R234 to R236, R269 to R271), and the events of the array (R231, R232).
-/
namespace Sys2Proof.Machine

/-! ### Products -/

/-- The fields that `mma` and `mmay` share (R249, R259, R262). -/
structure Shape where
  kq   : Nat
  nc   : Fin 4
  mc   : Fin 4
  tb   : Bool
  ta   : Bool
  zero : Bool
  rev  : Bool
  alg  : Nat

/-- The dimension that ALG names (R256, R259). -/
def State.algDim (s : State) (alg : Nat) : Nat := if alg = 0 then 1 else (s.tm.tabs.getD (alg - 1) AlgTable.empty).dim

/-- The region of view A: M by K elements of `d` components (R253). -/
def Shape.aTile (x : Shape) (v : TileView) (m d : Nat) : Tile :=
  if x.ta then { v := v, rows := 4 * x.kq, cols := m * d, wr := false } else { v := v, rows := m, cols := 4 * x.kq * d, wr := false }

/-- The region of view B: K by N elements. -/
def Shape.bTile (x : Shape) (v : TileView) (n d : Nat) : Tile :=
  if x.tb then { v := v, rows := n, cols := 4 * x.kq * d, wr := false } else { v := v, rows := 4 * x.kq, cols := n * d, wr := false }

/-- Row and column of component `c` of A's element (m, k) and of B's element (k, n) (R253). -/
def Shape.aAt (x : Shape) (d m k c : Nat) : Nat × Nat := if x.ta then (k, m * d + c) else (m, k * d + c)
def Shape.bAt (x : Shape) (d k n c : Nat) : Nat × Nat := if x.tb then (n, k * d + c) else (k, n * d + c)

/-- An element straddles a grain (R57). -/
def straddles (d nibs : Nat) : Bool := decide (32 < d * nibs)

/-- One operand: the grain and the value of component `c` of element (i, j). -/
structure Factor where
  grain : Nat → Nat → Grain
  val   : Nat → Nat → Nat → FVal

/-- The grain of an element, raw where it cannot be read. -/
def State.grainOr (s : State) (v : TileView) (r c : Nat) : Grain :=
  match s.grainAt v (v.grain r c) with
  | .ok g => g
  | .error e => { ty := none, scale := none, ent := e }

/-- A as read through a view (R253). -/
def State.viewA (s : State) (x : Shape) (v : TileView) (d : Nat) : Factor :=
  { grain := fun m k => s.grainOr v (x.aAt d m k 0).1 (x.aAt d m k 0).2
    val := fun m k c => s.elemVal v (x.aAt d m k c).1 (x.aAt d m k c).2 }

/-- B as read through a view (R253). -/
def State.viewB (s : State) (x : Shape) (v : TileView) (d : Nat) : Factor :=
  { grain := fun k n => s.grainOr v (x.bAt d k n 0).1 (x.bAt d k n 0).2
    val := fun k n c => s.elemVal v (x.bAt d k n c).1 (x.bAt d k n c).2 }

/-- One grain of each format of a list. -/
def distinctTy (gs : List Grain) : List Grain :=
  gs.foldl (fun acc g => if acc.any fun h => h.ty == g.ty then acc else acc ++ [g]) []

/-- The grain pairs of a product, one for each pair of formats that meets at a k. -/
def pairsOf (m n k : Nat) (a b : Factor) : List (Grain × Grain) :=
  (List.range k).flatMap fun j =>
    let bs := distinctTy ((List.range n).map fun i => b.grain j i)
    (distinctTy ((List.range m).map fun i => a.grain i j)).flatMap fun g => bs.map fun h => (g, h)

/-- The terms of component `c` of a cell at one k (R55, R57). -/
def termsAt (alg : Nat) (tab : AlgTable) (d : Nat) (rev : Bool) (c : Nat) (a b : Nat → FVal) : List FVal :=
  if alg = 0 then [mulV (a 0) (b 0)] else algTerms tab.bytes d rev c a b

/-- One chunk added to an accumulator element (R55, R56). -/
def addChunk (acc : Nat) (terms : List FVal) : Nat :=
  (addF fmtF32 .rne 0 (decodeF fmtF32 acc) (decodeF fmtF32 (roundSum .rne 0 (sumV terms)).1)).1

/-- The product accumulated into a tile (R55, R57, R259). -/
def product (x : Shape) (m n d chunk : Nat) (tab : AlgTable) (a b : Factor) (old : List Half) : List Half :=
  (List.range 4096).map fun i =>
    let r := i / 64
    let col := i % 64
    if r < m ∧ col < n * d then
      let c := col % d
      let start := if x.zero then 0 else cell old r col
      BitVec.ofNat 32 ((List.range (4 * x.kq / chunk)).foldl (fun acc j =>
        addChunk acc ((List.range chunk).flatMap fun k =>
          termsAt x.alg tab d x.rev c (a.val r (j * chunk + k)) (b.val (j * chunk + k) (col / d)))) start)
    else old.getD i 0

/-- MSHAPE of step 11: the chunk and the bound of 4,096 array cycles (R232, R259). -/
def classFault (kq macs : Nat) (c : Class) : Option Bad :=
  if 4 * kq % c.chunk ≠ 0 ∨ 4096 < (macs + c.rate - 1) / c.rate then some (mshape 11 kq) else none

/-- The step 4 checks of a product's views (R253, R259): strides and straddled grains. -/
def viewsBad (d : Nat) (ts : List Tile) : Bool := ts.any fun t => t.tooWide || straddles d t.v.nibs

/-- The format that a DCF code names (R250). -/
def dcfTy : Dcf → Ty
  | .f32 => .f32
  | .bf16 => .bh2
  | .e4m3 => .e4m3
  | .ds8 => .ds8
  | .f16 => .h2
  | .e5m2 => .e5m2
  | .f4 => .f4
  | .i8 => .i8

/-- The conversion of an accumulator element to a format (R42, R147, R148, R265): f32 keeps the bits of all but a NaN, which becomes
canonical. -/
def downConvert (t : Ty) (md : Rm) (u w : Nat) : Nat × Flags :=
  if t = .f32 then (match decodeF fmtF32 w with
    | .nan _ => (fmtF32.nanCode, 0)
    | _ => (w, 0))
  else cvtTo t md u (decodeF fmtF32 w)

/-- The mode whose generator steps count: a conversion that does not round steps none (R45, R258); one to f32 rounds nothing, since R147 lists no
conversion of f32 to itself (DESIGN CHOICE, log entry 68). -/
def stepMode (t : Ty) (md : Rm) : Rm := if cvtRounds .f32 t then md else .rne

/-- A accumulator slot read through the down-converter: the codes of its M by K elements in row-major order, and the
generator after them (R258, R259). -/
def Shape.slotA (x : Shape) (tile : List Half) (m d : Nat) (t : Ty) (md : Rm) (gen : Half) : List Nat × Half :=
  let es := cellsOf m (4 * x.kq * d)
  let r := roundAll (stepMode t md) (fun e u =>
    let p := x.aAt d e.1 (e.2 / d) (e.2 % d)
    downConvert t md u (cell tile p.1 p.2)) es gen
  (r.1.map (·.2), r.2)

/-- The operand made of such codes. -/
def codesA (codes : List Nat) (k d : Nat) (t : Ty) : Factor :=
  { grain := fun _ _ => { ty := some t, scale := none, ent := 0 }
    val := fun m j c => decodeTy t (codes.getD (m * (k * d) + j * d + c) 0) }

/-- The matrix side's hold on the head slot of a ring (R260): the state after it and the slot; the error is a wait, or
RINGST. What the operation needs to give the slot back is kept until it starts. -/
def State.takeHead (s : State) (q : Nat) : State × Except Bool Nat :=
  match s.seq.held.find? fun h => h.1 == q with
  | some h => (s, .ok h.2)
  | none =>
    let r := s.tm.ringAt q
    if r.slots = 0 then (s, .error true)
    else match if r.drain.isSome then [] else r.queue with
      | i :: rest =>
        let s := s.setRing q { r.setSlot i .takenMat 0 with queue := rest, taken := true }
        (s.setSeq { s.seq with held := s.seq.held ++ [(q, i)], took := some (q, i, r.spts.getD i 0, r.taken) }, .ok i)
      | [] => (s, .error r.allEos)

/-- The step 4 checks of `mma` (R249, R253, R259, R275). -/
def State.mmaShape (s : State) (x : MmaArgs) (sh : Shape) (vb : TileView) : Except Bad (Nat × Nat × Nat) :=
  let d := s.algDim sh.alg
  let bad := mshape 4 sh.kq
  match sizeOf? sh.mc, sizeOf? sh.nc with
  | some m, some n =>
    let a := sh.aTile (s.tileView x.a) m d
    let wide := if x.aa then decide (64 < 4 * sh.kq) || decide (64 < a.cols) || straddles d (grainNibs (dcfTy x.dcf)) else viewsBad d [a]
    if sh.kq = 0 ∨ wide ∨ 64 < n * d ∨ viewsBad d [sh.bTile vb n d] then .error bad else .ok (m, n, d)
  | _, _ => .error bad

/-- The fields of `mma` as a shape. -/
def mmaShapeOf (x : MmaArgs) : Shape :=
  { kq := x.kq.toNat, nc := x.nc, mc := x.mc, tb := x.tb, ta := x.ta, zero := x.zero, rev := x.rev, alg := x.alg }

/-- The product of `mma` itself, once every operand can be read (R259). Where A is an accumulator slot, which no view describes, and every pair holds
a zero grain, the class is that of DCF's format and of B's TY (R54 speaks of two views; DESIGN CHOICE, log entry 68). -/
def State.mmaRun (s : State) (x : MmaArgs) (sh : Shape) (m n d : Nat) (vb : TileView) (slot : Option Nat) :
    Except Bad (Nat × Flight) :=
  let k := 4 * sh.kq
  let b := s.viewB sh vb d
  let t := dcfTy x.dcf
  let conv := sh.slotA (s.accSlot x.a).tile m d t x.rm s.seq.gen
  let a := if x.aa then codesA conv.1 k d t else s.viewA sh (s.tileView x.a) d
  let ta := if x.aa then t else (s.tileView x.a).type
  match opClass (pairsOf m n k a b) ta vb.type with
  | .error e => .error (.mfmt, e)
  | .ok c => match classFault sh.kq (m * n * k * d * d) c with
    | some e => .error e
    | none =>
      let tab := s.tm.tabs.getD (sh.alg - 1) AlgTable.empty
      .ok (c.units, { Flight.of s with
        tiles := [{ slot := x.c.val, tile := product sh m n d c.chunk tab a b (s.accSlot x.c).tile, whole := sh.zero && m * (n * d) == 4096 }]
        gen := if x.aa then conv.2 else s.seq.gen
        free := if x.rd then slot.map fun i => (x.b.val, i) else none })

/-- Preparing `mma` (R259, R260, R275). With a ring operand, steps 5 and 6 of A come first, then the ring wait and RINGST, then steps 5 and 6 of
B at the slot's offset, then the other waits and the steps after them (DEDUCED, log entry 68: R275 puts RINGST before steps 5 and 6 of that
operand and does not say whether A's step 8 comes before it). -/
def mmaPrep (x : MmaArgs) (s : State) : Prepared :=
  let sh := mmaShapeOf x
  match (s.mtok x.c).orElse fun _ => if x.aa then s.mtok x.a else none with
  | some b => (s, .bad b)
  | none =>
    let vb := s.tileView (if x.bq then x.x5 else x.b)
    match s.mmaShape x sh vb with
    | .error b => (s, .bad b)
    | .ok (m, n, d) =>
      let as := if x.aa then [] else [sh.aTile (s.tileView x.a) m d]
      let rs := (if x.aa then [x.a.val] else []) ++ if sh.zero then [] else [x.c.val]
      if !x.bq then (s, s.prepTiles (as ++ [sh.bTile vb n d]) (x.c.val :: rs) rs fun s => s.mmaRun x sh m n d vb none)
      else match s.tileFault as with
        | some b => (s, .bad b)
        | none =>
          match s.takeHead x.b with
          | (s, .error true) => (s, .fault .ringst x.b)
          | (s, .error false) => (s, .wait (s.liningMiss as))
          | (s, .ok i) =>
            let r := s.tm.ringAt x.b
            let vb := { vb with base := r.base + i * r.slotBytes, sp := 2 }
            (s, s.prepTiles (as ++ [sh.bTile vb n d]) (x.c.val :: rs) rs fun s => s.mmaRun x sh m n d vb (some i))

/-- R259. -/
def execMma (x : MmaArgs) (s : State) : Host.Outcome State Fault Refusal := opStep (.mma x) true (mmaPrep x) s

/-- The halves that a presence register marks: the conditional one and the unconditional one (R243). -/
def halves (p : BitVec 2) : List Bool := (if p.getLsbD 1 then [true] else []) ++ (if p.getLsbD 0 then [false] else [])

/-- YOKE of `mmay` and `mguide`: the team is not yoked, or no binding is valid (R242, R276). -/
def State.yokeFault (s : State) : Option Bad :=
  if !s.tm.lp.yoke then some (.yoke, 0) else if s.seq.yoke.isNone then some (.yoke, 2) else none

/-- The fields of `mmay` as a shape. -/
def mmayShapeOf (x : MmayArgs) : Shape :=
  { kq := x.kq.toNat, nc := x.nc, mc := x.mc, tb := x.tb, ta := x.ta, zero := x.zero, rev := x.rev, alg := x.alg }

/-- The products of the present halves (R244, R262). With zero grains only, the class is that of the TYs of the first present half's view
and of B (R54 speaks of two views; DESIGN CHOICE, log entry 68). -/
def State.mmayRun (s : State) (sh : Shape) (m n d : Nat) (vb : TileView) (hs : List (Nat × TileView)) : Except Bad (Nat × Flight) :=
  let k := 4 * sh.kq
  let b := s.viewB sh vb d
  if hs.isEmpty then .ok (0, Flight.of s)
  else
    let pairs := hs.flatMap fun h => pairsOf m n k (s.viewA sh h.2 d) b
    let ta := (hs.headD (0, TileView.empty)).2.type
    match opClass pairs ta vb.type with
    | .error e => .error (.mfmt, e)
    | .ok c => match classFault sh.kq (m * n * k * d * d * hs.length) c with
      | some e => .error e
      | none =>
        let tab := s.tm.tabs.getD (sh.alg - 1) AlgTable.empty
        .ok (c.units, { Flight.of s with
          tiles := hs.map fun h =>
            { slot := h.1, tile := product sh m n d c.chunk tab (s.viewA sh h.2 d) b (s.accSlot h.1).tile,
              whole := sh.zero && m * (n * d) == 4096 } })

/-- Preparing `mmay` (R244, R262, R275): an absent half is not read at all. -/
def mmayPrep (x : MmayArgs) (s : State) : Prepared :=
  let sh := mmayShapeOf x
  let (ac, au) := s.seq.yoke.getD (0, 0)
  let tok := if s.seq.yoke.isSome then (s.mtok ac).orElse fun _ => s.mtok au else none
  match tok.orElse fun _ => s.yokeFault with
  | some b => (s, .bad b)
  | none =>
    let d := s.algDim sh.alg
    match sizeOf? sh.mc, sizeOf? sh.nc with
    | some m, some n =>
      let hs := (halves s.seq.cp).map fun h => if h then (ac, s.tileView x.a) else (au, s.tileView x.x5)
      let vb := s.tileView x.b
      let ts := if hs.isEmpty then [] else hs.map (fun h => sh.aTile h.2 m d) ++ [sh.bTile vb n d]
      if sh.kq = 0 ∨ 64 < n * d ∨ viewsBad d ts then (s, .bad (mshape 4 sh.kq))
      else (s, s.prepTiles ts (hs.map (·.1)) (if sh.zero then [] else hs.map (·.1)) fun s => s.mmayRun sh m n d vb hs)
    | _, _ => (s, .bad (mshape 4 sh.kq))

/-- R244, R262. -/
def execMmay (x : MmayArgs) (s : State) : Host.Outcome State Fault Refusal := opStep (.mmay x) true (mmayPrep x) s

/-! ### Moving tiles -/

/-- Preparing `mzero` (R263). -/
def mzeroPrep (c : Fin 16) (s : State) : Prepared :=
  match s.mtok c with
  | some b => (s, .bad b)
  | none =>
    if s.slotsWait [c.val] then (s, .wait [])
    else (s, .go 0 { Flight.of s with tiles := [{ slot := c.val, tile := List.replicate 4096 0, whole := true }] } [] [])

/-- R263. -/
def execMzero (c : Fin 16) (s : State) : Host.Outcome State Fault Refusal := opStep (.mzero c) true (mzeroPrep c) s

/-- The region of a view that holds an M by N tile, transposed with TA (R264, R265). -/
def moveTileOf (v : TileView) (m n : Nat) (ta wr : Bool) : Tile :=
  if ta then { v := v, rows := n, cols := m, wr := wr } else { v := v, rows := m, cols := n, wr := wr }

/-- Preparing `mld` (R264). An infinite element delivers the largest finite value in the modes of R42's table that say so, whatever its
grain's format (DESIGN CHOICE, log entry 68: R42 speaks of a narrower format). -/
def mldPrep (c : Fin 16) (a : Fin 32) (nc mc : Fin 4) (ta zero : Bool) (rm : Rm) (s : State) : Prepared :=
  match s.mtok c with
  | some b => (s, .bad b)
  | none =>
    match sizeOf? mc, sizeOf? nc with
    | some m, some n =>
      let v := s.tileView a
      let t := moveTileOf v m n ta false
      if t.tooWide then (s, .bad (mshape 4 0))
      else (s, s.prepTiles [t] [c.val] [] fun s =>
        let r := roundAll rm (fun e u =>
          convertTo fmtF32 rm u (if ta then s.elemVal v e.2 e.1 else s.elemVal v e.1 e.2)) (cellsOf m n) s.seq.gen
        let base := if zero then List.replicate 4096 0 else (s.accSlot c).tile
        let x := { slot := c.val, tile := r.1.foldl (fun t x => setCell t x.1.1 x.1.2 x.2) base, whole := zero || m * n == 4096 : TileWrite }
        .ok (0, { Flight.of s with tiles := [x], gen := r.2 }))
    | _, _ => (s, .bad (mshape 4 0))

/-- R264. -/
def execMld (c : Fin 16) (a : Fin 32) (nc mc : Fin 4) (ta zero : Bool) (rm : Rm) (s : State) :
    Host.Outcome State Fault Refusal :=
  opStep (.mld c a nc mc ta zero rm) true (mldPrep c a nc mc ta zero rm) s

/-- Preparing `mst` (R265). In `rsr` the generator steps in row-major order of C's elements (m, n), with TA too, where the view's elements are
(n, m); MFMT for a view whose TY does not match DCF carries LBASE as its detail, since no lining entry is at fault (R258, R276; DESIGN CHOICE,
log entry 68). -/
def mstPrep (a : Fin 32) (c : Fin 16) (nc mc : Fin 4) (ta : Bool) (dcf : Dcf) (rm : Rm) (s : State) : Prepared :=
  match s.mtok c with
  | some b => (s, .bad b)
  | none =>
    match sizeOf? mc, sizeOf? nc with
    | some m, some n =>
      let v := s.tileView a
      let t := moveTileOf v m n ta true
      let ty := dcfTy dcf
      if t.tooWide then (s, .bad (mshape 4 0))
      else (s, s.prepTiles [t] [c.val] [c.val] fun s =>
        if v.type ≠ ty ∨ (v.lin ∧ !v.shiftOk) then .error (.mfmt, v.lbase)
        else
          let tile := (s.accSlot c).tile
          let r := roundAll (stepMode ty rm) (fun e u => downConvert ty rm u (cell tile e.1 e.2)) (cellsOf m n) s.seq.gen
          let es := r.1.map fun x => (if ta then (x.1.2, x.1.1) else x.1, x.2)
          let ents := t.entries.flatMap fun e => s.entryWrite v e (liningCode ty) 0x7F
          .ok (0, { Flight.of s with writes := s.tileWrites v es ++ ents, gen := r.2 }))
    | _, _ => (s, .bad (mshape 4 0))

/-- R265. -/
def execMst (a : Fin 32) (c : Fin 16) (nc mc : Fin 4) (ta : Bool) (dcf : Dcf) (rm : Rm) (s : State) :
    Host.Outcome State Fault Refusal :=
  opStep (.mst a c nc mc ta dcf rm) true (mstPrep a c nc mc ta dcf rm) s

/-- The elements that share one lining entry (R49, R266). -/
def TileView.blockLen (v : TileView) : Nat := 32 * 2 ^ (v.lshift - 3) / v.nibs

/-- Whether a quantized copy's blocks would cross a row (R266). -/
def Tile.blockBad (t : Tile) : Bool :=
  t.v.lin && t.v.shiftOk && (t.v.rs % 2 ^ (t.v.lshift - 3) != 0 || t.cols % max 1 t.v.blockLen != 0)

/-- The writes of one quantized copy (R52, R53, R266): `val` gives the value of an element of the view. -/
def State.quantWrites (s : State) (t : Tile) (ty : Ty) (val : Nat → Nat → FVal) : List ByteWrite :=
  let len := max 1 t.v.blockLen
  (List.range t.rows).flatMap fun r => (List.range (t.cols / len)).flatMap fun b =>
    let cols := (List.range len).map fun i => b * len + i
    let vs := cols.map (val r)
    let sc := blockScale ty vs
    let code := fun c => match sc with
      | some k => (quantIn ty vs k (val r c)).1
      | none => 0
    s.tileWrites t.v (cols.map fun c => ((r, c), code c)) ++
      s.entryWrite t.v (t.v.entry (t.v.grain r (b * len))) (liningCode ty) (sc.getD 0xFF)

/-- Preparing `mqdual` (R266); MFMT for a view without lining or of another TY carries LBASE as its detail (R276; DESIGN CHOICE, log entry 68). -/
def mqdualPrep (a b : Fin 32) (c : Fin 16) (nc mc : Fin 4) (dcf : Dcf) (s : State) : Prepared :=
  match s.mtok c with
  | some x => (s, .bad x)
  | none =>
    match sizeOf? mc, sizeOf? nc with
    | some m, some n =>
      let ra : Tile := { v := s.tileView a, rows := m, cols := n, wr := true }
      let rb : Tile := { v := s.tileView b, rows := n, cols := m, wr := true }
      let ty := dcfTy dcf
      let bad := fun (v : TileView) => !v.lin || !v.shiftOk || v.type != ty
      if ra.tooWide || rb.tooWide || ra.blockBad || rb.blockBad then (s, .bad (mshape 4 0))
      else (s, s.prepTiles [ra, rb] [c.val] [c.val] fun s =>
        if bad ra.v then .error (.mfmt, ra.v.lbase)
        else if bad rb.v then .error (.mfmt, rb.v.lbase)
        else
          let tile := (s.accSlot c).tile
          let val := fun r k => decodeF fmtF32 (cell tile r k)
          .ok (0, { Flight.of s with writes := s.quantWrites ra ty val ++ s.quantWrites rb ty fun r k => val k r }))
    | _, _ => (s, .bad (mshape 4 0))

/-- R266. -/
def execMqdual (a b : Fin 32) (c : Fin 16) (nc mc : Fin 4) (dcf : Dcf) (s : State) : Host.Outcome State Fault Refusal :=
  opStep (.mqdual a b c nc mc dcf) true (mqdualPrep a b c nc mc dcf) s

/-! ### Setup -/

/-- The first byte at which a loaded table fails R239's checks for dimension `d`. -/
def tableFault (bs : List Byte) (d : Nat) : Option Nat :=
  (List.range 72).find? fun k =>
    let b := (bs.getD k 0).toNat
    if k < 64 then field b 5 3 != 0 || field b 7 6 == 2 || (decide (k / 8 < d) && decide (k % 8 < d) && decide (d ≤ field b 2 0))
    else decide (64 < k) && b != 0

/-- `n` bytes at a view's BASE, read as one event: SPACE, the waits, what the bytes give, and ECCU (R256, R257, R275). -/
def State.prepBase (s : State) (v : TileView) (n : Nat) (own : List Byte → Except Bad Flight) : Prep :=
  if !s.tm.tileSpace v.sp v.base n then .fault .space v.base
  else
    let rd := (List.range n).filterMap fun i => (s.myPlace v.sp (v.base + i)).map fun p => (p, v.base + i)
    if s.linesWait (linesOf rd) [] then .wait []
    else match own (rd.map fun p => s.seenByte (dieOf s.tm.core) p.1.1 p.1.2) with
      | .error b => .bad b
      | .ok f => match s.poisonFault [] rd with
        | some b => .bad b
        | none => .go 0 f rd []

/-- Preparing `malg` (R239, R240, R256). -/
def malgPrep (g : Fin 4) (v : Fin 32) (dim : Fin 4) (s : State) : Prepared :=
  (s, s.prepBase (s.tileView v) 72 fun bs => match tableFault bs (2 ^ dim.val) with
    | some k => .error (.algt, k)
    | none => .ok { Flight.of s with table := some (g.val, { bytes := bs, dim := 2 ^ dim.val }) })

/-- R239, R256. -/
def execMalg (g : Fin 4) (v : Fin 32) (dim : Fin 4) (s : State) : Host.Outcome State Fault Refusal :=
  opStep (.malg g v dim) false (malgPrep g v dim) s

/-- Preparing `mscale` (R257). -/
def mscalePrep (v : Fin 32) (s : State) : Prepared :=
  (s, s.prepBase (s.tileView v) 4 fun bs => .ok { Flight.of s with gs := some (BitVec.ofNat 32 (ofBytes bs)) })

/-- R257. -/
def execMscale (v : Fin 32) (s : State) : Host.Outcome State Fault Refusal := opStep (.mscale v) false (mscalePrep v) s

/-- An instruction that changes the sequencer alone. -/
def setupStep (i : Instr) (f : State → Seq) (s : State) : Host.Outcome State Fault Refusal :=
  seqStep i (fun s => .ok (s.setSeq (f s)).seqNext) s

/-- R258: seeds the down-converter's generator; `mseed` sees every `wrsr %seed` that has executed (R255; DESIGN CHOICE, log entry 76). -/
def execMseed (k : BitVec 16) (s : State) : Host.Outcome State Fault Refusal :=
  setupStep (.mseed k) (fun s => { s.seq with gen := genSeed s.tm.seed (k.toNat + 65535) }) s

/-- The SPACE code of a tile view's space (R252). -/
def tspaceCode : TSpace → Nat
  | .c => 2
  | .w => 3
  | .d => 4

/-- Changes a tile view. -/
def Seq.modView (q : Seq) (t : Nat) (f : TileView → TileView) : Seq := { q with tv := q.tv.modify t f }

/-- R252: the geometry of a view; its lining stays. -/
def execMview (t : Fin 32) (sp : TSpace) (base : BitVec 32) (rs : BitVec 12) (ty : Ty) (s : State) :
    Host.Outcome State Fault Refusal :=
  setupStep (.mview t sp base rs ty) (fun s => s.seq.modView t fun v =>
    { v with base := base.toNat, rs := rs.toNat, ty := codeOfTy ty, sp := tspaceCode sp }) s

/-- R254: the lining of a view. -/
def linOf (f : LinForm) (views : List (List Half)) (v : TileView) : TileView :=
  match f with
  | .off => { v with lin := false }
  | .imm sp lbase lsh => { v with lin := true, lbase := lbase.toNat, lshift := lsh.val + 3, lsp := tspaceCode sp }
  | .view n =>
    let w := fun i => ((views.getD n []).getD i 0).toNat
    { v with lin := true, lbase := w 10 + w 11 * 2 ^ 32, lshift := field (w 12) 3 0, lsp := 0 }

/-- R254, R255: of the `vset`s that no hand-off orders before it, `mlin` sees every one that has executed (DESIGN CHOICE, log entry 76). -/
def execMlin (t : Fin 32) (f : LinForm) (s : State) : Host.Outcome State Fault Refusal :=
  setupStep (.mlin t f) (fun s => s.seq.modView t (linOf f s.tm.views)) s

/-! ### The yoke -/

/-- R242, R267. -/
def execMyoke (ac au : Fin 16) (s : State) : Host.Outcome State Fault Refusal :=
  seqStep (.myoke ac au) (fun s =>
    let out := fun (n : Fin 16) => if s.tm.acc.length ≤ n then some ((.mtok, n.val + 64) : Bad) else none
    match (out ac).orElse fun _ => out au with
    | some b => .fault b.1 b.2
    | none =>
      if !s.tm.lp.yoke then .fault .yoke 0
      else if ac = au then .fault .yoke 1
      else .ok (s.setSeq { s.seq with yoke := some (ac.val, au.val), lp := 3 }).seqNext) s

/-- u + gs*c - gs*u, exact and rounded once (R244). -/
def guideElem (gs c u : Nat) : Nat :=
  let g := decodeF fmtF32 gs
  let x := decodeF fmtF32 u
  (roundSum .rne 0 (sumV [x, mulV g (decodeF fmtF32 c), (mulV g x).negate])).1

/-- The tile that `mguide` writes, by LP; none where it writes nothing (R244). -/
def guideTile (lp : BitVec 2) (gs : Half) (c u : List Half) : Option (List Half) :=
  if lp = 3 then some (c.zipWith (fun x y => BitVec.ofNat 32 (guideElem gs.toNat x.toNat y.toNat)) u)
  else if lp = 1 then some u
  else if lp = 2 then some c
  else none

/-- Preparing `mguide` (R244, R268). It raises no ECCU (R277): an error in a slot that it reads goes with the result (DESIGN CHOICE, log entry 68). -/
def mguidePrep (a : Fin 16) (s : State) : Prepared :=
  let (ac, au) := s.seq.yoke.getD (a.val, a.val)
  match (s.mtok a).orElse fun _ => (s.mtok ac).orElse fun _ => (s.mtok au).orElse fun _ => s.yokeFault with
  | some b => (s, .bad b)
  | none =>
    let t := guideTile s.seq.lp s.seq.gs (s.accSlot ac).tile (s.accSlot au).tile
    let rs := (if s.seq.lp.getLsbD 1 then [ac] else []) ++ if s.seq.lp.getLsbD 0 then [au] else []
    if s.slotsWait [a.val, ac, au] then (s, .wait [])
    else
      (s, .go 0 { Flight.of s with lp := some 3, tiles := match t with
        | some x => [{ slot := a.val, tile := x, whole := true, bad := (s.slotsBad rs).isSome }]
        | none => [] } [] [])

/-- R244, R268. -/
def execMguide (a : Fin 16) (s : State) : Host.Outcome State Fault Refusal := opStep (.mguide a) true (mguidePrep a) s

/-! ### Meetings and control -/

/-- R234, R269: the sequencer's arrival. -/
def execMarv (b : Fin 16) (s : State) : Host.Outcome State Fault Refusal :=
  seqStep (.marv b) (fun s =>
    let x := s.tm.barAt b
    if !x.plusM then .ok s.seqNext
    else if x.seqArr then .wait (.wbar b x.phase true) s
    else
      let x' := { x with seqArr := true, seqLast := some x.phase, pts := max x.pts s.seq.pts }
      .ok ((s.setTm ((s.tm.setBar b x').checkBarrier b)).phasesBy s.tm (matrixEngine s.tm.core) 0).seqNext) s

/-- R234, R269. -/
def execMwt (b : Fin 16) (s : State) : Host.Outcome State Fault Refusal :=
  seqStep (.mwt b) (fun s =>
    let x := s.tm.barAt b
    match if x.plusM then x.seqLast else none with
    | some p => if p < x.phase then .ok s.seqNext else .wait (.wbar b p false) s
    | none => .ok s.seqNext) s

/-- The group of the focused team that parked earliest at `acq` of slot `n` (R235). -/
def Team.firstAcq (t : Team) (n : Nat) : Option Group :=
  let waits := fun (g : Group) => (g.allFrags.filter fun f => f.wait == .acq n).map (·.parkedAt)
  (t.groups.foldl (fun (b : Option (Group × Nat)) g =>
    match waits g with
    | [] => b
    | p :: ps =>
      let w := ps.foldl min p
      match b with
      | none => some (g, w)
      | some (h, v) => if w < v then some (g, w) else some (h, v)) none).map (·.1)

/-- R235, R236: the slot goes to the lanes; a group that waits takes it at once. -/
def execMgive (a : Fin 16) (s : State) : Host.Outcome State Fault Refusal :=
  seqStep (.mgive a) (fun s =>
    match s.mtok a with
    | some b => .fault b.1 b.2
    | none =>
      let x := { s.accSlot a with pts := s.seq.pts }
      match s.tm.firstAcq a with
      | none => .ok (s.setAcc a { x with tok := .given }).seqNext
      | some g =>
        let s := s.setAcc a { x with tok := .lane g.uid }
        .ok (s.setTm (s.tm.mapGroups fun h => if h.uid = g.uid then h.receives s.seq.pts s.seqNo else h)).seqNext) s

/-- R235, R236. -/
def execMtake (a : Fin 16) (s : State) : Host.Outcome State Fault Refusal :=
  seqStep (.mtake a) (fun s =>
    if s.tm.acc.length ≤ a then .fault .mtok (a.val + 64)
    else match (s.accSlot a).tok with
      | .mat => .ok s.seqNext
      | .back =>
        let s := s.setSeq { s.seq with pts := max s.seq.pts (s.accSlot a).pts }
        .ok (s.setAcc a { s.accSlot a with tok := .mat }).seqNext
      | _ => .wait (.wtok a) s) s

/-- R270. -/
def execMloop (n : BitVec 16) (off : BitVec 32) (s : State) : Host.Outcome State Fault Refusal :=
  seqStep (.mloop n off) (fun s =>
    let label := s.seqTarget off
    if n = 0 then s.seqJump label
    else if 4 ≤ s.seq.loops.length then .fault .stkovf 4
    else .ok (s.setSeq { s.seq with loops := { count := n.toNat, body := s.seq.mpc + 8, fin := label } :: s.seq.loops }).seqNext) s

/-- R271: loop entries whose range does not hold the target are popped first. -/
def execMjmp (off : BitVec 32) (s : State) : Host.Outcome State Fault Refusal :=
  seqStep (.mjmp off) (fun s =>
    let t := s.seqTarget off
    let keep := s.seq.loops.filter fun l => decide (l.body ≤ t) && decide (t ≤ l.fin)
    if s.inCode t then (s.setSeq { s.seq with loops := keep }).seqJump t else .fault .space t.toNat) s

/-- R231, R271. -/
def execMhalt (s : State) : Host.Outcome State Fault Refusal :=
  seqStep .mhalt (fun s => .ok (s.setSeq { s.seq with st := .halted })) s

/-- R271. -/
def execMnop (s : State) : Host.Outcome State Fault Refusal := seqStep .mnop (fun s => .ok s.seqNext) s

/-! ### The array (R231, R232, R349) -/

/-- How an operation that waits in WRES is prepared, and whether it uses the array. -/
def prepOf : Instr → Option (Bool × (State → Prepared))
  | .mma x => some (true, mmaPrep x)
  | .mmay x => some (true, mmayPrep x)
  | .mzero c => some (true, mzeroPrep c)
  | .mld c a nc mc ta zero rm => some (true, mldPrep c a nc mc ta zero rm)
  | .mst a c nc mc ta dcf rm => some (true, mstPrep a c nc mc ta dcf rm)
  | .mqdual a b c nc mc dcf => some (true, mqdualPrep a b c nc mc dcf)
  | .mguide a => some (true, mguidePrep a)
  | .malg g v dim => some (false, malgPrep g v dim)
  | .mscale v => some (false, mscalePrep v)
  | _ => none

/-- The focused team's operation in WRES, prepared. -/
def State.prepWres (s : State) : Option (Instr × Bool × Prepared) :=
  match s.seq.st with
  | .wres i => (prepOf i).map fun p => (i, p.1, p.2 s)
  | _ => none

/-- Whether a team's operation waits for presence, an engine's range or a translation (R274). -/
def State.opPages (s : State) (t : Team) : Bool :=
  match (s.focusTeam t.core t.ctx).prepWres with
  | some (_, _, _, .wait _) => true
  | _ => false

/-- Whether a team's operation may start: the team runs, and no step has stopped its sequencer (R352, R359, R360). -/
def State.seqMayStart (s : State) (t : Team) : Bool := s.teamRuns t && !s.seqHeld t

/-- Whether the focused team's request for a reservation is queued (R349). -/
def State.asked (s : State) : Bool :=
  (s.islandAt (islandOf s.tm.core)).cq.any fun q => q.team == s.teamRef && q.op.isNone && !q.burst

/-- R231, R233, R272, R273, R275: an operation that waited in WRES starts, or faults; without the array or its reservation it waits
on. A faulting operation has no effect: a ring slot that it took goes back (R245). -/
def execMatrixOpStart (t : TeamRef) (s : State) : Host.Outcome State Fault Refusal :=
  if !((s.findTeam t).any s.seqMayStart) then .next s
  else
    let u := s.focusTeam t.core t.ctx
    match u.prepWres with
    | none => .next s
    | some (i, array, v, p) =>
      match p with
      | .fault c d => .next (u.untake.dropArray.seqFault c d (wordOf i))
      | .wait vas => .next (vas.foldl (fun s a => s.pageIn s.ctx.fn a) (if v.seq.array then v.dropArray else v))
      | .late c d => if array && !v.seq.array then .next v else .next (u.untake.dropArray.seqFault c d (wordOf i))
      | .go units f rd hits =>
        if !array then .next ((v.startStamp f rd hits).complete1 f)
        else if !v.seq.array then .next v
        else if v.seq.units = units then
          let w := v.startStamp f rd hits
          .next (w.setSeq { w.seq with st := .run, flight := some { f with reads := linesOf rd } })
        else if v.seq.units = 0 && v.asked then .next v
        else .next v.dropArray

/-- R272: a started operation completes. -/
def execMatrixOpComplete (t : TeamRef) (s : State) : Host.Outcome State Fault Refusal :=
  if (s.findTeam t).isNone then .next s
  else
    let u := s.focusTeam t.core t.ctx
    match u.seq.flight with
    | none => .next s
    | some f =>
      let v := (u.collarFree u.tm.core u.seq.units).complete1 f
      .next v.stopSeq

/-- The units that a team's operation asks for, where only the array and the collar keep it from starting, or from its fault (R232, R275). -/
def State.readyUnits (s : State) (t : Team) : Option Nat :=
  match (s.focusTeam t.core t.ctx).prepWres with
  | some (_, true, _, .go units _ _ _) => some units
  | some (_, true, _, .late _ _) => some 0
  | _ => none

/-- R232, R349: the array goes to the ready context of highest launch priority, then of longest wait, which asks the collar
for its reservation. -/
def execArrayGrant (core : Nat) (s : State) : Host.Outcome State Fault Refusal :=
  let ts := (s.allTeams.filter fun t => t.core == core)
  if ts.any fun t => t.seq.array || t.seq.flight.isSome then .next s
  else
    let rank := fun (t : Team) => [7 - t.lp.prio, t.seq.since, t.ctx]
    let best := (ts.filter fun t => (s.readyUnits t).isSome && s.seqMayStart t).foldl (fun (b : Option Team) t => match b with
      | none => some t
      | some u => if rankLt (rank t) (rank u) then some t else b) none
    match best with
    | none => .next s
    | some t =>
      let units := (s.readyUnits t).getD 0
      let u := s.focusTeam t.core t.ctx
      let v := u.setSeq { u.seq with array := true }
      if units = 0 then .next v
      else
        let (w, got) := v.collarAsk { team := v.teamRef, op := none, burst := false, units := units, prio := t.lp.prio }
        .next (if got then w.setSeq { w.seq with units := units } else w)

end Sys2Proof.Machine
end

