-- ==== Sys2Proof/Machine/System.lean ====
section
/-!
DEFINITION. Special registers (R203, R204, R90), traps, breakpoints, progress marks and services (R208 to R211, R344).
-/
namespace Sys2Proof.Machine

/-! ### Special registers -/

/-- The registers whose scope is a lane (R89, R203). -/
def laneSr (r : Nat) : Bool := r == 0x000 || r == 0x007 || r == 0x00D || r == 0x00E

/-- `%gstat` (R89). -/
def Group.gstat (g : Group) : Nat := bit g.lost + 2 * bit g.sspill + g.allFrags.length * 2 ^ 8

/-- A register of lane scope (R89). The reading instruction does not count in `%issued` (R204). -/
def Lane.readSr (l : Lane) (r : Nat) : Word :=
  match r with
  | 0x000 => BitVec.ofNat 64 l.ix
  | 0x007 => zx32 l.lcw
  | 0x00D => zx32 (l.issued - 1)
  | _ => l.jcp

/-- A register of fragment, group, team or module scope (R89). -/
def State.readSr (s : State) (r : Nat) : Word :=
  match r with
  | 0x001 => BitVec.ofNat 64 s.gp.gix
  | 0x002 => BitVec.ofNat 64 s.gp.gslot
  | 0x003 => zx32 s.fr.mask
  | 0x004 => BitVec.ofNat 64 s.laneDepth
  | 0x005 => BitVec.ofNat 64 s.fr.sstk.length
  | 0x006 => BitVec.ofNat 64 s.gp.gstat
  | 0x008 => zx32 s.tm.seed
  | 0x009 => BitVec.ofNat 64 s.now
  | 0x00A => zx32 s.gp.seamrel
  | 0x00B => zx32 s.gp.drains
  | 0x00C => zx32 s.gp.dstall
  | 0x00F => BitVec.ofNat 64 s.tm.lp.prio
  | 0x010 => zx32 s.fr.lc
  | 0x011 => zx32 s.fr.rc
  | 0x012 => BitVec.ofNat 64 s.tm.vcore
  | 0x020 => zx32 s.fr.fcode
  | 0x021 => s.fr.fpc
  | 0x022 => zx32 s.fr.fmask
  | 0x023 => s.fr.finfo
  | _ => 0

/-- R203. -/
def execRdsr (r : BitVec 12) (s : State) : Host.Outcome State Fault Refusal :=
  laneStep 4 (fun s =>
    if laneSr r.toNat then
      s.withStack (.of 0 1) .none false fun s =>
        .ok ((s.replaceLanes 0 1 fun l => [Entry.plain (l.readSr r.toNat)]).finish 4)
    else
      s.withStack .none (.of 0 1) false fun s => .ok ((s.replaceScalar 0 [Entry.plain (s.readSr r.toNat)]).finish 4)) s

/-- The index that seeds a lane's generator: 32 * group + lane, or 1024 + 32 * reserve slot + lane for a child group, whose
`%group` is 32 + that slot (R46, R89). -/
def Group.seedIndex (g : Group) (lane : Nat) : Nat := 32 * g.gix + lane

/-- A write of a register of lane scope (R204). -/
def Lane.writeSr (l : Lane) (r : Nat) (v : Word) : Lane :=
  match r with
  | 0x007 => { l with lcw := writeLcw l.lcw (lo32 v) }
  | 0x00D => { l with issued := lo32 v }
  | 0x00E => { l with jcp := v }
  | _ => l

/-- A write of a register of another scope but `%exm` (R204). -/
def State.writeSr (s : State) (r : Nat) (v : Word) : State :=
  match r with
  | 0x006 => s.setGp { s.gp with lost := s.gp.lost && !v.getLsbD 0, sspill := s.gp.sspill && !v.getLsbD 1 }
  | 0x008 =>
    let g := s.gp
    (s.setTm { s.tm with seed := lo32 v }).mapActive fun l => { l with gen := genSeed (lo32 v) (g.seedIndex l.ix) }
  | 0x00A => s.setGp { s.gp with seamrel := lo32 v }
  | 0x00B => s.setGp { s.gp with drains := lo32 v }
  | 0x00C => s.setGp { s.gp with dstall := lo32 v }
  | _ => s

/-- A write of `%exm` (R90): the lanes outside the written mask are detached. In a handler it is ignored (R216). The scalar depth that
SSPLIT tests and reports is the one after the pop of the operand (DESIGN CHOICE, log entry 68). -/
def State.writeExm (s : State) (v : Word) : Res :=
  let m := lo32 v &&& s.fr.mask
  if m = 0 ∨ m = s.fr.mask ∨ s.fr.trap.isSome then .ok ((s.replaceScalar 1 []).finish 4)
  else
    let s' := s.replaceScalar 1 []
    match s'.ssplit with
    | some x => .fault x
    | none => .ok (s'.splitInto ((s'.fr.keep m).advance 4) ((s'.fr.detach (s'.fr.mask &&& ~~~m)).advance 4))

/-- R203, R204. -/
def execWrsr (r : BitVec 12) (s : State) : Host.Outcome State Fault Refusal :=
  laneStep 4 (fun s =>
    if laneSr r.toNat then
      s.withStack (.of 1 0) .none true fun s =>
        .ok (((s.mapActive fun l => l.writeSr r.toNat (arg (valsOf 1 l.stk) 0)).popLanes 1).finish 4)
    else
      s.withStack .none (.of 1 0) true fun s =>
        let v := arg (s.scalarArgs 1) 0
        if r = 0x003 then s.writeExm v else .ok (((s.replaceScalar 1 []).writeSr r.toNat v).finish 4)) s

/-! ### Traps -/

/-- R208: raises TRAPI. -/
def execTrap (k : Byte) (s : State) : Host.Outcome State Fault Refusal :=
  laneStep 4 (fun s => .fault (s.faultAll .trapi k.toNat)) s

/-- Whether the record is that of an atomic that PAGE stopped: completing it ends its region (R172, R221). -/
def State.endsAtomic (s : State) (rec : TrapRec) : Bool :=
  s.fr.fcode == BitVec.ofNat 32 (codeNum .page) && (rec.replay.bind fun r => memOpOf r.ins).any fun m => m.acc == .atomic

/-- Completes the instruction that PAGE stopped: finished lanes take their buffered values, the others push 0 (R221). -/
def State.settleReplay (s : State) (rec : TrapRec) : State :=
  match rec.replay with
  | some r => match memOpOf r.ins with
    | some m => if s.fr.fcode = BitVec.ofNat 32 (codeNum .page) then s.completeMem m 0 r.vals else s
    | none => s
  | none => s

/-- R208, R209, R217, R221. -/
def execTret (next : Bool) (s : State) : Host.Outcome State Fault Refusal :=
  laneStep 4 (fun s =>
    match s.fr.trap with
    | none => .fault (s.faultAll .illop ((encode (.tret next)).getD (0, 0)).2)
    | some r =>
      let d := s.laneDepth
      let ds := s.fr.sstk.length
      if d ≠ r.ldepth ∨ ds ≠ r.sdepth then .fault (s.faultAll .depth (depthInfo 0 r.ldepth d r.sdepth ds true))
      else if !next then .ok (s.trapReturn r false)
      else
        let t := (s.settleReplay r).trapReturn r true
        .ok (if s.endsAtomic r then t.nextRegion else t)) s

/-- R208, R363: raises BRK. -/
def execBrk (s : State) : Host.Outcome State Fault Refusal := laneStep 2 (fun s => .fault (s.faultAll .brk 0)) s

/-- R210: counts the active lanes. -/
def execMark (k : Fin 16) (s : State) : Host.Outcome State Fault Refusal :=
  laneStep 4 (fun s =>
    let n := BitVec.ofNat 64 (countLanes s.fr.mask)
    let s := s.noteLane 10 (BitVec.ofNat 64 k.val ||| (n <<< 8))
    .ok ((s.modCtx s.tm.ctx fun c => { c with prog := c.prog.set k (c.prog.getD k 0 + n) }).finish 4)) s

/-! ### Services -/

/-- R211: an unknown service returns all ones; the others park until Tison replies. -/
def execSvc (n : BitVec 14) (s : State) : Host.Outcome State Fault Refusal :=
  laneStep 4 (fun s => s.withStack .none (.of 1 1) true fun s =>
    match s.fr.wait with
    | .reply r => .ok ((s.replaceScalar 1 [Entry.plain r]).finish 4)
    | _ =>
      if 4 ≤ n.toNat then .ok ((s.replaceScalar 1 [Entry.plain (BitVec.allOnes 64)]).finish 4)
      else .park (.svc n.toNat (arg (s.scalarArgs 1) 0)) s) s

/-- Whether a service request that reached Tison before the focused fragment's has yet to be served (R344). -/
def State.serviceBefore (s : State) : Bool :=
  s.allTeams.any fun t => t.groups.any fun g => g.allFrags.any fun f => match f.wait with
    | .svc _ _ => decide (f.parkedAt < s.fr.parkedAt)
    | _ => false

/-- Serves a parked service request of number `n`, in the order in which the requests reached Tison (R344): `f` acts and gives the reply. -/
def State.serve (s : State) (r : FragRef) (n : Nat) (f : Word → State → State × Word) : State :=
  let u := s.focusRef r
  match u.fr.wait with
  | .svc k a =>
    if s.hasFrag r && k == n && !u.serviceBefore then
      let (v, x) := f a u
      v.setFr { v.fr with wait := .reply x }
    else s
  | _ => s

/-- R344: echo. -/
def execSvcEcho (f : FragRef) (s : State) : Host.Outcome State Fault Refusal := .next (s.serve f 0 fun a u => (u, a))

/-- The completion that a service posts on the launch's queue (R342, R344). -/
def serviceDone (k : LaunchCtx) (ix : Nat) : Completion :=
  { seq := k.seqno, status := 6, code := 0, engine := 0, detail := BitVec.ofNat 64 ix, sig := none }

/-- Queues a completion entry (R342). -/
def State.complete (s : State) (q : Nat) (c : Completion) : State :=
  { s with queues := s.queues.modify q fun h => { h with comps := h.comps ++ [c] } }

/-- R344: writes the agent, the argument and `%time` to the next of the 64 records of the service area, as Tison's accesses
in the global order, and posts a SERVICE completion. The bytes after these three are zero (log entry 27). -/
def execSvcNotice (f : FragRef) (s : State) : Host.Outcome State Fault Refusal :=
  .next (s.serve f 1 fun a u =>
    let k := u.ctx
    let ix := k.svcNext % 64
    let rec64 := toBytes 4 (agentOf f).toNat ++ toBytes 4 0 ++ toBytes 8 a.toNat ++ toBytes 8 u.now ++ List.replicate 40 0
    let v := match u.physOf k.fn (k.svcArea.toNat + 64 * ix) with
      | some pa =>
        let (w, t) := (u.putBytes 0 pa rec64).stampEvent u.fr.pts u.lease [] [] [(0, lineOf pa)]
        w.raisePts t
      | none => u
    ((v.modCtx u.tm.ctx fun k => { k with svcNext := (ix + 1) % 64 }).complete k.queue (serviceDone k ix), BitVec.ofNat 64 ix))

/-- R344: a progress counter. -/
def execSvcReadProgress (f : FragRef) (s : State) : Host.Outcome State Fault Refusal :=
  .next (s.serve f 2 fun a u => (u, u.ctx.prog.getD (a.toNat % 16) 0))

/-- R344: makes a page resident; 1 where nothing is mapped. -/
def execSvcMakeResident (f : FragRef) (s : State) : Host.Outcome State Fault Refusal :=
  .next (s.serve f 3 fun a u =>
    if (u.pageOf u.ctx.fn a.toNat).isSome then (u.pageIn u.ctx.fn a.toNat, 0) else (u, 1))

end Sys2Proof.Machine
end

