-- ==== Sys2Proof/Machine/Command.lean ====
section
/-!
DEFINITION. Host queues and their commands (R338 to R342): the rings, the command that may start, its header, the end of a
command, and the signals (R336).
-/
namespace Sys2Proof.Machine

/-! ### Rings -/

/-- Host queue `q`. -/
def State.queueAt (s : State) (q : Nat) : HostQueue := s.queues.getD q (HostQueue.reset q)

/-- Changes a host queue. -/
def State.modQueue (s : State) (q : Nat) (f : HostQueue → HostQueue) : State := { s with queues := s.queues.modify q f }

/-- Entries of a queue's rings (R338). -/
def HostQueue.count (h : HostQueue) : Nat := 2 ^ h.log2.toNat

/-- An index modulo the ring. -/
def HostQueue.wrap (h : HostQueue) (n : Nat) : BitVec 12 := BitVec.ofNat 12 (n % h.count)

/-- The physical address of a ring that lies in host memory at base `b` (R335, R338; log entry 31). -/
def hostPa (b : Word) : Nat := 2 ^ 51 + b.toNat % 2 ^ 51

/-- The physical address of the command at index `i`. -/
def HostQueue.cmdPa (h : HostQueue) (i : Nat) : Nat := hostPa h.cbase + 64 * (i % h.count)

/-- The commands written and not yet fetched. -/
def HostQueue.unfetched (h : HostQueue) : Nat := (h.tail.toNat % h.count + h.count - h.head.toNat % h.count) % h.count

/-- The commands of a queue that have not started, oldest first: those fetched, then those still in its ring. -/
def State.waitingCmds (s : State) (q : Nat) : List (List Byte) :=
  let h := s.queueAt q
  h.fetched ++ (List.range h.unfetched).map fun j => s.bytesAt 0 (h.cmdPa (h.head.toNat + j)) 64

/-- One event of a Tison core, stamped by R66; it has no launch and takes no lease (log entry 63). -/
def State.tisonEvent (s : State) (c : Nat) (rd wr : List LineId) : State :=
  let (u, t) := s.stampEvent (s.tison.getD c Tison.reset).pts 0 rd [] wr
  if rd.isEmpty && wr.isEmpty then s else { u with tison := u.tison.modify c fun x => { x with pts := t } }

/-! ### The command that may start -/

/-- The number in `n` bytes of a command, from byte `off` on (R339). -/
def cmdNat (c : List Byte) (off n : Nat) : Nat := ofBytes ((c.drop off).take n)

/-- Whether a LAUNCH of a queue has passed its checks and is not admitted: it waits for a context, or in one for its resources (R28,
R29). -/
def State.launchWaits (s : State) (q : Nat) : Bool :=
  (s.queueAt q).pendL.isSome || s.ctxs.any fun k => k.phase == .waiting && k.queue == q && k.copy.isNone

/-- The command at the head of queue `q` with operation `op`, if it may start (R340): it is fetched, no LAUNCH or WAIT holds the
queue, and the debugger has not stopped the module (R359). -/
def State.headCmd (s : State) (q : Nat) (is : Nat → Bool) : Option (List Byte) :=
  if s.launchWaits q || (s.queueAt q).blocked || s.stopReq || s.stopped then none
  else (s.queueAt q).fetched.head?.filter fun c => is (cmdNat c 0 1)

/-- Operations that Tison serialises (R340). -/
def serialOp (op : Nat) : Bool := op == 4 || op == 5 || op == 6

/-- Whether a BIAS, SHRINK or POWER command at the head of `q` is the next in the order of the doorbells (R340). -/
def State.serialTurn (s : State) (q : Nat) : Bool :=
  let mine := (s.queueAt q).order.headD 0
  s.biasJobs.isEmpty && s.jobs.isEmpty && (List.range 64).all fun r => r == q ||
    ((s.waitingCmds r).zip (s.queueAt r).order).all fun x =>
      !serialOp (cmdNat x.1 0 1) || decide (mine < x.2) || (mine == x.2 && decide (q < r))

/-- The signal that a command sets at its completion (R339). -/
def cmdSig (c : List Byte) : Option Nat := if cmdNat c 1 1 % 2 = 1 then some (cmdNat c 8 4) else none

/-- A check that fails: the fault code and the DETAIL of R342. -/
structure Reject342 where
  code   : Nat
  detail : Nat
  deriving DecidableEq, Repr

/-- A field out of range: its byte offset, and where it lies (0 command, 1 launch record, 2 declaration tables). -/
def badField (off at' : Nat) : Reject342 := { code := 0, detail := off + at' * 2 ^ 16 }

/-- What every command is checked for: no command is accepted in RECOVERY, and SIG lies in its range (R339, R368). -/
def State.headerBad (s : State) (c : List Byte) : Option Reject342 :=
  if s.recovery then some (badField 0 0)
  else match cmdSig c with
    | some n => if 1024 ≤ n then some (badField 8 0) else none
    | none => none

/-- The first check that fails of a list of checks, each with what it answers. -/
def firstBad : List (Bool × Reject342) → Option Reject342
  | [] => none
  | (ok, r) :: rest => if ok then firstBad rest else some r

/-! ### Starting and completing -/

/-- A record of a command for the trace (R356). -/
def State.noteCmd (s : State) (kind q : Nat) (seq : BitVec 32) : State :=
  s.note { engine := BitVec.ofNat 16 (engineId 5 4 (Config.writerCore s.ticks).val), kind := BitVec.ofNat 8 kind,
           queue := BitVec.ofNat 8 q, seq := seq, tcb := 0, data := 0 }

/-- The SEQ of a command (R339). -/
def cmdSeq (c : List Byte) : BitVec 32 := BitVec.ofNat 32 (cmdNat c 4 4)

/-- The head command of a queue has started. -/
def HostQueue.started (h : HostQueue) : HostQueue :=
  { h with fetched := h.fetched.drop 1, order := h.order.drop 1, blocked := false }

/-- The head command of a queue starts. -/
def State.startCmd (s : State) (q : Nat) (c : List Byte) : State := (s.modQueue q HostQueue.started).noteCmd 1 q (cmdSeq c)

/-- The completion of a command. -/
def completionOf (c : List Byte) (status code : Nat) (detail : Word) : Completion :=
  { seq := cmdSeq c, status := status, code := code, engine := 0, detail := detail,
    sig := (cmdSig c).filter fun n => decide (n < 1024) }

/-- A command that has started completes with a status. -/
def State.endCmd (s : State) (q : Nat) (c : List Byte) (status : Nat) : State :=
  (s.complete q (completionOf c status 0 0)).noteCmd 2 q (cmdSeq c)

/-- A command starts and completes at once with a status. -/
def State.doneCmd (s : State) (q : Nat) (c : List Byte) (status : Nat) : State := (s.startCmd q c).endCmd q c status

/-- A command completes REJECTED (R342). -/
def State.rejectCmd (s : State) (q : Nat) (c : List Byte) (r : Reject342) : State :=
  ((s.startCmd q c).complete q (completionOf c 3 r.code (BitVec.ofNat 64 r.detail))).noteCmd 2 q (cmdSeq c)

/-- Runs a command of operation `op` at the head of queue `q`: nothing happens where none may start; one that fails a check
completes REJECTED. -/
def State.command (s : State) (q op : Nat) (checks : List Byte → List (Bool × Reject342)) (go : List Byte → State) : State :=
  match s.headCmd q (· == op) with
  | none => s
  | some c =>
    match (s.headerBad c).orElse fun _ => firstBad (checks c) with
    | some r => s.rejectCmd q c r
    | none => go c

/-! ### Signals (R336) -/

/-- The signal a waiter waits for. -/
def Waiter.sig : Waiter → Nat
  | .queue _ n _ => n
  | .core _ n _ _ => n

/-- A waiter observes its signal: a WAIT completes OK and its queue goes on; a Tison core receives `v` (R336, R341). -/
def State.wakeWaiter (s : State) (w : Waiter) (status : Nat) (v : Word) : State :=
  let s := { s with waiters := s.waiters.erase w }
  match w with
  | .queue q _ _ => match (s.queueAt q).fetched.head? with
    | some c => s.doneCmd q c status
    | none => s
  | .core c _ rd _ => { s with tison := s.tison.modify c fun t =>
      { t with regs := if rd = 0 then t.regs else t.regs.set rd v, pc := t.pc + 4, asleep := false } }

/-- Sets a signal bit: the oldest waiter alone observes it and clears it (R336, R341). -/
def State.setSignal (s : State) (n : Nat) : State :=
  match s.waiters.find? fun w => w.sig == n with
  | some w => s.wakeWaiter w 0 1
  | none => { s with signals := s.signals ||| BitVec.twoPow 1024 n }

/-- Clears a signal bit. -/
def State.clearSignal (s : State) (n : Nat) : State := { s with signals := s.signals &&& ~~~BitVec.twoPow 1024 n }

end Sys2Proof.Machine
end

