-- ==== Sys2Proof/Machine/Work.lean ====
section
/-!
DEFINITION. What feeds a team: the dispenser (R302, R303), the task pool (R304 to R309) and the work queues (R310, R311).
-/
namespace Sys2Proof.Machine

/-! ### The dispenser -/

/-- Replaces a core's empty block: the returned block of lowest first index, else the next DBLK indices (R302). -/
def LaunchCtx.nextBlock (k : LaunchCtx) : LaunchCtx × List Nat :=
  let low := k.returned.foldl (fun (b : Option (List Nat)) x => match b with
    | none => some x
    | some y => if x.headD 0 < y.headD 0 then some x else some y) none
  match low with
  | some b => ({ k with returned := k.returned.erase b }, b)
  | none =>
    let n := if k.lp.dblk = 0 then 64 else k.lp.dblk
    let hi := min (k.dispC + n) k.lp.dcount
    ({ k with dispC := max k.dispC hi }, (List.range (hi - k.dispC)).map fun i => k.dispC + i)

/-- Draws an index for the focused team: none where no index is left (R302). -/
def State.draw (s : State) : State × Option Nat :=
  let (k, b) := if s.tm.block.isEmpty then s.ctx.nextBlock else (s.ctx, s.tm.block)
  let s := s.modCtx s.tm.ctx fun _ => k
  match b with
  | [] => (s, none)
  | i :: rest => (s.setTm { s.tm with block := rest }, some i)

/-- R302, R303: pushes an index; a region holds at most one, and a region that is run again pushes the one it held. -/
def execDisp (s : State) : Host.Outcome State Fault Refusal :=
  laneStep 4 (fun s => s.withStack .none (.of 0 1) false fun s =>
    let s := if s.fr.region.disp.isSome then s.beginRegion s.fr.pc s.fr.region.base s.fr.region.count else s
    let keep := fun (s : State) (w : Word) =>
      let s := s.replaceScalar 0 [Entry.plain w]
      Res.ok ((s.setFr { s.fr with redisp := none, region := { s.fr.region with disp := some w } }).finish 4)
    match s.fr.redisp with
    | some w => keep s w
    | none => match s.draw with
      | (s, some i) => keep s (BitVec.ofNat 64 i)
      | (s, none) => .ok ((s.replaceScalar 0 [Entry.plain (BitVec.allOnes 64)]).finish 4)) s

/-! ### The task pool -/

/-- TCB states (R304). -/
def tcbNew : Nat := 0
def tcbArmed : Nat := 1
def tcbReady : Nat := 2
def tcbRunning : Nat := 3
def tcbDone : Nat := 4

/-- Another fragment of the launch that waits for `w` and parked before the focused one (R308, R311). -/
def State.launchBefore (s : State) (same : Team → Bool) (is : Wait → Bool) : Bool :=
  let mine := s.fr
  (s.allTeams.filter fun t => t.ctx == s.tm.ctx && same t).any fun t => t.groups.any fun g => g.allFrags.any fun f =>
    is f.wait && (mine.fresh || decide (f.parkedAt < mine.parkedAt))

/-- TASK with reason 0 for a launch without a task context (R306, R323). -/
def State.noTasks (s : State) : Option LaneFault := if s.tm.lp.task then none else some (s.faultAll .task 0)

/-- The ready task to be delivered: highest PRIO, then lowest RSEQ (R308). -/
def TaskCtx.first (k : TaskCtx) : Option ReadyTask :=
  k.pool.foldl (fun b t => match b with
    | none => some t
    | some u => if u.prio < t.prio ∨ (u.prio = t.prio ∧ t.rseq < u.rseq) then some t else b) none

/-- Takes a task out of the pool; the oldest task of the overflow list takes its place (R309). -/
def TaskCtx.take (k : TaskCtx) (t : ReadyTask) : TaskCtx :=
  { k with pool := k.pool.erase t ++ k.spillq.take 1, spillq := k.spillq.drop 1 }

/-- R308: delivers a task, or -1 when none is open and no arm is outstanding; a TCB on a page that the device is losing to a flip is
awaited (R79). -/
def execTaskGet (s : State) : Host.Outcome State Fault Refusal :=
  laneStep 4 (fun s => s.withStack .none (.of 0 1) false fun s =>
    match s.noTasks with
    | some x => .fault x
    | none =>
      let k := s.ctx.tasks
      if s.launchBefore (fun _ => true) (fun w => w == .task) then .park .task s
      else match k.first with
        | some t =>
          if (s.physOf s.ctx.fn t.addr.toNat).any s.flipHeld then .park (.page t.addr.toNat) (s.awaitPage .taskGet) else
          let s := s.modCtx s.tm.ctx fun c =>
            { c with tasks := { c.tasks.take t with running := c.tasks.running ++ [(t.addr, s.teamRef)] } }
          let s := s.handOff t.pts
          let s := match s.physOf s.ctx.fn t.addr.toNat with
            | some pa => (((s.putNat 0 (pa + 25) 1 tcbRunning).putNat 0 (pa + 48) 4 (agentOf s.fragRef).toNat).stampEvent s.fr.pts 0
                [] [] [(0, lineOf pa)]).1
            | none => s
          let s := (s.setGp { s.gp with tcb := t.addr }).noteLane 7 0
          .ok ((s.replaceScalar 0 [Entry.plain t.addr]).finishRegion 4)
        | none =>
          if k.opened = 0 ∧ !(s.poolOps.any fun o => o.arm && o.ctx == s.tm.ctx) then
            .ok ((s.replaceScalar 0 [Entry.plain (BitVec.allOnes 64)]).finishRegion 4)
          else .park .task s) s

/-- `task.arm` and `task.done` at issue (R306, R307): checks, and the operation is posted. -/
def taskPost (i : Instr) (arm : Bool) (g : Guard) (s : State) : Host.Outcome State Fault Refusal :=
  laneStep 4 (fun s => s.withStack .none (.of 1 0) true fun s =>
    let t := arg (s.scalarArgs 1) 0
    match s.noTasks with
    | some x => .fault x
    | none =>
      if !s.fr.guard g then .ok ((s.replaceScalar 1 []).finishRegion 4)
      else
        let post := fun (pa : Nat) =>
          if (s.pageOf s.ctx.fn t.toNat).any fun p => p.region != 0 then Res.fault (s.faultAll .region t.toNat)
          else
            let o : PoolOp := { id := s.seqNo, arm := arm, ctx := s.tm.ctx, team := s.teamRef, who := s.gp.uid, mask := s.fr.mask,
                                tcb := t, pa := pa, pts := s.fr.pts }
            let s := s.setGp { s.gp with tcb := if arm then s.gp.tcb else 0 }
            .ok (((State.countOp { s with poolOps := s.poolOps ++ [o] } .tl).replaceScalar 1 []).finishRegion 4)
        match s.checkAddr .atomic .g 64 t.toNat with
        | .miss => .park (.page t.toNat) (s.awaitPage i)
        | .good x => post x.key
        | .bad c => if c = .rlock then post ((s.physOf s.ctx.fn t.toNat).getD 0) else .fault (s.faultAll c t.toNat)) s

/-- R306, R307. -/
def execTaskArm (g : Guard) (s : State) : Host.Outcome State Fault Refusal := taskPost (.taskArm g) true g s

/-- R306, R307. -/
def execTaskDone (g : Guard) (s : State) : Host.Outcome State Fault Refusal := taskPost (.taskDone g) false g s

/-- The bytes of a launch's spill area in use: a record of 2 KB for each line and queued group, the swap records, and 16 bytes
for each overflow entry (R309, R316). -/
def State.spillUsed (s : State) (c : Nat) : Nat :=
  ((s.allTeams.filter fun t => t.ctx == c).map fun t =>
    2048 * (t.lines.length + t.queued.length) + 4096 * (t.swapped.map (·.1)).sum).sum +
    16 * (s.ctxs.getD c LaunchCtx.empty).tasks.spillq.length

/-- An error that the pool finds is traced and logged, ends the launch and names a TCB (R30, R305, R309, R356; log entry 44). -/
def State.poolFatal (s : State) (c : Nat) (tcb : Word) : State :=
  let s := s.noteCtx c poolEngine 5 tcb (BitVec.ofNat 64 (codeNum .task))
  let s := s.dump c poolEngine tcb (toBytes 1 (codeNum .task) ++ [0] ++ toBytes 2 poolEngine ++ toBytes 4 0 ++ toBytes 8 tcb.toNat)
  s.fatal c (s.fatalFault (codeNum .task) poolEngine (unitPlace poolEngine) tcb)

/-- RELEASES a task: it takes the next release number and enters the pool, or the overflow list when the pool is full (R305, R309); `t` is the
pts of the fragment that issued the operation, which `task.get` receives (R307). -/
def State.release (s : State) (c : Nat) (tcb : Word) (pa t : Nat) : State :=
  let k := s.ctxs.getD c LaunchCtx.empty
  let r : ReadyTask := { prio := field (s.byteAt 0 (pa + 24)).toNat 2 0, rseq := k.tasks.rseq, addr := tcb, pts := t }
  let s := (s.putNat 0 (pa + 40) 8 r.rseq).putNat 0 (pa + 25) 1 tcbReady
  let s := s.modCtx c fun k => { k with tasks := { k.tasks with rseq := k.tasks.rseq + 1 } }
  if k.tasks.pool.length < 4096 then s.modCtx c fun k => { k with tasks := { k.tasks with pool := k.tasks.pool ++ [r] } }
  else if s.spillUsed c + 16 ≤ k.lp.spillsz then
    s.modCtx c fun k => { k with tasks := { k.tasks with spillq := k.tasks.spillq ++ [r] } }
  else s.poolFatal c tcb

/-- Changes the count of open tasks. -/
def State.openTasks (s : State) (c : Nat) (f : Nat → Nat) : State :=
  s.modCtx c fun k => { k with tasks := { k.tasks with opened := f k.tasks.opened } }

/-- An operation of the pool is applied: it leaves the pool and its tl class (R307). -/
def State.poolDone (s : State) (o : PoolOp) : State :=
  State.modTeam { s with poolOps := s.poolOps.filter fun p => p.id != o.id } o.team fun t =>
    { t with outs := t.outs.filter fun x => !(x.id == o.id && x.cls == .tl) }

/-- The operation numbered `id` that the pool may apply: none of the same fragment was issued before it (R307). -/
def State.poolNext (s : State) (id : Nat) (arm : Bool) : Option PoolOp :=
  (s.poolOps.find? fun o => o.id == id && o.arm == arm).filter fun o =>
    !(s.poolOps.any fun p => decide (p.id < o.id) && p.team == o.team && p.who == o.who && (p.mask &&& o.mask) != 0)

/-- R305, R307: `task.arm` at the TCB's home. -/
def execTaskArmApply (op : Nat) (s : State) : Host.Outcome State Fault Refusal :=
  match s.poolNext op true with
  | none => .next s
  | some o =>
    let s := s.poolDone o
    let state := (s.byteAt 0 (o.pa + 25)).toNat
    let prio := (s.byteAt 0 (o.pa + 24)).toNat
    if state ≠ tcbNew ∨ 7 < prio then .next (s.poolFatal o.ctx o.tcb)
    else
      let dep := s.natAt 0 (o.pa + 16) 4
      let (s, _) := s.stampEvent o.pts 0 [] [] [(0, lineOf o.pa)]
      let s := s.openTasks o.ctx (· + 1)
      .next (if dep = 0 then s.release o.ctx o.tcb o.pa o.pts else s.putNat 0 (o.pa + 25) 1 tcbArmed)

/-- A predecessor's decrement of one successor, an event from `pts`; `sent` is the pts of the fragment that issued `task.done` (R307), and the pager
makes the TCB's page resident (R221, R305). -/
def State.decrement (s : State) (c : Nat) (pts sent : Nat) (tcb : Word) : State :=
  let fn := (s.ctxs.getD c LaunchCtx.empty).fn
  let s := s.pageIn fn tcb.toNat
  match s.physOf fn tcb.toNat with
  | none => s.poolFatal c tcb
  | some pa =>
    let dep := s.natAt 0 (pa + 16) 4
    let state := (s.byteAt 0 (pa + 25)).toNat
    if dep = 0 ∨ (state ≠ tcbNew ∧ state ≠ tcbArmed) then s.poolFatal c tcb
    else
      let (s, _) := (s.putNat 0 (pa + 16) 4 (dep - 1)).stampEvent pts 0 [] [] [(0, lineOf pa)]
      if state = tcbArmed ∧ dep = 1 then s.release c tcb pa sent else s

/-- The decrements of a list of successors, in order. -/
def State.decrementAll (s : State) (c pts sent : Nat) : List Word → State
  | [] => s
  | w :: ws => (s.decrement c pts sent w).decrementAll c pts sent ws

/-- R305, R307: `task.done` at the TCB's home; the pager makes the pages of the successor list resident. -/
def execTaskDoneApply (op : Nat) (s : State) : Host.Outcome State Fault Refusal :=
  match s.poolNext op false with
  | none => .next s
  | some o =>
    let s := s.poolDone o
    if (s.byteAt 0 (o.pa + 25)).toNat ≠ tcbRunning then .next (s.poolFatal o.ctx o.tcb)
    else
      let fn := (s.ctxs.getD o.ctx LaunchCtx.empty).fn
      let n := s.natAt 0 (o.pa + 20) 4
      let list := s.natAt 0 (o.pa + 32) 8
      let s := (List.range n).foldl (fun (s : State) i => s.pageIn fn (list + 8 * i)) s
      let at' := (List.range n).map fun i => s.physOf fn (list + 8 * i)
      let succs := at'.map fun p => match p with
        | some pa => BitVec.ofNat 64 (s.natAt 0 pa 8)
        | none => 0
      let (s, t) := (s.putNat 0 (o.pa + 25) 1 tcbDone).stampEvent o.pts 0 (at'.filterMap fun p => p.map fun pa => (0, lineOf pa)) []
        [(0, lineOf o.pa)]
      let s := s.modCtx o.ctx fun k => { k with tasks := { k.tasks with running := k.tasks.running.filter fun x => x.1 != o.tcb } }
      .next ((s.decrementAll o.ctx t o.pts succs).openTasks o.ctx (· - 1))

/-! ### Work queues -/

/-- The unit behind window entry `w` of the focused team: on its home die (R310). -/
def State.queueUnit (s : State) (w : Nat) : Option WorkQueue :=
  s.wqs.find? fun q => q.die == s.tm.home && q.ctx == some s.tm.ctx && q.win == w

/-- Replaces the items of a unit. -/
def State.setItems (s : State) (q : WorkQueue) (items : List (Word × Word × Nat)) : State :=
  { s with wqs := s.wqs.map fun x => if x.die = q.die ∧ x.unit = q.unit then { x with items := items } else x }

/-- WQ of the executing fragment with reason 0 (R311, R323). -/
def State.wqFault (s : State) (w : Nat) : Res := .fault (s.faultAll .wq w)

/-- A fragment of the launch on the same die that parked for the same end of a queue before (R311). -/
def State.queueAhead (s : State) (w : Nat) (push : Bool) : Bool :=
  s.launchBefore (fun t => t.home == s.tm.home) fun x => match x with
    | .queue w' p _ => w' == w && p == push
    | _ => false

/-- Writes a predicate of every active lane: 1 in the lanes of `moved` (R311). -/
def State.setMoved (s : State) (r : Option (Fin 8)) (moved : Mask) : State :=
  match r with
  | some r => s.mapActive fun l => { l with preds := setPred l.preds r (inMask moved l.ix) }
  | none => s

/-- The first `n` lanes of a mask. -/
def firstLanes (m : Mask) (n : Nat) : List Nat := ((List.range 32).filter fun i => inMask m i).take n

/-- `wq.push` (R311): `r` names the predicate of the try form. -/
def pushBody (w : Nat) (g : Guard) (r : Option (Fin 8)) (s : State) : Res :=
  s.withStack (.of 2 0) .none true fun s =>
    match s.queueUnit w with
    | none => s.wqFault w
    | some q =>
      let m := s.guarded false g
      let k := countLanes m
      let room := 4096 - q.items.length
      if r.isNone ∧ (room < k ∨ s.queueAhead w true) then .park (.queue w true k) s
      else
        let lanes := firstLanes m room
        let items := s.active.filterMap fun l =>
          if lanes.contains l.ix then some (arg (valsOf 2 l.stk) 0, arg (valsOf 2 l.stk) 1, s.fr.pts) else none
        .ok ((((s.setItems q (q.items ++ items)).setMoved r (maskOf lanes.contains)).popLanes 2).finishRegion 4)

/-- R311. -/
def execWqPush (w : Fin 16) (g : Guard) (s : State) : Host.Outcome State Fault Refusal := laneStep 4 (pushBody w g none) s

/-- R311. -/
def execWqPushTry (w : Fin 16) (g : Guard) (r : Fin 8) (s : State) : Host.Outcome State Fault Refusal :=
  laneStep 4 (pushBody w g (some r)) s

/-- `wq.pop` (R311): `r` names the predicate of the try form. -/
def popBody (w : Nat) (g : Guard) (r : Option (Fin 8)) (s : State) : Res :=
  s.withStack (.of 0 2) .none false fun s =>
    match s.queueUnit w with
    | none => s.wqFault w
    | some q =>
      let m := s.guarded false g
      let k := countLanes m
      if r.isNone ∧ (q.items.length < k ∨ s.queueAhead w false) then .park (.queue w false k) s
      else
        let lanes := firstLanes m q.items.length
        let got := lanes.zip q.items
        let s := got.foldl (fun s x => s.handOff x.2.2.2) (s.setItems q (q.items.drop lanes.length))
        let s := s.setMoved r (maskOf lanes.contains)
        .ok ((s.replaceLanes 0 2 fun l => match got.lookup l.ix with
          | some x => [Entry.plain x.1, Entry.plain x.2.1]
          | none => [Entry.plain 0, Entry.plain 0]).finishRegion 4)

/-- R311. -/
def execWqPop (w : Fin 16) (g : Guard) (s : State) : Host.Outcome State Fault Refusal := laneStep 4 (popBody w g none) s

/-- R311. -/
def execWqPopTry (w : Fin 16) (g : Guard) (r : Fin 8) (s : State) : Host.Outcome State Fault Refusal :=
  laneStep 4 (popBody w g (some r)) s

end Sys2Proof.Machine
end

