-- ==== Sys2Proof/Machine/Preempt.lean ====
section
/-!
DEFINITION. Discarding a region (R224 to R226) and the pocket's lines (R315): what a swap, a pre-emption and `spawn` share.
-/
namespace Sys2Proof.Machine

/-! ### Discarding regions (R224 to R226) -/

/-- The lane part: the window slots hold their entry values and the others zero, predicates, `%lcw` and generator are those of
the record, and the stack is cut to the entry depth, with the copies of R224 back in place. Up to 8 entries of it are fast again and the backing area
holds the rest in units of 4 (DESIGN CHOICE, log entry 68). -/
def Lane.rollback (l : Lane) (r : Region) : Lane :=
  let undone := l.undo.foldl (fun xs u => xs.set u.1 u.2) l.slots
  let slots := undone.mapIdx fun i v => if r.base ≤ i ∧ i < r.base + r.count then v else 0
  let cs := (r.copies.lookup l.ix).getD []
  let stk := cs ++ l.stk.drop (l.stk.length - (r.ldepth - cs.length))
  { l with slots := slots, bad := l.bad.filter fun i => decide (r.base ≤ i) && decide (i < r.base + r.count), stk := stk,
           back := if stk.length ≤ 8 then 0 else (stk.length - 8 + 3) / 4 * 4, undo := [],
           preds := l.mark.preds, lcw := l.mark.lcw, gen := l.mark.gen }

/-- The fragment part: it stands at its region entry and issues again from there (R226, R227); an index drawn in the region
is kept for its next `disp` (R303), and the copies of R224 stay in the record, so that the restarted instruction is exempt again
(R173). -/
def Frag.rollback (f : Frag) : Frag :=
  let r := f.region
  { f.unwait with pc := r.entryPc, lc := r.lc, lb := r.lb, le := r.le, rc := r.rc, cpreds := r.cpreds,
                  sstk := f.sstk.drop (f.sstk.length - r.sdepth), yielded := false, promoted := false,
                  redisp := f.redisp.orElse fun _ => r.disp, region := { r with disp := none, breaks := !r.copies.isEmpty } }

/-- A fragment that can be discarded: one that has stopped for good stays stopped. -/
def Frag.discard (f : Frag) : Frag := if f.wait = .dead then f else f.rollback

/-- Every live fragment of a group discards its region (R225, step 4). -/
def Group.rollback (g : Group) : Group :=
  let owner := fun (ix : Nat) => g.allFrags.find? fun f => inMask f.mask ix
  { g.mapFrags Frag.discard with
    lanes := g.lanes.map fun l => match owner l.ix with
      | some f => if f.wait = .dead then l else l.rollback f.region
      | none => l }

/-- Whether a team's fragments must first end an instruction in progress: a `fence`, or a `svc` that awaits its reply (R225,
step 2). -/
def Team.inProgress (t : Team) : Bool :=
  t.groups.any fun g => g.allFrags.any fun f => f.wait.inProgress

/-- Whether a sequencer is in a state in which it can be pre-empted (R247). -/
def Seq.stopped (q : Seq) : Bool := q.flight.isNone && q.st != .run

/-- Whether a team can be pre-empted now: no `fence` or `svc` is in progress, its sequencer stands in a state of R247, or where a step stopped it in
one (R360), and its island is
on (R225, R247, R352). Operations that it issued go on. -/
def State.canPreempt (s : State) (t : Team) : Bool :=
  t.held || (!t.inProgress && (t.seq.stopped || (t.seq.flight.isNone && s.seqHeld t)) && s.islandOn t.core)

/-- Every load a team waits for arrives (R225, step 3). -/
def Team.arriveAll (t : Team) : Team :=
  ((t.outs.filter fun o => o.cls == .ld).map (·.id)).foldl Team.arrived t

/-! ### The pocket (R315, R316, R324) -/

/-- Adds to a pocket counter of a core (R324). -/
def State.countPocket (s : State) (core c k n : Nat) : State :=
  s.modCtx c fun x =>
    let old := (x.pcnts.lookup core).getD (List.replicate 11 0)
    { x with pcnts := (core, old.modify k fun v => v + BitVec.ofNat 32 n) :: x.pcnts.filter fun p => p.1 != core }

/-- The child groups of a team in RUN, FORMED, QUEUED or GATHER (R316). -/
def Team.children (t : Team) : Nat := (t.groups.filter Group.child).length + t.lines.length + t.queued.length

/-- Notes the largest number of child groups of a team (R324, word 10). -/
def State.noteMaxOf (s : State) (r : TeamRef) : State :=
  match s.findTeam r with
  | some t =>
    let n := t.children
    s.modCtx t.ctx fun x =>
      let old := (x.pcnts.lookup t.core).getD (List.replicate 11 0)
      if (old.getD 10 0).toNat < n then
        { x with pcnts := (t.core, old.set 10 (BitVec.ofNat 32 n)) :: x.pcnts.filter fun p => p.1 != t.core } else x
  | none => s

/-- The same for the focused team. -/
def State.noteMax (s : State) : State := s.noteMaxOf s.teamRef

/-- Forms the gathering lines of a team that satisfy `is` (R315). -/
def Team.form (t : Team) (is : PocketLine → Bool) : Team :=
  { t with lines := t.lines.map fun l => if !l.formed && is l then { l with formed := true } else l }

/-- How many gathering lines satisfy `is`. -/
def Team.gathering (t : Team) (is : PocketLine → Bool) : Nat := (t.lines.filter fun l => !l.formed && is l).length

/-- Forms gathering lines of the focused team and counts them under counter `k` (R324). -/
def State.formLines (s : State) (k : Nat) (is : PocketLine → Bool) : State :=
  let n := s.tm.gathering is
  if n = 0 then s else (s.setTm (s.tm.form is)).countPocket s.tm.core s.tm.ctx k n

/-! ### Pre-emption (R225, R318) -/

/-- PRE-EMPTS a team: its loads return, its gathering lines are formed, and every region is discarded (R225, R315). -/
def Team.preempt (t : Team) : Team := (t.arriveAll.mapGroups Group.rollback).form fun _ => true

/-- A team that is to be pre-empted issues nothing new (R225, step 1). -/
def State.halt (s : State) (r : TeamRef) : State := s.modTeam r fun t => if t.held then t else { t with halting := true }

/-- The counter of a pre-emption: lines formed by it (R324). -/
def State.preemptCounts (s : State) (t : Team) : State := s.countPocket t.core t.ctx 7 (t.gathering fun _ => true)

end Sys2Proof.Machine
end

