-- ==== Sys2Proof/Machine/Launch.lean ====
section
/-!
DEFINITION. The path of a launch (R28 to R30, R299, R300): the launch record and its checks, admission and the placement of
teams, the retirement of teams, and the completion and the stop of a launch.
-/
namespace Sys2Proof.Machine

/-! ### The launch record (R299) -/

/-- The number in `n` bytes at a device virtual address of a function, through the firmware's translation (R335). -/
def State.vNat (s : State) (fn va n : Nat) : Nat :=
  match s.physOf fn va with
  | some pa => s.seenNat 4 0 pa n
  | none => 0

/-- Whether the pages from `lo` up to `hi` are mapped for a function and satisfy `ok`; `n` bounds the pages looked at. -/
def State.mapped (s : State) (fn : Nat) (ok : PageEntry → Bool) (hi : Nat) : Nat → Nat → Bool
  | 0, lo => decide (hi ≤ lo)
  | n + 1, lo => decide (hi ≤ lo) || match s.pageOf fn lo with
    | some p => ok p && s.mapped fn ok hi n (p.va + 2 ^ p.log2)
    | none => false

/-- Whether `len` bytes at an address of a function lie in mapped pages that satisfy `ok`. -/
def State.mappedRange (s : State) (fn lo len : Nat) (ok : PageEntry → Bool) : Bool :=
  s.mapped fn ok (lo + len) (s.pages.length + 1) lo

/-- The record that `rd` reads, with the declaration tables that `rt` reads; the layout of a ring entry is a base of 4 bytes, then
slotbytes ÷ 128 and slots of 2 bytes each (log entry 32). -/
def recordOf (rd rt : Nat → Nat → Nat) : LaunchRec :=
  { code := BitVec.ofNat 64 (rd 0 8), entry := BitVec.ofNat 64 (rd 8 8), trap := BitVec.ofNat 64 (rd 16 8), cw := rd 24 1,
    ch := rd 25 1, nclus := rd 26 2, gang := rd 28 1, dies := rd 29 1, team := rd 30 1 % 64, yoke := decide (128 ≤ rd 30 1),
    prio := rd 31 1, frame := rd 32 2, stack := rd 34 2, acc := rd 36 1, cres := rd 37 1, lease := rd 38 2, spad := rd 40 4,
    dspad := rd 44 4, seed := BitVec.ofNat 32 (rd 48 4), drm := rd 52 1, task := rd 53 1 == 1, dblk := rd 54 2,
    dcount := rd 56 8, spill := BitVec.ofNat 64 (rd 64 8), spillsz := rd 72 8, wqmask := rd 88 2,
    bars := (List.range 16).map fun n => (rt (2 * n) 2 % 64, field (rt (2 * n) 2) 7 7 == 1),
    rings := (List.range 16).map fun n => (rt (32 + 8 * n) 4, 128 * rt (36 + 8 * n) 2, rt (38 + 8 * n) 2),
    views := (List.range 16).map fun n => (List.range 16).map fun w => BitVec.ofNat 32 (rt (160 + 64 * n + 4 * w) 4),
    spawns := (List.range 64).map fun n => BitVec.ofNat 64 (rt (1184 + 8 * n) 8) }

/-- Bytes of the declaration tables (R299). -/
def declBytes : Nat := 1696

/-- Bytes of lane slice that a group slot takes (R21). -/
def LaunchRec.sliceBytes (r : LaunchRec) : Nat := 32 * (4 * r.frame + 8 * r.stack)

/-- Whether an entry address lies in the code image (R299): its page is mapped, at or above CODE (log entry 24). -/
def State.inImage (s : State) (fn : Nat) (r : LaunchRec) (a : Word) : Bool :=
  a.toNat % 2 == 0 && decide (r.code.toNat ≤ a.toNat) && (s.pageOf fn a.toNat).isSome

/-- A check of a field of the launch record. -/
def recCheck (off : Nat) (ok : Bool) : Bool × Reject342 := (ok, badField off 1)

/-- The range checks of the launch record, in the order of their fields (R242, R299); `rd` reads the record. -/
def State.recordChecks (s : State) (fn : Nat) (r : LaunchRec) (rd : Nat → Nat → Nat) : List (Bool × Reject342) :=
  [recCheck 0 (r.code.toNat % 16 == 0),
   recCheck 8 (s.inImage fn r r.entry),
   recCheck 16 (r.trap == 0 || s.inImage fn r r.trap),
   recCheck 24 (decide (1 ≤ r.cw) && decide (r.cw ≤ 12)),
   recCheck 25 (decide (1 ≤ r.ch) && decide (r.ch ≤ 12) && decide (r.cw * r.ch ≤ 12)),
   recCheck 26 (decide (1 ≤ r.nclus) && decide (r.nclus ≤ 576)),
   recCheck 28 (r.gang == 0 || r.nclus % r.gang == 0),
   recCheck 29 (decide (1 ≤ r.dies) && decide (r.dies ≤ 15)),
   recCheck 30 (decide (1 ≤ r.team) && decide (r.team ≤ 32) && field (rd 30 1) 6 6 == 0),
   (!r.yoke || r.team % 2 == 0, { code := codeNum .yoke, detail := 0 }),
   recCheck 31 (decide (r.prio ≤ 7)),
   recCheck 32 (decide (r.frame ≤ 2048)),
   recCheck 34 (decide (r.stack ≤ 1024) && r.stack % 4 == 0),
   recCheck 36 (decide (r.acc ≤ 16)),
   recCheck 37 (decide (4 ≤ r.cres) && decide (r.cres ≤ 64) && decide ((r.team + r.cres) * 32 * r.cw * r.ch ≤ 32768)),
   recCheck 38 (decide (r.lease ≤ 1024)),
   recCheck 40 (r.spad % 128 == 0 && decide (r.spad ≤ 786432)),
   recCheck 44 (r.dspad % 128 == 0 && decide (r.dspad ≤ 2 ^ 26)),
   recCheck 52 (decide (r.drm ≤ 5)),
   recCheck 53 (decide (rd 53 1 ≤ 1)),
   recCheck 54 (decide (r.dblk ≤ 4096)),
   recCheck 56 (decide (r.dcount ≤ 2 ^ 62)),
   recCheck 64 (r.spill.toNat % 4096 == 0 && s.mappedRange fn r.spill.toNat r.spillsz fun p => p.region != 1),
   recCheck 72 (r.spillsz % 4096 == 0),
   recCheck 80 (rd 80 8 % 64 == 0 && s.mappedRange fn (rd 80 8) declBytes fun _ => true)]

/-- The checks of the declaration tables. R299 states a rule of acceptance for the ring entries alone; that a barrier entry with more groups than TEAM is
rejected, one of no group with the sequencer accepted, and no spawn entry's address checked, is the model's choice (DESIGN CHOICE, log entry 68:
R107 bounds what an assembler writes). -/
def LaunchRec.declChecks (r : LaunchRec) : List (Bool × Reject342) :=
  (r.bars.mapIdx fun n b => (decide (b.1 ≤ r.team), badField (2 * n) 2)) ++
    r.rings.mapIdx fun n q =>
      let (base, bytes, slots) := q
      ((base == 0 && bytes == 0 && slots == 0) || (base % 128 == 0 && decide (128 ≤ bytes) && decide (bytes ≤ 65536) &&
        decide (1 ≤ slots) && decide (slots ≤ 64) && decide (base + bytes * slots ≤ r.spad)), badField (32 + 8 * n) 2)

/-! ### Cores and their resources (R21) -/

/-- The module core numbers of a rectangle, by member index (R10, R18). -/
def rectCores (cw ch : Nat) (p : Rect) : List Nat :=
  (List.range (cw * ch)).map fun i => p.die * 144 + (p.row0 + i / cw) * 12 + (p.col0 + i % cw)

/-- Whether a rectangle lies on a compute die. -/
def rectFits (cw ch : Nat) (p : Rect) : Bool :=
  decide (p.die < 4) && decide (p.row0 + ch ≤ 12) && decide (p.col0 + cw ≤ 12)

/-- Whether a core is enabled (R12). -/
def State.enabled (s : State) (core : Nat) : Bool := decide (core < 576) && !s.disabled.contains core && !s.failed.contains (islandOf core)

/-- The most rectangles that fit at once with their corners among `corners` and their cores outside `used`. -/
def packs (cw ch : Nat) (corners : List Rect) (used : List Nat) : Nat :=
  match corners with
  | [] => 0
  | p :: rest =>
    let cs := rectCores cw ch p
    let skip := packs cw ch rest used
    if rectFits cw ch p && cs.all (fun c => !used.contains c) then max skip (1 + packs cw ch rest (cs ++ used)) else skip

/-- The most clusters that the enabled cores of a die hold at once (R28). -/
def State.dieHolds (s : State) (cw ch die : Nat) : Nat :=
  let off := (List.range 576).filter fun c => c / 144 == die && !s.enabled c
  if off.isEmpty then (12 / cw) * (12 / ch)
  else packs cw ch ((List.range 144).map fun i => { die := die, row0 := i / 12, col0 := i % 12 }) off

/-- The dies that DIES allows. -/
def LaunchRec.dieList (r : LaunchRec) : List Nat := (List.range 4).filter fun d => field r.dies d d == 1

/-- Requests that no state of the module could supply (R28, step 3). -/
def State.supplyChecks (s : State) (r : LaunchRec) : List (Bool × Reject342) :=
  [recCheck 26 (decide (r.nclus ≤ (r.dieList.map fun d => s.dieHolds r.cw r.ch d).sum)),
   recCheck 37 (decide (r.team + r.cres ≤ 96)),
   recCheck 32 (decide (r.sliceBytes * (r.team + r.cres) ≤ 2 ^ 20))]

/-- The teams on a core. -/
def State.teamsOn (s : State) (core : Nat) : List Team := s.allTeams.filter fun t => t.core == core

/-- The group slots a team takes: its groups' and its reserve's. -/
def Team.slotsUsed (t : Team) : List Nat := ((t.groups.filter fun g => !g.child).map (·.gslot)) ++ t.resv

/-- The free group slots of a core, ascending; a team that is saved holds none (R227). -/
def State.freeSlots (s : State) (core : Nat) : List Nat :=
  let used := ((s.teamsOn core).filter fun t => !t.held).flatMap Team.slotsUsed
  (List.range 96).filter fun n => !used.contains n

/-- The accumulator slots of a core that no team there holds, ascending; a team that is saved holds none (R21, R230). -/
def State.freeAcc (s : State) (core : Nat) : List Nat :=
  let used := ((s.teamsOn core).filter fun t => !t.held).flatMap Team.phys
  (List.range 16).filter fun n => !used.contains n

/-- Whether a core has the five resources of R21 for a record, and runs. -/
def State.coreFits (s : State) (r : LaunchRec) (core : Nat) : Bool :=
  let ts := s.teamsOn core
  s.enabled core && decide ((ts.map fun t => t.slotsUsed.length).sum + r.team + r.cres ≤ 96) &&
    decide ((ts.map fun t => t.lp.sliceBytes * t.slotsUsed.length).sum + r.sliceBytes * (r.team + r.cres) ≤ 2 ^ 20) &&
    decide ((ts.map fun t => t.acc.length).sum + r.acc ≤ 16) && decide ((ts.map fun t => t.lp.spad).sum + r.spad ≤ 786432) &&
    decide (ts.length < 8)

/-- Free work-queue units of a die, ascending (R310). -/
def State.freeUnits (s : State) (die : Nat) : List Nat :=
  (List.range 16).filter fun u => !s.wqs.any fun q => q.die == die && q.unit == u

/-- The window entries that a record asks for. -/
def LaunchRec.windows (r : LaunchRec) : List Nat := (List.range 16).filter fun w => field r.wqmask w w == 1

/-- Whether a die has its share of die scratchpad and the work-queue units for a record (R310). -/
def State.dieFits (s : State) (r : LaunchRec) (die : Nat) : Bool :=
  let held := ((s.allTeams.filter fun t => t.home == die).map fun t => (t.ctx, t.lp.dspad)).dedup
  decide ((held.map (·.2)).sum + r.dspad ≤ 2 ^ 26) && decide (r.windows.length ≤ (s.freeUnits die).length)

/-- The lowest free launch context (R28, step 4). -/
def State.freeCtx (s : State) : Option Nat :=
  (List.range 8).find? fun c => (s.ctxs.getD c LaunchCtx.empty).phase == .free

/-! ### Placing teams (R28, step 5; R81, R181, R230, R278, R287) -/

/-- A team group as it starts: `%group` `g` in slot `slot`, with the lanes of `lanes` launched. -/
def startGroup (r : LaunchRec) (lanes : Mask) (g slot : Nat) : Group :=
  let f := { Frag.empty with mask := lanes, pc := r.entry }
  let lane := fun (i : Nat) =>
    if inMask lanes i then
      Lane.markRegion { Lane.empty i with
        live := true, slots := List.replicate r.frame 0, lcw := BitVec.ofNat 32 (r.drm * 2 ^ 8),
        gen := genSeed r.seed (32 * g + i) }
    else Lane.empty i
  { Group.empty with uid := g, gix := g, gslot := slot, lanes := (List.range 32).map lane,
                     fr := { f with region := f.regionAt r.entry 0 r.frame 0 } }

/-- The ring that an entry of the declaration tables declares (R287). -/
def startRing (q : Nat × Nat × Nat) : Ring :=
  { Ring.empty with base := q.1, slotBytes := q.2.1, slots := q.2.2, st := List.replicate q.2.2 .free,
                    spts := List.replicate q.2.2 0 }

/-- A team as its core's launch unit places it on virtual core `v`: `free` are the free group slots of the core, and `slots` its free accumulator
slots (R21, R230). -/
def startTeam (r : LaunchRec) (lanes : Mask) (ctx core v : Nat) (free slots : List Nat) : Team :=
  let n := r.cw * r.ch
  let groups := (List.range r.team).map fun g => startGroup r lanes g (free.getD g 0)
  { Team.empty with
    live := true, core := core, ctx := ctx, vcore := v, cluster := v / n, member := v % n, home := dieOf core, lp := r,
    gp := groups.headD Group.empty, gs := groups.drop 1, seed := r.seed,
    bars := r.bars.map fun b => { Barrier.empty with groups := b.1, plusM := b.2 },
    rings := r.rings.map startRing, views := r.views, acc := List.replicate r.acc AccSlot.empty, phys := slots.take r.acc,
    seq := { Seq.empty with gen := genSeed r.seed 65535 }, resv := (free.drop r.team).take r.cres }

/-- Every byte of a team's scratchpad share reads zero and is present (R278). -/
def State.clearShare (s : State) (core ctx : Nat) : State :=
  let lo := scrKey core ctx 0
  let mine := fun (k : Nat) => decide (lo ≤ k) && decide (k < lo + 2 ^ 20)
  { s with scr := s.scr.filter (fun c => !mine c.1), absent := s.absent.filter (fun l => !mine (128 * l)),
           poison := s.poison.filter fun p => !(p.1 == 2 && mine (128 * p.2)) }

/-- Grants the window entries of a launch units of a die (R310). -/
def State.grantUnits (s : State) (r : LaunchRec) (ctx die : Nat) : State :=
  let us := s.freeUnits die
  { s with wqs := s.wqs ++ r.windows.mapIdx fun i w =>
      ({ die := die, unit := us.getD i 0, ctx := some ctx, win := w, items := [] } : WorkQueue) }

/-- A launch claims context `c` (R28, step 4), whose debug registers and counters stay (R324, R362). -/
def State.claimCtx (s : State) (k : LaunchCtx) (c : Nat) : State :=
  s.modCtx c fun old => { k with
    phase := .waiting, attached := old.attached, bps := old.bps, wbase := old.wbase, wctl := old.wctl, causal := old.causal,
    pcnts := old.pcnts, lastDone := old.lastDone }

/-- What an admission drops from the caches: the translations of the launch's address space and those that hold a retired frame, and on the
footprint's cores the copies of read-shared lines and the lines of code (R63, R301, R372). -/
def State.dropCached (s : State) (fn : Nat) (cores frames : List Nat) : State :=
  let retired := fun (p : PageEntry) => frames.any fun f => decide (p.pa < (f + 1) * 4096) && decide (f * 4096 < p.pa + 2 ^ p.log2)
  let t := (s.dropTrans fun p => p.fn == fn || retired p).dropL1 fun c => (c.shared && cores.contains c.core) || frames.contains (c.line / 32)
  let t := t.dropScales fun b => (b.shared && cores.contains b.core) || frames.contains (b.block / 64)
  { t with icache := t.icache.filter fun c => !cores.contains c.core }

/-- ADMISSION: the launch that holds context `c` has its teams placed on `cores`, in the order of `%vcore` (R28, step 5; R210, R300, R305,
R324). Retired frames leave every mapping (R63, R372). -/
def State.placeLaunch (s : State) (c : Nat) (cores : List Nat) (lanes : Mask) : State :=
  let k := s.ctxs.getD c LaunchCtx.empty
  let s := s.dropCached k.fn cores s.retired
  let s := { s.modCtx c (fun k => { k with phase := .running, map := cores.mapIdx fun v m => (v, m), pcnts := [] }) with
    gone := s.gone ++ s.retired, retired := [], dbgLog := s.dbgLog.filter fun d => d.1 != c }
  let s := (cores.map dieOf).dedup.foldl (fun s d => s.grantUnits k.lp c d) s
  cores.zipIdx.foldl (fun s x =>
    let t := startTeam k.lp lanes c x.1 x.2 (s.freeSlots x.1) (s.freeAcc x.1)
    let s := (s.clearShare x.1 c)
    let s := { s with tm := t, teams := (if s.tm.live then [s.tm] else []) ++ s.teams }
    s.noteTeam (engineId 3 (dieOf x.1) (256 + x.1 % 144)) 3 0 0) s

/-! ### LAUNCH -/

/-- The launch context that a LAUNCH command asks for: its record is read as R299 lays it out. -/
def State.launchOf (s : State) (q : Nat) (c : List Byte) : LaunchCtx × (Nat → Nat → Nat) :=
  let fn := (s.queueAt q).fn
  let at' := cmdNat c 16 8
  let rd := fun (off n : Nat) => s.vNat fn (at' + off) n
  let rt := fun (off n : Nat) => s.vNat fn (rd 80 8 + off) n
  ({ LaunchCtx.empty with
     phase := .waiting, queue := q, seqno := cmdSeq c, sig := cmdSig c, fn := fn,
     recPa := (s.physOf fn at').getD 0, lp := recordOf rd rt, svcArea := BitVec.ofNat 64 (cmdNat c 24 8),
     dbgArea := BitVec.ofNat 64 (cmdNat c 32 8) }, rd)

/-- The checks of a LAUNCH command: its operands, its record, its tables, and what the module could ever supply (R28, R299,
R341). -/
def State.launchChecks (s : State) (q : Nat) (c : List Byte) : List (Bool × Reject342) :=
  let (k, rd) := s.launchOf q c
  let coherent := fun (p : PageEntry) => p.region == 0
  [((cmdNat c 16 8) % 64 == 0 && s.mappedRange k.fn (cmdNat c 16 8) 128 (fun _ => true), badField 16 0),
   (k.svcArea.toNat % 4096 == 0 && s.mappedRange k.fn k.svcArea.toNat 4096 coherent, badField 24 0),
   (s.mappedRange k.fn k.dbgArea.toNat 65536 coherent, badField 32 0)] ++
    s.recordChecks k.fn k.lp rd ++ k.lp.declChecks ++ s.supplyChecks k.lp

/-- A launch that has passed its checks claims a context, or waits for one in its queue (R28, step 4; R29). -/
def State.awaitCtx (s : State) (q : Nat) (k : LaunchCtx) : State :=
  match s.freeCtx with
  | some c => (s.modQueue q fun h => { h with pendL := none }).claimCtx k c
  | none => s.modQueue q fun h => { h with pendL := some k }

/-- The lines of device memory that hold the record and the tables of a LAUNCH command and keep stamps. -/
def State.launchLines (s : State) (q : Nat) (c : List Byte) : List LineId :=
  let (k, rd) := s.launchOf q c
  (s.virtualLines k.fn (cmdNat c 16 8) 128 ++ s.virtualLines k.fn (rd 80 8) declBytes).dedup.filter s.keepsStamps

/-- Tison's reads of the record and tables of the LAUNCH command at the head of a queue are events of the core whose firmware reads them (R66, R335;
log entry 29). -/
def State.readLaunch (s : State) (q : Nat) : State :=
  match s.headCmd q (· == 1) with
  | some c => if (s.headerBad c).isNone then s.tisonEvent (Config.writerCore s.ticks).val (s.launchLines q c) [] else s
  | none => s

/-- R28, R299, R339: a LAUNCH command is checked; it completes REJECTED, or its launch claims a context, as soon as one is free. A command
of no known operation completes REJECTED. -/
def execLaunch (q : Fin 64) (s : State) : Host.Outcome State Fault Refusal :=
  match (s.queueAt q).pendL with
  | some k => .next (if s.stopReq || s.stopped then s else s.awaitCtx q k)
  | none =>
    match s.headCmd q (fun op => op == 0 || decide (8 ≤ op)) with
    | some c => .next (s.rejectCmd q c (badField 0 0))
    | none =>
      let u := s.readLaunch q
      .next (u.command q 1 (s.launchChecks q) fun c => u.awaitCtx q (s.launchOf q c).1)

/-- Whether a launch may be placed on `cores`: a running, enabled place of each, none named twice, with what R21 and R310 ask (R28,
R31). -/
def State.placeable (s : State) (r : LaunchRec) (cores : List Nat) : Bool :=
  cores.all (fun m => s.coreFits r m && !s.gated.contains (dieOf m)) && cores.dedup.length == cores.length &&
    (cores.map dieOf).dedup.all fun d => s.dieFits r d

/-- Whether a command may take cores away: SHRINK, or a die gate (R31, R354). -/
def gateOp (c : List Byte) : Bool := cmdNat c 0 1 == 5 || (cmdNat c 0 1 == 6 && cmdNat c 16 1 == 2 && cmdNat c 19 1 == 1)

/-- Whether no SHRINK or die gate has started, or may start, that takes resources away: launches are placed against what remains (R31). -/
def State.settled (s : State) : Bool :=
  s.jobs.isEmpty && (List.range 64).all fun q => !((s.headCmd q fun _ => true).any gateOp && s.serialTurn q)

/-- Whether launches are admitted now: not while the debugger stops the module (R359). -/
def State.admits (s : State) : Bool := !s.stopReq && !s.stopped && s.settled

/-- The context in which the launch of a queue waits for its resources (R28, step 4). -/
def State.waitingCtx (s : State) (q : Nat) : Option Nat :=
  (List.range 8).find? fun c =>
    let k := s.ctxs.getD c LaunchCtx.empty
    k.phase == .waiting && k.queue == q && k.copy.isNone

/-- R28, R29, R300: the waiting launch of a queue is admitted, every cluster in the rectangle that Tison chose, with the lanes of
`lanes` launched in each group (log entry 13). -/
def execLaunchAdmit (q : Fin 64) (place : List Rect) (lanes : Mask) (s : State) : Host.Outcome State Fault Refusal :=
  match s.waitingCtx q with
  | some c =>
    let k := s.ctxs.getD c LaunchCtx.empty
    let r := k.lp
    let cores := place.flatMap (rectCores r.cw r.ch)
    if s.admits && lanes != 0 && place.length == r.nclus &&
        place.all (fun p => rectFits r.cw r.ch p && r.dieList.contains p.die) && s.placeable r cores then
      .next (((s.modQueue q HostQueue.started).noteCmd 1 q k.seqno).placeLaunch c cores lanes)
    else .next s
  | none => .next s

/-! ### The end of teams and launches -/

/-- The phases in which a team completed gang phases, with their pts (R184). -/
def Team.gangRecord (t : Team) : List (Nat × Nat × Nat × Nat) :=
  t.bars.zipIdx.flatMap fun b => b.1.gangDone.map fun p => (t.vcore, b.2, p.1, p.2)

/-- Whether an operation of any engine still serves a team. -/
def State.opsOf (s : State) (r : TeamRef) : Bool := s.ops.any (fun o => o.team == r) || s.poolOps.any fun o => o.team == r

/-- Returns the dispenser block that a core holds for the focused team (R302). -/
def State.returnBlock (s : State) : State :=
  (s.modCtx s.tm.ctx fun k => if s.tm.block.isEmpty then k else { k with returned := k.returned ++ [s.tm.block] }).setTm
    { s.tm with block := [] }

/-- R28, step 8: a team whose groups have exited, whose sequencer is halted and whose operations have completed retires; the team of a COPY
kernel, once nothing is left to copy (R341). -/
def execTeamRetire (t : TeamRef) (s : State) : Host.Outcome State Fault Refusal :=
  match s.findTeam t with
  | none => .next s
  | some tm =>
    if tm.over && tm.seq.st == .halted && tm.seq.flight.isNone && !s.opsOf t && (s.ctxs.getD t.ctx LaunchCtx.empty).copy.isNone then
      let u := (s.focusTeam t.core t.ctx).returnBlock
      let u := u.noteTeam (engineId 3 (dieOf t.core) (256 + t.core % 144)) 4 0 0
      let u := u.modCtx t.ctx fun k => { k with gangGone := k.gangGone ++ tm.gangRecord }
      .next (u.setTm Team.empty)
    else .next s

/-- The READY task of lowest RSEQ (R28, step 9). -/
def TaskCtx.oldest (k : TaskCtx) : Word :=
  match (k.pool ++ k.spillq).foldl (fun (b : Option ReadyTask) t => match b with
    | none => some t
    | some u => if t.rseq < u.rseq then some t else b) none with
  | some t => t.addr
  | none => 0

/-- How a launch ends: its first fatal event, open tasks, or success (R28, step 9; R30; R342). -/
def LaunchCtx.ending (k : LaunchCtx) : Fatal :=
  match k.fatal with
  | some x => x
  | none =>
    if k.tasks.opened = 0 then { status := 0, code := 0, engine := 0, detail := 0, tick := 0, place := 0 }
    else { status := 1, code := codeNum .task, engine := poolEngine, detail := k.tasks.oldest, tick := 0, place := 0 }

/-- A launch context that is free again: its debug registers stay (R362), and the pocket's counters until the next admission (R324). -/
def LaunchCtx.release (k : LaunchCtx) : LaunchCtx :=
  { LaunchCtx.empty with attached := k.attached, bps := k.bps, wbase := k.wbase, wctl := k.wctl, causal := k.causal, pcnts := k.pcnts,
                         lastDone := k.lastDone }

/-- Whether every BIAS, SHRINK, POWER and COPY command that has started is complete (R359, step 2). -/
def State.commandsOver (s : State) : Bool :=
  s.biasJobs.isEmpty && s.jobs.isEmpty && s.copies.isEmpty && s.ctxs.all fun k => k.copy.isNone

/-- R28, step 9: with the last team gone, the completion of a launch is handed to its queue and its context is free; copies of read-shared
lines end with the launch (R62). A launch that ends for a fault once a system stop takes effect completes at the resume (R359). -/
def execLaunchComplete (ctx : Fin 8) (s : State) : Host.Outcome State Fault Refusal :=
  let k := s.ctxs.getD ctx LaunchCtx.empty
  let busy := s.allTeams.any (fun t => t.ctx == ctx.val) || s.ops.any (fun o => o.team.ctx == ctx.val) ||
    s.poolOps.any (fun o => o.ctx == ctx.val) ||
    ((s.stopped || (s.stopReq && s.commandsOver)) && k.fatal.isSome && k.copy.isNone)
  if (k.phase = .running ∨ k.phase = .stopping) ∧ !busy then
    let x := k.ending
    let c : Completion :=
      { seq := k.seqno, status := x.status, code := x.code, engine := x.engine, detail := x.detail, sig := k.sig }
    let s := State.modCtx { s with seqNo := s.seqNo + 1 } ctx fun k => { k.release with lastDone := s.seqNo + 1 }
    let s := (s.complete k.queue c).noteCmd 2 k.queue k.seqno
    let s := (s.dropL1 fun c => c.shared && k.map.any fun m => m.2 == c.core).dropScales fun b => b.shared && k.map.any fun m => m.2 == b.core
    .next { s with wqs := s.wqs.filter fun q => q.ctx != some ctx.val }
  else .next s

/-- A team leaves its core: its block goes back to the launch (R302), its reservation and collar requests with it (R30, R350). -/
def State.dropTeam (s : State) (r : TeamRef) : State :=
  match s.findTeam r with
  | none => s
  | some t =>
    let s := s.collarFree t.core t.seq.units
    let s := s.modCtx r.ctx fun k => if t.block.isEmpty then k else { k with returned := k.returned ++ [t.block] }
    let s := { s with islands := s.islands.map fun (x : Island) => { x with cq := x.cq.filter fun q => q.team != r || q.op.isSome } }
    let mine := fun (t : Team) => t.live && t.core == r.core && t.ctx == r.ctx
    { s with tm := if mine s.tm then Team.empty else s.tm, teams := s.teams.filter fun t => !mine t }

/-- The teams of a launch. -/
def State.ctxTeams (s : State) (ctx : Nat) : List TeamRef :=
  (s.allTeams.filter fun t => t.ctx == ctx).map fun t => { core := t.core, ctx := t.ctx }

/-- Removes every team of a launch. -/
def State.dropTeams (s : State) (ctx : Nat) : State := (s.ctxTeams ctx).foldl State.dropTeam s

/-- The engine operations of a killed launch end with nothing moved: their reservations are released, those asked for too, and their destination
lines are present again (R350; log entry 14). -/
def State.dropOps (s : State) (ctx : Nat) : State :=
  let s := { s with islands := s.islands.map fun (x : Island) => { x with cq := x.cq.filter fun q => !(q.team.ctx == ctx && q.op.isSome) } }
  (s.ops.filter fun o => o.team.ctx == ctx).foldl (fun (s : State) o =>
    let s := { s with ops := s.ops.filter fun e => e.id != o.id }
    let s := if o.got then s.collarFree o.team.core 1 else s
    s.setPresence (o.dst.flatMap Span.scrLines)) { s with poolOps := s.poolOps.filter fun o => o.ctx != ctx }

/-- A team of a launch that Tison stops: it issues nothing new, and leaves as soon as it can be pre-empted; its gathering lines count as
formed by that, and none is written to the spawn queue (R30, R225, R324). -/
def State.stopTeam (s : State) (r : TeamRef) : State :=
  let s := s.halt r
  match s.findTeam r with
  | some t => if s.canPreempt t then (if t.held then s else s.preemptCounts t).dropTeam r else s
  | none => s

/-- R30, R225: a fatal fault stops the launch's remaining teams; their work is discarded and their resources are released, and operations
that they issued go on. A launch killed by over-current ends at once (R350). -/
def execLaunchStop (ctx : Fin 8) (s : State) : Host.Outcome State Fault Refusal :=
  let k := s.ctxs.getD ctx LaunchCtx.empty
  if k.phase = .stopping then
    if (k.fatal.any fun x => x.status == 2) then .next ((s.dropOps ctx).dropTeams ctx)
    else .next ((s.ctxTeams ctx).foldl State.stopTeam s)
  else .next s

end Sys2Proof.Machine
end

