-- ==== Sys2Proof/Machine/Power.lean ====
section
/-!
DEFINITION. The power engine (R345 to R355): operating points and the mailbox, the control interval, the collar, the over-current
kill, rack caps, and the power states of an island.
-/
namespace Sys2Proof.Machine

/-! ### Operating points (R345 to R348) -/

/-- The order of points by frequency (R345): every C entry below every B entry, every B entry below every A entry. -/
def pointRank (p : BitVec 5) : Nat := (2 - (p >>> 3).toNat) * 8 + p.toNat % 8

/-- The lower of two points. -/
def minPoint (a b : BitVec 5) : BitVec 5 := if pointRank b < pointRank a then b else a

/-- A point of the reserved ratio. -/
def reservedPoint (p : BitVec 5) : Bool := (p >>> 3).toNat == 3

/-- A boost entry: A4 to A7. -/
def boostPoint (p : BitVec 5) : Bool := (p >>> 3).toNat == 0 && decide (4 ≤ p.toNat % 8)

/-- A write of the mailbox: it is filled, or its target replaced (R347). -/
def Island.mailbox (x : Island) (p : BitVec 5) : Island := { x with target := p, pend := true }

/-- The write that R352 or R345 ignores sets SEQERR. -/
def Island.ignored (x : Island) : Island := { x with seqerr := true }

/-- R345, R347: a write of ICTL. -/
def execIctlWrite (isl : Fin 48) (v : BitVec 5) (s : State) : Host.Outcome State Fault Refusal :=
  .next (s.modIsland isl fun x => if reservedPoint v then x.ignored else x.mailbox v)

/-- The MHz of a point (R345). -/
def pointMhz (p : BitVec 5) : Nat :=
  match (p >>> 3).toNat with
  | 0 => 1400 + 100 * (p.toNat % 8)
  | 1 => 800 + 50 * (p.toNat % 8)
  | _ => 200 + 50 * (p.toNat % 8)

/-- From now on an island's clock runs at `mhz`, or stands (R346, R352). -/
def Island.clock (x : Island) (now mhz : Nat) : Island := { x with pace := (now, mhz) :: x.pace }

/-- The limits of one island in a control interval, each a highest allowed point: a sensed value of the reserved ratio is no point and limits
nothing (R345, R348). -/
structure Caps where
  li : Option (BitVec 5)
  lt : Option (BitVec 5)
  lr : Option (BitVec 5)
  deriving DecidableEq, Repr

/-- The limits as a list, in the order of ISTAT.LIMIT. -/
def Caps.list (l : Caps) : List (Option (BitVec 5)) := [l.li, l.lt, l.lr]

/-- A point under a limit. -/
def underLimit (p : BitVec 5) (l : Option (BitVec 5)) : BitVec 5 := (l.map (minPoint p)).getD p

/-- Whether a source objects to a request (R348). -/
def objects (req : BitVec 5) (l : Option (BitVec 5)) : Bool := l.any fun p => decide (pointRank p < pointRank req)

/-- The applied point for a request under the limits (R348). -/
def appliedPoint (req : BitVec 5) (l : Caps) : BitVec 5 :=
  let p := l.list.foldl underLimit req
  if boostPoint p ∧ l.list.any (objects req) then 3 else p

/-- ISTAT.LIMIT: the first source whose limit equals the applied point (R348). -/
def limitCode (l : Caps) (p : BitVec 5) (safe : Bool) : BitVec 3 :=
  if l.li = some p then 1 else if l.lt = some p then 2 else if l.lr = some p then (if safe then 4 else 3) else 0

/-- Whether an island's clock runs, but for the stop of a move (R352). -/
def Island.runs (x : Island) : Bool := x.pstate == .on || x.pstate == .quiescing || x.pstate == .quiet || x.pstate == .saved

/-- The request that an island enters an interval with: the mailbox is taken, unless the island is not ON (R348, R352). -/
def Island.request (x : Island) : Island :=
  if x.pend && x.pstate == .on then { x with req := x.target, pend := false } else x

/-- An island at the start of a control interval: the mailbox is taken, the limits are applied and a move starts, which stops the clock; an
island that moves, or whose clock stands, keeps its mailbox (R346 to R348, R352). -/
def Island.interval (x : Island) (l : Caps) (safe : Bool) (now : Nat) : Island :=
  if !x.runs ∨ x.moveTo.isSome then x
  else
    let x := x.request
    let p := appliedPoint x.req l
    let x := { x with limit := limitCode l p safe }
    if p = x.applied then x else { x with moveTo := some p }.clock now 0

/-- A rack cap message that was received is applied at the interval (R351). -/
def RackCap.interval (r : RackCap) : RackCap :=
  match r.next with
  | some (seq, cap, ends) => { r with seq := seq, cap := some cap, ends := ends, next := none }
  | none => r

/-- The sensed limits of an island: those of the event, without a value of the reserved ratio. -/
def sensed (lims : List Limits) (i : Nat) : Option (BitVec 5) × Option (BitVec 5) :=
  let ok := fun (p : BitVec 5) => if reservedPoint p then none else some p
  match lims[i]? with
  | some l => (ok l.li, ok l.lt)
  | none => (none, none)

/-- A core of an island by its bit (R353). -/
def islandCore (isl c : Nat) : Nat :=
  isl / 12 * 144 + ((isl % 12 / 4) * 4 + c / 3) * 12 + (isl % 4) * 3 + c % 3

/-- The order in which islands are lowered: the highest priority of a resident launch, lowest first, and then the lowest module core
number (R351); an island without a launch comes before all. -/
def State.lowerKey (s : State) (isl : Nat) : List Nat :=
  [(s.allTeams.filter fun t => islandOf t.core == isl && !t.held).foldl (fun m t => max m (t.lp.prio + 1)) 0, islandCore isl 0]

/-- The points, the highest first. -/
def pointsDown : List (BitVec 5) := [0, 8, 16].flatMap fun r => (List.range 8).reverse.map fun e => BitVec.ofNat 5 (r + e)

/-- The division of a cap (R351): each entry holds a running island and the point to which its limit is lowered, as far as the islands before
it have not met the cap. How far one is lowered follows from the watts that its points draw (DESIGN CHOICE, log entry 72). -/
def lowerIslands (watts : Nat → BitVec 5 → Nat) (cap : Nat) : List (Nat × BitVec 5) → Nat → List (Nat × Option (BitVec 5))
  | [], _ => []
  | (i, p) :: rest, total =>
    if total ≤ cap then (i, none) :: lowerIslands watts cap rest total
    else
      let other := total - watts i p
      let q := ((pointsDown.filter fun q => decide (pointRank q < pointRank p)).find? fun q => decide (other + watts i q ≤ cap)).getD 16
      (i, some q) :: lowerIslands watts cap rest (other + watts i q)

/-- LR of every running island (R351): where the cap cannot be met with every one at C0, each is C0. -/
def State.rackLimits (s : State) (lims : List Limits) (cap : Nat) : List (Nat × Option (BitVec 5)) :=
  let w := Config.watts s.ticks
  let run := (List.range s.islands.length).filter fun i => (s.islandAt i).runs
  let want := fun (i : Nat) =>
    let (li, lt) := sensed lims i
    underLimit (underLimit (s.islandAt i).request.req li) lt
  let order := run.mergeSort fun a b => !rankLt (s.lowerKey b) (s.lowerKey a)
  if cap < (run.map fun i => w i 16).sum then run.map fun i => (i, some 16)
  else lowerIslands w cap (order.map fun i => (i, want i)) (run.map fun i => w i (want i)).sum

/-- R348, R351: the controller acts; `lims` are the limits of the islands in their order, as sensed. -/
def execControlInterval (lims : List Limits) (s : State) : Host.Outcome State Fault Refusal :=
  let r := s.rack.interval
  let lr := s.rackLimits lims (r.cap.getD r.safe)
  .next { s with
    rack := r
    islands := s.islands.mapIdx fun i x =>
      let (li, lt) := sensed lims i
      x.interval { li := li, lt := lt, lr := (lr.lookup i).getD none } r.cap.isNone s.now }

/-- R346: a move's one clock stop ends, and the new point applies. -/
def execMoveComplete (isl : Fin 48) (s : State) : Host.Outcome State Fault Refusal :=
  let x := s.islandAt isl
  match x.moveTo with
  | none => .next s
  | some p =>
    let s := s.note { engine := BitVec.ofNat 16 (engineId 5 (isl / 12) (16 + isl % 12)), kind := 9, queue := 0xFF, seq := 0, tcb := 0,
                      data := BitVec.ofNat 64 (x.applied.toNat + p.toNat * 2 ^ 8) }
    .next (s.modIsland isl fun x => { x with applied := p, moveTo := none }.clock s.now (if x.runs then pointMhz p else 0))

/-! ### The collar (R349, R350, R353) -/

/-- The head of a collar's queue: highest launch priority, then age. -/
def Island.head (x : Island) : Option CollarReq :=
  x.cq.foldl (fun b r => match b with
    | none => some r
    | some u => if u.prio < r.prio then some r else b) none

/-- R349: the head of the queue receives its reservation when it fits. -/
def execCollarGrant (isl : Fin 48) (s : State) : Host.Outcome State Fault Refusal :=
  let x := s.islandAt isl
  match x.head with
  | none => .next s
  | some r =>
    if !x.fits r.units then .next s
    else
      let s := s.modIsland isl fun x => { x with used := x.used + r.units, cq := x.cq.erase r }
      if r.burst then .next (s.modIsland isl fun x => { x with bursts := x.bursts ++ [r.team.core] })
      else match r.op with
      | some id => .next { s with ops := s.ops.map fun o => if o.id = id then { o with got := true } else o }
      | none => .next (s.modTeam r.team fun t => { t with seq := { t.seq with units := r.units } })

/-- R349: the burst reservation that has been held longest ends, its 256 cycles over. -/
def execBurstReservationRelease (isl : Fin 48) (s : State) : Host.Outcome State Fault Refusal :=
  .next (s.modIsland isl fun x => match x.bursts with
    | [] => x
    | _ :: rest => { x with bursts := rest, used := x.used - 2 })

/-- R353: a write of CAP; zero is ignored. -/
def execIcollarWrite (isl : Fin 48) (v : BitVec 16) (s : State) : Host.Outcome State Fault Refusal :=
  .next (s.modIsland isl fun x => if v = 0 then x else { x with cap := v })

/-- The launch contexts that have a team on an island, with their priorities: one that a system stop has saved counts (R359), one that a die gate
holds does not. -/
def State.islandCtxs (s : State) (isl : Nat) : List (Nat × Nat) :=
  ((s.allTeams.filter fun t => islandOf t.core == isl && (!t.held || s.stopped || s.stopReq)).map fun t => (t.ctx, t.lp.prio)).dedup

/-- A launch is killed by over-current: PKILL takes precedence over any other fault (R30, R342, R350). -/
def State.pkill (s : State) (isl ctx : Nat) : State :=
  let x : Fatal := { s.fatalFault 0x50 (engineId 5 (isl / 12) (16 + isl % 12)) 0 (BitVec.ofNat 64 (isl % 12)) with status := 2 }
  ((s.modCtx ctx fun k => { k with fatal := some x, phase := .stopping }).dropOps ctx).dropTeams ctx

/-- R350: with a current of more than 1.25 × CAP × 0.5 A, the contexts of the lowest priority on the island are killed, or, with one
priority left, the island moves to entry 0 of its ratio. -/
def execOverCurrentCheck (isl : Fin 48) (milliamps : Nat) (s : State) : Host.Outcome State Fault Refusal :=
  if milliamps ≤ 625 * (s.islandAt isl).cap.toNat then .next s
  else
    let cs := s.islandCtxs isl
    let low := cs.foldl (fun m c => min m c.2) 7
    let victims := (cs.filter fun c => c.2 == low).map (·.1)
    if cs.any fun c => c.2 != low then
      .next ((victims.foldl (fun s c => s.pkill isl c) s).modIsland isl fun x => { x with ockill := true })
    else
      .next (s.modIsland isl fun x =>
        let p := x.applied &&& 0x18
        if x.moveTo.isSome || !x.runs || p == x.applied then x else { x with moveTo := some p }.clock s.now 0)

/-! ### Rack caps (R351) -/

/-- R351: a message out of range is ignored and logged; one that is not newer is ignored; a newer one waits for the next
interval, its validity running from now. -/
def execRackCapMessage (seq cap valid : Nat) (s : State) : Host.Outcome State Fault Refusal :=
  let d := (seq + 2 ^ 32 - s.rack.seq % 2 ^ 32) % 2 ^ 32
  if cap < 600 ∨ 2800 < cap ∨ valid < 1 ∨ 65535 < valid ∨ 2 ^ 32 ≤ seq then
    .next (s.log 8 (toBytes 4 seq ++ toBytes 4 cap ++ toBytes 4 valid))
  else if d = 0 ∨ 2 ^ 31 ≤ d then .next s
  else .next { s with rack := { s.rack with next := some (seq, cap, s.now + valid * 1000000) } }

/-- R351: the cap's validity ends, and the safe cap applies. -/
def execCapExpiry (s : State) : Host.Outcome State Fault Refusal :=
  if s.rack.cap.isSome ∧ s.rack.ends ≤ s.now then .next { s with rack := { s.rack with cap := none } } else .next s

/-! ### Island power states (R352, R353) -/

/-- The bits of the disabled cores of an island, which always read 1 (R353). -/
def State.disabledBits (s : State) (isl : Nat) : BitVec 12 :=
  (List.range 12).foldl (fun m c => if s.enabled (islandCore isl c) then m else m ||| BitVec.twoPow 12 c) 0

/-- An island as its registers read: the bits of a disabled core are 1 in every state (R353, R355). -/
def State.shownIsland (s : State) (isl : Nat) : Island :=
  let x := s.islandAt isl
  { x with iqack := x.iqack ||| s.disabledBits isl, coreSaved := x.coreSaved ||| s.disabledBits isl }

/-- R352: IQREQ.REQ is set; what was in flight before may still reach the island (R352, log entry 67). -/
def execQuiesceRequest (isl : Fin 48) (s : State) : Host.Outcome State Fault Refusal :=
  .next (s.modIsland isl fun x =>
    if x.pstate = .on then { x with pstate := .quiescing, iqreq := true, iqack := 0, restored := false, edge := s.seqNo } else x.ignored)

/-- An island that is ON again: REQ, GATE and MODE are clear, and so are DONE and the bits of its cores (R352, R355). -/
def Island.onAgain (x : Island) : Island :=
  { x with pstate := .on, iqreq := false, iqack := 0, done := false, coreSaved := 0, gate := false, mode := 0 }

/-- R352: IQREQ.REQ is cleared. -/
def execQuiesceCancel (isl : Fin 48) (s : State) : Host.Outcome State Fault Refusal :=
  .next (s.modIsland isl fun x => if x.pstate = .quiescing ∨ (x.pstate = .quiet ∧ !x.saving) then x.onAgain else x.ignored)

/-- Whether everything in progress on a core has completed (R352): its sequencers' operations, its requests, and the operations
that write its scratchpads and were issued before the quiesce; later ones wait at the island's edge. -/
def State.coreQuiet (s : State) (core : Nat) : Bool :=
  (s.teamsOn core).all (fun t => t.seq.flight.isNone && t.outs.all fun o => o.done.isSome || (o.cls != .ld && o.cls != .st)) &&
    !(s.ops.any fun o => decide (o.id ≤ (s.islandAt (islandOf core)).edge) && o.dst.any fun p => p.sp == 2 && decide (scrKey core 0 0 / 128 ≤ p.hi) &&
      decide (p.lo < scrKey (core + 1) 0 0 / 128))

/-- The caches of some cores are dropped (R352). -/
def State.dropCaches (s : State) (cores : List Nat) : State :=
  { (s.dropL1 fun c => cores.contains c.core) with icache := s.icache.filter fun c => !cores.contains c.core }

/-- R352: a core has quiesced, and its cached lines are dropped; with the last of them the island is QUIET. -/
def execCoreQuiesced (isl : Fin 48) (c : Fin 12) (s : State) : Host.Outcome State Fault Refusal :=
  let x := s.islandAt isl
  if x.pstate = .quiescing ∧ s.coreQuiet (islandCore isl c) then
    let ack := x.iqack ||| BitVec.twoPow 12 c
    .next ((s.dropCaches [islandCore isl c]).modIsland isl fun x => { x with
      iqack := ack, pstate := if (ack ||| s.disabledBits isl) = BitVec.allOnes 12 then .quiet else .quiescing })
  else .next s

/-- R352: IRSAVE.GO. -/
def execRetentionSave (isl : Fin 48) (s : State) : Host.Outcome State Fault Refusal :=
  .next (s.modIsland isl fun x =>
    if x.pstate = .quiet ∧ !x.saving then { x with saving := true, done := false, coreSaved := 0 } else x.ignored)

/-- R352: the save completes. -/
def execRetentionSaveComplete (isl : Fin 48) (s : State) : Host.Outcome State Fault Refusal :=
  .next (s.modIsland isl fun x =>
    if x.pstate = .quiet ∧ x.saving then
      { x with saving := false, done := true, coreSaved := BitVec.allOnes 12, pstate := .saved }
    else x)

/-- An island's clock stops, and its registers stand as a snapshot will find them (R352, R364). -/
def State.freeze (s : State) (isl : Nat) : State := { s with frozen := (isl, s.shownIsland isl) :: s.frozen.filter fun f => f.1 != isl }

/-- An island's clock runs again. -/
def State.thaw (s : State) (isl : Nat) : State := { s with frozen := s.frozen.filter fun f => f.1 != isl }

/-- R352: ICLKG.GATE is set. -/
def execClockGate (isl : Fin 48) (s : State) : Host.Outcome State Fault Refusal :=
  if (s.islandAt isl).pstate = .saved then
    .next ((s.freeze isl).modIsland isl fun x => { x with pstate := .clkoff, gate := true }.clock s.now 0)
  else .next (s.modIsland isl Island.ignored)

/-- R352: ICLKG.GATE is cleared. -/
def execClockUngate (isl : Fin 48) (s : State) : Host.Outcome State Fault Refusal :=
  if (s.islandAt isl).pstate = .clkoff then
    .next ((s.thaw isl).modIsland isl fun x => { x with pstate := .saved, gate := false }.clock s.now (pointMhz x.applied))
  else .next (s.modIsland isl Island.ignored)

/-- R352: IRAIL.MODE 0b01; a scale cache is none of the memories that it keeps. -/
def execRailRetain (isl : Fin 48) (s : State) : Host.Outcome State Fault Refusal :=
  .next (if (s.islandAt isl).pstate = .clkoff then
      (s.dropScales fun b => islandOf b.core == isl.val).modIsland isl fun x => { x with pstate := .retain, mode := 1 }
    else s.modIsland isl Island.ignored)

/-- Whether a team is resident on an island: one that is saved is not. -/
def State.islandHasTeam (s : State) (isl : Nat) : Bool := s.allTeams.any fun t => islandOf t.core == isl && !t.held

/-- R352: IRAIL.MODE 0b10. -/
def execRailOff (isl : Fin 48) (s : State) : Host.Outcome State Fault Refusal :=
  .next (s.modIsland isl fun x =>
    if x.pstate = .clkoff ∧ !s.islandHasTeam isl then { x with pstate := .off, mode := 2 } else x.ignored)

/-- R352: IWAKE.WAKE. REQ, GATE and MODE are cleared with the entry to ON, as the values of 24_prog_island.md show them (DEDUCED, log entry 75). -/
def execWake (isl : Fin 48) (s : State) : Host.Outcome State Fault Refusal :=
  .next (s.modIsland isl fun x =>
    if x.pstate = .clkoff ∨ x.pstate = .retain ∨ x.pstate = .off then
      { x with fromOff := x.pstate == .off, pstate := .waking }
    else x.ignored)

/-- An island that has woken (R352, R355): its logic is restored but from OFF, and its clock runs. -/
def Island.awake (x : Island) (now : Nat) : Island := { x.onAgain with restored := !x.fromOff }.clock now (pointMhz x.applied)

/-- Every memory of an island is wiped to zero, but for the shares of teams that are saved and will be restored (R226, R352); the translations
of its cores go too (R197). -/
def State.wipeIsland (s : State) (isl : Nat) : State :=
  let keep := fun (k : Nat) => islandOf (k / 2 ^ 20 / 8) != isl ||
    s.allTeams.any fun t => t.held && t.core == k / 2 ^ 20 / 8 && t.ctx == k / 2 ^ 20 % 8
  let s := s.dropScales fun b => islandOf b.core == isl
  { s with scr := s.scr.filter (fun c => keep c.1), absent := s.absent.filter (fun l => keep (128 * l)),
           poison := s.poison.filter fun p => p.1 != 2 || keep (128 * p.2)
           tlb := s.tlb.filter fun x => islandOf x.1 != isl, slotPages := s.slotPages.filter fun x => islandOf x.core != isl }

/-- R352: the island is ON: its logic is restored, or, from OFF, its memories are wiped. -/
def execWakeComplete (isl : Fin 48) (s : State) : Host.Outcome State Fault Refusal :=
  let x := s.islandAt isl
  if x.pstate = .waking then
    .next (((if x.fromOff then s.wipeIsland isl else s).thaw isl).modIsland isl fun x => x.awake s.now)
  else .next s

end Sys2Proof.Machine
end

