-- ==== Sys2Proof/Machine/Move.lean ====
section
/-!
DEFINITION. Pre-empting, holding, restoring and moving teams (R225 to R227, R247, R300, R318), and gating dies (R354).
-/
namespace Sys2Proof.Machine

/-! ### Pre-emption (R225, R226) -/

/-- A sequencer that is pre-empted gives up the array and its reservation (R247). -/
def State.stopSeqOf (s : State) (r : TeamRef) : State :=
  match s.findTeam r with
  | some t =>
    let s := (s.modIsland (islandOf t.core) fun x => { x with cq := x.cq.filter fun q => !(q.team == r && q.op.isNone) }).collarFree
      t.core t.seq.units
    s.modTeam r fun t => { t with seq := { t.seq with array := false, units := 0 } }
  | none => s

/-- PRE-EMPTS the team and saves it: it is held until it is restored (R225, R226, R302, R318). -/
def State.preempt (s : State) (r : TeamRef) : State :=
  match s.findTeam r with
  | none => s
  | some t =>
    if t.held then s
    else
      let s := (s.stopSeqOf r).preemptCounts t
      let s := s.modCtx r.ctx fun k => if t.block.isEmpty then k else { k with returned := k.returned ++ [t.block] }
      s.modTeam r fun t => { t.preempt with block := [], held := true, halting := false }

/-- Asks teams to stop, in order, and pre-empts each one that can be pre-empted now (R225). -/
def State.preemptAll (s : State) (rs : List TeamRef) : State :=
  rs.foldl (fun (s : State) r =>
    let s := s.halt r
    if (s.findTeam r).any s.canPreempt then s.preempt r else s) s

/-- Whether every one of some teams is held. -/
def State.allHeld (s : State) (rs : List TeamRef) : Bool := rs.all fun r => (s.findTeam r).all (·.held)

/-! ### Restoring (R227) -/

/-- Insertion into a list of groups by `%group`, then by slot. -/
def insertGroup (g : Group) : List Group → List Group
  | [] => [g]
  | x :: xs => if rankLt [bit g.child, g.gix, g.gslot] [bit x.child, x.gix, x.gslot] then g :: x :: xs else x :: insertGroup g xs

/-- A team in the group slots `free` of a core: its groups in ascending `%group`, then its reserve, then its child groups in the
reserve's lowest slots (R21, R227). -/
def Team.reslot (t : Team) (free : List Nat) : Team :=
  let gs := t.groups.foldl (fun xs g => insertGroup g xs) []
  let own := gs.filter fun g => !g.child
  let kids := gs.filter Group.child
  let resv := (free.drop own.length).take t.lp.cres
  let gs := (own.mapIdx fun i g => { g with gslot := free.getD i 0 }) ++ kids.mapIdx fun i g => { g with gslot := resv.getD i 0 }
  { t with gp := gs.headD Group.empty, gs := gs.drop 1, resv := resv }

/-- RESTORES a held team on its core: it issues again (R227). -/
def State.restore (s : State) (r : TeamRef) : State :=
  match s.findTeam r with
  | some t =>
    if t.held then
      let go := fun (t : Team) => t.mapGroups fun g => g.mapFrags fun f => { f with held := false }
      let u := s.modTeam r fun t => { (go t).reslot (s.freeSlots t.core) with
        held := false, halting := false, phys := (s.freeAcc t.core).take t.acc.length }
      u.noteMaxOf r
    else s.modTeam r fun t => { t with halting := false }
  | none => s

/-- Restores teams in order. -/
def State.restoreAll (s : State) (rs : List TeamRef) : State := rs.foldl State.restore s

/-! ### Moving (R226, R300, R318) -/

/-- Where the scratchpad shares of a launch's teams go: old core and new core. -/
abbrev Moves := List (Nat × Nat)

/-- The key of a scratchpad byte after the move of launch `ctx`. -/
def moveKey (m : Moves) (ctx k : Nat) : Nat :=
  let core := k / 2 ^ 20 / 8
  if k / 2 ^ 20 % 8 = ctx then match m.lookup core with
    | some c => scrKey c ctx (k % 2 ^ 20)
    | none => k
  else k

/-- The shares move with their contents, presence bits, poison marks and stamps. -/
def State.moveShares (s : State) (m : Moves) (ctx : Nat) : State :=
  let line := fun (l : Nat) => moveKey m ctx (128 * l) / 128
  { s with
    scr := s.scr.foldl (fun (acc : Memory) c => memSet acc (moveKey m ctx c.1) c.2) []
    absent := s.absent.map line
    poison := s.poison.map fun p => if p.1 = 2 then (2, line p.2) else p
    stamps := s.stamps.map fun p => if p.sp = 2 then { p with key := line p.key } else p }

/-- The name of a team of launch `ctx` after the move. -/
def moveRef (m : Moves) (ctx : Nat) (r : TeamRef) : TeamRef :=
  if r.ctx = ctx then { r with core := (m.lookup r.core).getD r.core } else r

/-- A registered range in a share goes with it. -/
def moveSpan (m : Moves) (ctx : Nat) (p : Span) : Span :=
  if p.sp = 2 then { p with lo := moveKey m ctx (128 * p.lo) / 128, hi := moveKey m ctx (128 * p.hi) / 128 } else p

/-- What names the teams of a launch elsewhere goes with them: their operations in flight, posted stores and task operations, and the
tasks they run (R202, R305, R307, R318). -/
def State.moveNames (s : State) (m : Moves) (ctx : Nat) : State :=
  let go := moveRef m ctx
  let span := moveSpan m ctx
  let ops := s.ops.map fun (o : EngineOp) => { o with
    team := go o.team, src := o.src.map span, dst := o.dst.map span, absent := o.absent.map fun l => moveKey m ctx (128 * l) / 128 }
  let pool := s.poolOps.map fun (o : PoolOp) => { o with team := go o.team }
  let posted := s.posted.map fun (p : Posted) => { p with team := go p.team }
  let s := { s with ops := ops, poolOps := pool, posted := posted }
  s.modCtx ctx fun k => { k with tasks := { k.tasks with running := k.tasks.running.map fun x => (x.1, go x.2) } }

/-- A team's FORMED lines become QUEUED records (R318). -/
def Team.queueLines (t : Team) : Team := { t with queued := t.queued ++ t.lines.map (fun l => (l.entry, l.kids)), lines := [] }

/-- The formed lines of a launch's held teams are written to the spawn queue, and counted on the cores that they leave (R318, R324). -/
def State.queueLines (s : State) (ctx : Nat) : State :=
  let ts := s.allTeams.filter fun t => t.ctx == ctx && !t.lines.isEmpty
  ts.foldl (fun (s : State) t => (s.countPocket t.core ctx 8 t.lines.length).modTeam { core := t.core, ctx := ctx } Team.queueLines) s

/-- The held teams of a launch stand on the cores `cores` of their virtual cores. -/
def State.moveTeams (s : State) (ctx : Nat) (cores : List Nat) : State :=
  let s := s.queueLines ctx
  let m : Moves := (s.allTeams.filter fun t => t.ctx == ctx).map fun t => (t.core, cores.getD t.vcore t.core)
  let s := (s.moveShares m ctx).moveNames m ctx
  let s := s.mapTeams fun t => if t.live && t.ctx == ctx then { t with core := cores.getD t.vcore t.core } else t
  s.modCtx ctx fun k => { k with map := cores.mapIdx fun v c => (v, c) }

/-! ### Gating dies (R352, R354) -/

/-- An island taken through R352 to OFF. -/
def Island.toOff (x : Island) : Island :=
  { x with pstate := .off, iqreq := true, iqack := BitVec.allOnes 12, saving := false, done := true,
           coreSaved := BitVec.allOnes 12, gate := true, mode := 2, restored := false }

/-- An island taken through R352 to the point at which its clock stops. -/
def Island.toSaved (x : Island) : Island :=
  { x with pstate := .saved, iqreq := true, iqack := BitVec.allOnes 12, saving := false, done := true, coreSaved := BitVec.allOnes 12,
           restored := false }

/-- The islands of a die. -/
def dieIslands (die : Nat) : List Nat := (List.range 12).map fun i => die * 12 + i

/-- Every island of a die goes OFF, its cached lines dropped on the way; one whose clock runs stands from then on as it was when that stopped
(R364). -/
def State.gateDie (s : State) (die : Nat) : State :=
  let s := s.dropCaches ((List.range 144).map fun c => die * 144 + c)
  (dieIslands die).foldl (fun s i =>
      let s := s.modIsland i fun x => if x.pstate = .on then { x with edge := s.seqNo } else x
      let s := if (s.islandAt i).runs then (s.modIsland i Island.toSaved).freeze i else s
      s.modIsland i fun x => x.toOff.clock s.now 0)
    { s with gated := if s.gated.contains die then s.gated else s.gated ++ [die] }

/-- Every island of a gated die wakes. -/
def State.ungateDie (s : State) (die : Nat) : State :=
  if s.gated.contains die then
    (dieIslands die).foldl (fun s i => ((s.wipeIsland i).thaw i).modIsland i fun x => { x with fromOff := true }.awake s.now)
      { s with gated := s.gated.filter fun d => d != die }
  else s

/-- The teams of a die. -/
def State.dieTeams (s : State) (die : Nat) : List TeamRef :=
  (s.allTeams.filter fun t => dieOf t.core == die).map fun t => { core := t.core, ctx := t.ctx }

end Sys2Proof.Machine
end

