-- ==== Sys2Proof/Machine/Commands.lean ====
section
/-!
DEFINITION. The host's side of the queues and the commands (R79, R338 to R342, R354).
-/
namespace Sys2Proof.Machine

/-! ### Doorbells and completions -/

/-- The function for which a register is written (R325): Tison writes for its firmware and the debugger, for none. -/
def writerFn : Writer → Option Nat
  | .vf n => some n
  | .pf l => some (32 + l)
  | .tison => none

/-- Whether a writer reaches the registers of a queue that are its owner's: TAIL and RHEAD (R325, R338). -/
def HostQueue.ownedBy (h : HostQueue) (w : Writer) : Bool := writerFn w == some h.fn

/-- The commands of a queue from its HEAD on that have been written are fetched, `n` of them at most: their bytes as the module sees them (R78,
R338). -/
def State.fetchCmds (s : State) (q n : Nat) : State :=
  let h := s.queueAt q
  let k := min n h.unfetched
  let bytes := fun (j : Nat) => (List.range 64).map fun i => s.seenByte 4 0 (h.cmdPa (h.head.toNat + j) + i)
  s.modQueue q fun h => { h with fetched := h.fetched ++ (List.range k).map bytes, head := h.wrap (h.head.toNat % h.count + k) }

/-- R338, R340: a write of TAIL of queue `x.2` by the function `x.1` that owns it; the commands it makes available take their place in the
order of the doorbells. In RECOVERY, where no firmware runs, the boot ROM fetches them, and each completes REJECTED (R366, R368). -/
def execDoorbell (x : Writer × Fin 64) (tail : BitVec 12) (s : State) : Host.Outcome State Fault Refusal :=
  if !(s.queueAt x.2).ownedBy x.1 then .next s
  else
    let n := s.seqNo + 1
    let rom := fun (s : State) => if s.recovery && (s.queueAt x.2).en then s.fetchCmds x.2 4096 else s
    .next (rom (State.modQueue { s with seqNo := n } x.2 fun h =>
      let h' := { h with tail := tail }
      let want := h.fetched.length + h'.unfetched
      { h' with order := (h.order ++ List.replicate (want - h.order.length) n).take want }))

/-- R338: a write at offset 0x24 of queue `x.2` by the function `x.1` that owns it. -/
def execRheadWrite (x : Writer × Fin 64) (v : BitVec 32) (s : State) : Host.Outcome State Fault Refusal :=
  .next (s.modQueue x.2 fun h =>
    if h.ownedBy x.1 then { h with rhead := BitVec.ofNat 12 (field v.toNat 27 16), ovr := h.ovr && !v.getLsbD 0 } else h)

/-- Whether the completion ring has room: RTAIL stays less than one ring ahead of RHEAD (R338). -/
def HostQueue.room (h : HostQueue) : Bool :=
  decide ((h.rtail.toNat % h.count + 1) % h.count ≠ h.rhead.toNat % h.count)

/-- The bytes of a completion entry (R342); `writer` is the Tison core that writes it. -/
def Completion.bytes (c : Completion) (writer : Nat) : List Byte :=
  toBytes 4 c.seq.toNat ++ toBytes 1 c.status ++ toBytes 1 c.code ++
    toBytes 2 (if c.status = 1 ∨ c.status = 2 then c.engine else engineId 5 4 writer) ++ toBytes 8 c.detail.toNat

/-- Writes of a unit that serves launch context `c`, 8 for none; those behind a link that is down are dropped and logged (R327). -/
def State.hostWriteOf (s : State) (c pa : Nat) (bytes : List Byte) : State :=
  if s.hostDead (0, pa) then s.log c bytes else s.putBytes 0 pa bytes

/-- The same for a unit of the module. -/
def State.hostWrite (s : State) (pa : Nat) (bytes : List Byte) : State := s.hostWriteOf 8 pa bytes

/-- R338, R342: the oldest completion of a queue is written, and its signal set afterwards; without room it waits and OVR is
set. -/
def execCompletionEntryWrite (q : Fin 64) (s : State) : Host.Outcome State Fault Refusal :=
  let h := s.queueAt q
  match h.comps with
  | [] => .next s
  | c :: rest =>
    if !h.en then .next s
    else if !h.room then .next (s.modQueue q fun h => { h with ovr := true })
    else
      let s := s.hostWrite (hostPa h.rbase + 16 * (h.rtail.toNat % h.count)) (c.bytes (Config.writerCore s.ticks).val)
      let s := s.modQueue q fun h => { h with comps := rest, rtail := h.wrap (h.rtail.toNat % h.count + 1) }
      match c.sig with
      | some n => .next (s.setSignal n)
      | none => .next s

/-! ### SIGNAL and WAIT (R341) -/

/-- R341: sets a signal bit. -/
def execSignal (q : Fin 64) (s : State) : Host.Outcome State Fault Refusal :=
  .next (s.command q 2 (fun c => [(decide (cmdNat c 16 4 < 1024), badField 16 0)]) fun c =>
    (s.doneCmd q c 0).setSignal (cmdNat c 16 4))

/-- R340, R341: a WAIT observes its signal at once, or blocks its queue. -/
def execWaitCommand (q : Fin 64) (s : State) : Host.Outcome State Fault Refusal :=
  .next (s.command q 3 (fun c => [(decide (cmdNat c 16 4 < 1024), badField 16 0)]) fun c =>
    let n := cmdNat c 16 4
    let t := cmdNat c 20 4
    if s.signals.getLsbD n then (s.clearSignal n).doneCmd q c 0
    else
      State.modQueue { s with waiters := s.waiters ++ [.queue q n (if t = 0 then none else some (s.now + t * 1000))] } q fun h =>
        { h with blocked := true })

/-- R341: a WAIT whose time has passed completes TIMEOUT and its queue goes on. -/
def execWaitCommandTimeout (q : Fin 64) (s : State) : Host.Outcome State Fault Refusal :=
  match s.waiters.find? fun w => match w with
    | .queue r _ (some d) => r == q.val && decide (d ≤ s.now)
    | _ => false with
  | some w => .next (s.wakeWaiter w 4 0)
  | none => .next s

/-! ### BIAS (R79, R326, R327, R341) -/

/-- The 4 KB frame of a page of a queue's function. -/
def State.frameOf (s : State) (q va : Nat) : Nat := (s.physOf (s.queueAt q).fn va).getD 0 / 4096

/-- The frames of `n` pages of a queue's function. -/
def State.framesOf (s : State) (q va n : Nat) : List Nat := (List.range n).map fun i => s.frameOf q (va + 4096 * i)

/-- The checks of a BIAS command; its pages are mapped device memory, and host bias needs a link that carries CXL (R326). -/
def State.biasChecks (s : State) (q : Nat) (c : List Byte) : List (Bool × Reject342) :=
  let va := cmdNat c 16 8
  let n := cmdNat c 24 4
  let fn := (s.queueAt q).fn
  [(va % 4096 == 0, badField 16 0),
   (decide (1 ≤ n) && decide (n ≤ 65536) && s.mappedRange fn va (4096 * n) (fun p => p.resident && !isHostPa p.pa), badField 24 0),
   (decide (cmdNat c 28 1 ≤ 1) &&
     (cmdNat c 28 1 == 0 || (s.hlinks.getD 0 { up := true, mode := .cxl }).mode == .cxl), badField 28 0)]

/-- The physical addresses at which the task pool will apply an operation: its TCB, and the successors that a `task.done` names (R305, R307). -/
def State.poolPlaces (s : State) (o : PoolOp) : List Nat :=
  if o.arm then [o.pa]
  else
    let fn := (s.ctxs.getD o.ctx LaunchCtx.empty).fn
    let at' := (List.range (s.natAt 0 (o.pa + 20) 4)).filterMap fun i => s.physOf fn (s.natAt 0 (o.pa + 32) 8 + 8 * i)
    o.pa :: at' ++ at'.filterMap fun pa => s.physOf fn (s.natAt 0 pa 8)

/-- Whether the losing side's accesses to a frame are complete: started operations of the engines and what the task pool has still to apply where the
device loses it, stores still on their way to the host where the host does (R79). -/
def State.flipReady (s : State) (frame : Nat) (host : Bool) : Bool :=
  let p : Span := { sp := 0, lo := frame * 32, hi := frame * 32 + 31 }
  if host then !(s.ops.any fun o => !o.waiting && (o.src ++ o.dst).any p.meets) && !s.flightMeets true p &&
    !(s.poolOps.any fun o => (s.poolPlaces o).any fun pa => pa / 4096 == frame)
  else !(s.posted.any fun o => o.bytes.any fun b => b.1 / 4096 == frame)

/-- The home of a line: die and slice (R14, R61). -/
def homeOf (line : Nat) : Nat × Nat :=
  let pa := line * 128
  (if pa < 0x60_0000_0000 then pa / 0x18_0000_0000 else field pa 13 12, line % 24)

/-- The largest stamp that the home slice of a line has issued. -/
def State.sliceMax (s : State) (line : Nat) : Nat :=
  s.stamps.foldl (fun t p => if p.sp = 0 ∧ homeOf p.key = homeOf line then max t (max p.wts p.rts) else t) 0

/-- The stamps of a frame's lines at a flip to device bias (R79). -/
def State.restamp (s : State) (frame : Nat) : State :=
  (List.range 32).foldl (fun u i =>
    let x := frame * 32 + i
    let t := s.sliceMax x
    u.putStamp { sp := 0, key := x, wts := t, rts := t }) s

/-- Some frames go to device bias, those in host bias with the stamps of R79. -/
def State.toDevice (s : State) (fs : List Nat) : State :=
  fs.foldl (fun (s : State) f =>
    if s.hostBias.contains f then { s with hostBias := s.hostBias.filter fun x => x != f }.restamp f else s) s

/-- A frame goes to host bias: the device's copies of it are dropped (R79). -/
def State.toHost (s : State) (f : Nat) : State :=
  { ((s.dropL1 fun c => c.line / 32 == f).dropScales fun b => b.block / 64 == f) with hostBias := if s.hostBias.contains f then s.hostBias else s.hostBias ++ [f] }

/-- A BIAS command ends with LINK, its pages in device bias (R327, R342; log entry 35). -/
def State.biasFails (s : State) (q va n : Nat) (c : Completion) : State :=
  ((s.toDevice (s.framesOf q va n)).complete q { c with status := 5 }).noteCmd 2 q c.seq

/-- R79, R327, R341: a BIAS command starts the flip of its first page; with the link down it ends with LINK. -/
def execBias (q : Fin 64) (s : State) : Host.Outcome State Fault Refusal :=
  if !s.serialTurn q then .next s
  else .next (s.command q 4 (s.biasChecks q) fun c =>
    let va := cmdNat c 16 8
    let n := cmdNat c 24 4
    let host := cmdNat c 28 1 == 1
    let u := s.startCmd q c
    let done := completionOf c 0 0 0
    if !(s.hlinks.getD 0 { up := true, mode := .cxl }).up then u.biasFails q va n done
    else { u with
      biasJobs := [{ first := va, va := va, n := n, host := host, q := q, done := done }]
      flipping := [(s.frameOf q va, host)] })

/-- R79: a page's flip completes; the next page's begins, or the command completes. -/
def execBiasFlipComplete (s : State) : Host.Outcome State Fault Refusal :=
  match s.biasJobs with
  | j :: rest =>
    let f := s.frameOf j.q j.va
    if !s.flipReady f j.host then .next s
    else
      let s := if j.host then s.toHost f else s.toDevice [f]
      if j.n ≤ 1 then .next ((({ s with biasJobs := rest, flipping := [] }).complete j.q j.done).noteCmd 2 j.q j.done.seq)
      else
        .next { s with biasJobs := { j with va := j.va + 4096, n := j.n - 1 } :: rest, flipping := [(s.frameOf j.q (j.va + 4096), j.host)] }
  | [] => .next s

/-- A bias flip in progress when its link goes down ends with LINK; every page of the command is in device bias (R327). -/
def State.dropFlip (s : State) (l : Nat) : State :=
  match s.biasJobs with
  | j :: rest =>
    if l = 0 then { s with biasJobs := rest, flipping := [] }.biasFails j.q j.first ((j.va - j.first) / 4096 + j.n) j.done else s
  | [] => s

/-! ### SHRINK (R31, R300, R318, R341, R354) -/

/-- Dies with an enabled core. -/
def State.liveDies (s : State) (mask : Nat) : List Nat :=
  (List.range 4).filter fun d => field mask d d == 1 && (List.range 144).any fun c => s.enabled (d * 144 + c)

/-- Whether a launch's teams fit on `cores` once they have left theirs. -/
def State.placeableMoved (s : State) (ctx : Nat) (r : LaunchRec) (cores : List Nat) : Bool :=
  let u := { s with tm := if s.tm.ctx = ctx then Team.empty else s.tm, teams := s.teams.filter fun t => t.ctx != ctx }
  cores.all (fun m => u.coreFits r m) && cores.dedup.length == cores.length

/-- A started command of a queue's job ends: it completes OK. -/
def State.jobDone (s : State) (j : Job) : State := { s with jobs := s.jobs.erase j }.endCmd j.q j.cmd 0

/-- The clusters of a launch whose teams are all held go to the rectangles that Tison chose, gated dies among these are ungated first, and the
dies that the launch leaves without a team are gated (R300, R318, R354). -/
def State.moveLaunch (s : State) (c : Nat) (place : List Rect) (cores : List Nat) : State :=
  let before := ((s.ctxTeams c).map fun r => dieOf r.core).dedup
  let s := ((place.map (·.die)).dedup).foldl (fun (s : State) d =>
    let back := (s.dieTeams d).filter fun r => r.ctx != c
    if s.gated.contains d then (s.ungateDie d).restoreAll back else s) s
  let s := s.moveTeams c cores
  let s := s.restoreAll (s.ctxTeams c)
  (before.filter fun d => (s.dieTeams d).isEmpty).foldl State.gateDie s

/-- A SHRINK goes on: the launch's teams are pre-empted as soon as each can be, and once all are held they move to `place` (R31, R225). One
whose launch has ended completes. -/
def State.shrinkStep (s : State) (j : Job) (place : List Rect) : State :=
  let c := cmdNat j.cmd 16 1
  let k := s.ctxs.getD c LaunchCtx.empty
  if k.phase = .stopping then s
  else if k.phase ≠ .running then s.jobDone j
  else
    let rs := s.ctxTeams c
    let s := s.preemptAll rs
    let cores := place.flatMap (rectCores k.lp.cw k.lp.ch)
    let dies := s.liveDies (cmdNat j.cmd 17 1)
    if s.allHeld rs && place.length == k.lp.nclus && place.all (fun p => rectFits k.lp.cw k.lp.ch p && dies.contains p.die) &&
        s.placeableMoved c k.lp cores then
      ((s.moveLaunch c place cores).modCtx c fun k => { k with lp := { k.lp with dies := cmdNat j.cmd 17 1 } }).jobDone j
    else s

/-- The checks of a SHRINK: its context holds a launch, or held one that has completed since the command was written, and its mask names a die
with an enabled core (R341). -/
def State.shrinkChecks (s : State) (q : Nat) (c : List Byte) : List (Bool × Reject342) :=
  let x := cmdNat c 16 1
  let k := s.ctxs.getD x LaunchCtx.empty
  [(decide (x ≤ 7) && (k.phase != .free || decide ((s.queueAt q).order.headD 0 < k.lastDone)), badField 16 0),
   (decide (cmdNat c 17 1 ≤ 15) && !(s.liveDies (cmdNat c 17 1)).isEmpty, badField 17 0)]

/-- R340, R341, R318, R354: a SHRINK of this queue that has started goes on; else the one at its head starts. A launch that still waits for
its resources is placed on the named dies later (log entry 74). -/
def execShrink (q : Fin 64) (place : List Rect) (s : State) : Host.Outcome State Fault Refusal :=
  match s.jobs.find? fun j => j.q == q.val && cmdNat j.cmd 0 1 == 5 with
  | some j => .next (s.shrinkStep j place)
  | none =>
    if !s.serialTurn q then .next s
    else .next (s.command q 5 (s.shrinkChecks q) fun c =>
      let x := cmdNat c 16 1
      let k := s.ctxs.getD x LaunchCtx.empty
      if k.phase = .free then s.doneCmd q c 0
      else if k.phase = .waiting then
        (s.modCtx x fun k => { k with lp := { k.lp with dies := cmdNat c 17 1 } }).doneCmd q c 0
      else
        let j : Job := { q := q, cmd := c, place := place }
        State.shrinkStep { s.startCmd q c with jobs := [j] } j place)

/-! ### POWER (R354) -/

/-- Runs a POWER command of kind `kind`; `rest` holds the checks of its own. A kind above 3 is rejected by the first row. -/
def State.power (s : State) (q kind : Nat) (rest : List Byte → List (Bool × Reject342)) (go : List Byte → State) : State :=
  if !s.serialTurn q then s
  else match s.headCmd q (· == 6) with
    | none => s
    | some c =>
      let k := cmdNat c 16 1
      if k = kind ∨ (kind = 0 ∧ 3 < k) then s.command q 6 (fun c => (decide (k ≤ 3), badField 16 0) :: rest c) go else s

/-- The islands that a POWER command names (R354). -/
def powerIslands (c : List Byte) : List Nat :=
  let d := cmdNat c 17 1
  if cmdNat c 18 1 = 255 then dieIslands d else [d * 12 + cmdNat c 18 1]

/-- The checks of the die and island bytes. -/
def placeChecks (c : List Byte) : List (Bool × Reject342) :=
  [(decide (cmdNat c 17 1 ≤ 3), badField 17 0), (decide (cmdNat c 18 1 ≤ 11) || cmdNat c 18 1 == 255, badField 18 0)]

/-- R354: kind 0 writes TARGET. -/
def execPowerTarget (q : Fin 64) (s : State) : Host.Outcome State Fault Refusal :=
  .next (s.power q 0 (fun c => placeChecks c ++ [(decide (cmdNat c 19 1 < 24), badField 19 0)]) fun c =>
    let u := (powerIslands c).foldl (fun s i => s.modIsland i fun x => x.mailbox (BitVec.ofNat 5 (cmdNat c 19 1))) s
    u.doneCmd q c 0)

/-- R354: kind 1 writes CAP. -/
def execPowerCollarCap (q : Fin 64) (s : State) : Host.Outcome State Fault Refusal :=
  .next (s.power q 1
    (fun c => placeChecks c ++ [(decide (1 ≤ cmdNat c 20 8) && decide (cmdNat c 20 8 ≤ 65535), badField 20 0)]) fun c =>
      let v := BitVec.ofNat 16 (cmdNat c 20 8)
      let u := (powerIslands c).foldl (fun s i => s.modIsland i fun x => { x with cap := v }) s
      u.doneCmd q c 0)

/-- The checks of a die gate. -/
def gateChecks (c : List Byte) : List (Bool × Reject342) :=
  [(decide (cmdNat c 17 1 ≤ 3), badField 17 0), (decide (cmdNat c 19 1 ≤ 1), badField 19 0)]

/-- A die gate goes on: the teams of the die are pre-empted as soon as each can be, and once all are held its islands go OFF (R31, R354). -/
def State.gateStep (s : State) (j : Job) : State :=
  let d := cmdNat j.cmd 17 1
  let rs := s.dieTeams d
  let s := s.preemptAll rs
  if s.allHeld rs then (s.gateDie d).jobDone j else s

/-- R31, R340, R354: kind 2 with byte 19 = 1 pre-empts and holds the teams of a die, and takes its islands to OFF; one that has started goes
on. -/
def execDieGate (q : Fin 64) (s : State) : Host.Outcome State Fault Refusal :=
  match s.jobs.find? fun j => j.q == q.val && cmdNat j.cmd 0 1 == 6 with
  | some j => .next (s.gateStep j)
  | none => .next (s.power q 2 gateChecks fun c =>
    if cmdNat c 19 1 = 0 then s
    else if s.gated.contains (cmdNat c 17 1) then s.doneCmd q c 0
    else
      let j : Job := { q := q, cmd := c, place := [] }
      State.gateStep { s.startCmd q c with jobs := [j] } j)

/-- R354: kind 2 with byte 19 = 0 wakes the islands of a die and restores its teams. -/
def execDieUngate (q : Fin 64) (s : State) : Host.Outcome State Fault Refusal :=
  .next (s.power q 2 gateChecks fun c =>
    let d := cmdNat c 17 1
    if cmdNat c 19 1 = 1 then s
    else if s.gated.contains d then ((s.ungateDie d).restoreAll (s.dieTeams d)).doneCmd q c 0
    else s.doneCmd q c 0)

/-- R351, R354: kind 3 sets the safe cap. -/
def execPowerSafeCap (q : Fin 64) (s : State) : Host.Outcome State Fault Refusal :=
  .next (s.power q 3 (fun c => [(decide (600 ≤ cmdNat c 20 8) && decide (cmdNat c 20 8 ≤ 2800), badField 20 0)]) fun c =>
    State.doneCmd { s with rack := { s.rack with safe := cmdNat c 20 8 } } q c 0)

/-! ### COPY (R341) -/

/-- The record of the launch that a COPY kernel runs as: one team on one core, with no group of a program, at priority 0 (R341; log entry
20). -/
def copyRecord : LaunchRec := { LaunchRec.empty with cw := 1, ch := 1, nclus := 1, dies := 15 }

/-- The launch of a COPY command. -/
def State.copyOf (s : State) (q : Nat) (c : List Byte) : LaunchCtx :=
  { LaunchCtx.empty with
    phase := .waiting, queue := q, seqno := cmdSeq c, sig := cmdSig c, fn := (s.queueAt q).fn, lp := copyRecord,
    copy := some { src := cmdNat c 16 8, dst := cmdNat c 24 8, n := cmdNat c 32 8, pts := 0 } }

/-- The COPY kernels that have no context yet claim the contexts that are free, the oldest first (R28, R341). -/
def State.claimCopies (s : State) : List LaunchCtx → State
  | [] => s
  | k :: ks => match s.freeCtx with
    | some c => ({ s with copies := ks }.claimCtx k c).claimCopies ks
    | none => s

/-- A waiting COPY kernel of context `c` is placed on the first core, from the one of log entry 30 on, that has room for it. -/
def State.placeCopy (s : State) (c : Nat) : State :=
  let k := s.ctxs.getD c LaunchCtx.empty
  let from' := (Config.copyCore s.ticks).val
  match ((List.range 576).map fun i => (from' + i) % 576).find? fun m => k.lp.dieList.contains (dieOf m) && s.placeable k.lp [m] with
  | some m => if !s.stopped && s.settled then s.placeLaunch c [m] 0 else s
  | none => s

/-- What the check of R189 says of one byte of a COPY kernel, a lane access of the team `t`: a page that is not resident, one under a flip, a
line of a pending operation or under test, and a posted store of the same byte are waited for (R73, R79, R194, R373). -/
def State.copyCheck (s : State) (t : Team) (fn va : Nat) (write : Bool) : Check :=
  if 2 ^ 56 ≤ va then .bad .space
  else if s.pageFails fn va then .bad .page
  else match (s.pageOf fn va).filter (·.resident) with
    | none => .miss
    | some p =>
      let pa := p.phys va
      let host := s.hostDirected pa
      if !s.paThere pa then .bad .space
      else if s.flipHeld pa then .miss
      else if (!write && !p.r) || (write && !p.w) then .bad .prot
      else if regionBad t p write then .bad .region
      else if s.locked write (0, lineOf pa) then .bad .rlock
      else if s.lineHeld (0, lineOf pa) || (write && s.posted.any fun o => o.bytes.any fun b => b.1 == pa) then .miss
      else .good { sp := 0, key := pa, host := host, stamped := !host && p.region != 1, leased := p.region == 0 }

/-- What a COPY kernel has done in one step: the state, the places read and written, and what stopped it, if anything did. -/
structure CopyDone where
  s    : State
  rd   : List Spot
  wr   : List Spot
  stop : Option Check

/-- Copies `n` bytes in ascending address order, up to the first that faults or waits. A byte behind a link that is down is not written, and one
that is read there or from a poisoned line raises ECCU where it is stored (R222, R327). -/
def State.copyBytes (s : State) (t : Team) (fn : Nat) : Nat → Nat → Nat → CopyDone
  | 0, _, _ => { s := s, rd := [], wr := [], stop := none }
  | n + 1, src, dst =>
    match s.copyCheck t fn src false, s.copyCheck t fn dst true with
    | .good x, .good y =>
      if s.poison.contains (0, lineOf x.key) || s.hostDead (0, x.key) then { s := s, rd := [], wr := [], stop := some (.bad .eccu) }
      else
        let r := (s.hostWriteOf t.ctx y.key [s.seenByte (dieOf t.core) 0 x.key]).copyBytes t fn n (src + 1) (dst + 1)
        { r with rd := x :: r.rd, wr := y :: r.wr }
    | .good _, c => { s := s, rd := [], wr := [], stop := some c }
    | c, _ => { s := s, rd := [], wr := [], stop := some c }

/-- The lines of some places that `is` picks. -/
def copyLines (xs : List Spot) (is : Spot → Bool) : List LineId := ((xs.filter is).map fun x => ((0, lineOf x.key) : LineId)).dedup

/-- A fault of a COPY kernel ends its launch (R30, R341). -/
def State.copyFault (s : State) (c : Nat) (t : Team) (code : Code) : State :=
  let e := laneEngine t.core
  let s := s.noteCtx c e 5 0 (BitVec.ofNat 64 (codeNum code))
  let s := s.dump c e 0 (laneRecord { code := code, mask := 1, info := 0 } e 0)
  s.fatal c (s.fatalFault (codeNum code) e (t.core * 2 ^ 20) 0)

/-- A COPY kernel's core takes 16 bytes further, as one load and one store of a lane (R66, R341; log entry 20); the pager brings in a page that it
waits for (R221). -/
def State.copyStep (s : State) (c : Nat) (t : Team) (j : CopyJob) : State :=
  let fn := (s.ctxs.getD c LaunchCtx.empty).fn
  if t.held || t.halting || s.stopped || !s.islandOn t.core then s
  else if j.n = 0 then s.modCtx c fun k => { k with copy := none }
  else
    let r := s.copyBytes t fn (min 16 j.n) j.src j.dst
    let done := r.wr.length
    let (u, p) := if done = 0 then (s, j.pts)
      else r.s.stampEvent j.pts 16 (copyLines r.rd fun x => x.stamped && !x.leased) (copyLines r.rd fun x => x.stamped && x.leased)
        (copyLines r.wr (·.stamped))
    let u := u.modCtx c fun k => { k with copy := some { src := j.src + done, dst := j.dst + done, n := j.n - done, pts := p } }
    match r.stop with
    | some (.bad code) => u.copyFault c t code
    | some _ => (u.pageIn fn (j.src + done)).pageIn fn (j.dst + done)
    | none => u

/-- The COPY kernel of a context goes on: it is placed, or its core copies. -/
def State.runCopy (s : State) (c : Nat) : State :=
  let k := s.ctxs.getD c LaunchCtx.empty
  match k.phase, k.copy, s.allTeams.find? fun t => t.ctx == c with
  | .waiting, some _, _ => s.placeCopy c
  | .running, some j, some t => s.copyStep c t j
  | _, _, _ => s

/-- R341: a COPY command starts as soon as it is fetched; its kernel is a launch at priority 0 with a context of its own. The kernels of a queue
that have started go on, 16 bytes each (log entry 20). -/
def execCopy (q : Fin 64) (s : State) : Host.Outcome State Fault Refusal :=
  let u := s.command q 7 (fun c => [(cmdNat c 32 8 % 16 == 0, badField 32 0)]) fun c =>
    { s.startCmd q c with copies := s.copies ++ [s.copyOf q c] }
  let u := u.claimCopies u.copies
  .next (((List.range 8).filter fun c => (u.ctxs.getD c LaunchCtx.empty).queue == q.val).foldl State.runCopy u)

end Sys2Proof.Machine
end

