-- ==== Sys2Proof/Machine/Host.lean ====
section
/-!
DEFINITION. The host links and the host's own accesses (R62, R79, R80, R325 to R327).
-/
namespace Sys2Proof.Machine

/-! ### A link that stops carrying traffic (R327) -/

/-- A load that waits for host link `l` comes back poisoned (R327). -/
def Entry.cut (l : Nat) (e : Entry) : Entry :=
  match e.pend, e.via with
  | some _, some pa => if linkOf pa = l then { e with pois := some pa } else e
  | _, _ => e

/-- The values of a replay whose loads wait for the link. -/
def Replay.cut (l : Nat) (r : Replay) : Replay := { r with vals := r.vals.map fun v => (v.1, v.2.cut l) }

/-- Every entry of a fragment. -/
def Frag.cut (l : Nat) (f : Frag) : Frag := { f with sstk := f.sstk.map (Entry.cut l), replay := f.replay.map (Replay.cut l) }

/-- Every entry of a group. -/
def Group.cut (l : Nat) (g : Group) : Group :=
  { g.mapFrags (Frag.cut l) with lanes := g.lanes.map fun x => { x with stk := x.stk.map (Entry.cut l) } }

/-- The posted stores of a link are dropped and logged, and counted as done (R201, R327). -/
def State.dropPosted (s : State) (l : Nat) : State :=
  let gone := s.posted.filter fun p => p.link == l
  let rest := s.posted.filter fun p => p.link != l
  let s := gone.foldl (fun (s : State) p => s.log p.team.ctx (p.bytes.map (·.2))) { s with posted := rest }
  let ended := fun (id : Nat) => (gone.any fun p => p.id == id) && !(rest.any fun p => p.id == id)
  s.mapTeams fun t => { t with outs := t.outs.filter fun o => !(o.cls == .st && ended o.id) }

/-- What a link that goes down leaves (R327). -/
def State.linkDown (s : State) (l : Nat) : State :=
  let s := (s.mapTeams fun t => t.mapGroups (Group.cut l)).dropPosted l
  State.dropFlip { s with hlinks := s.hlinks.modify l fun x => { x with up := false } } l

/-- R327: a host link goes down. -/
def execHostLinkDown (link : Fin 2) (s : State) : Host.Outcome State Fault Refusal := .next (s.linkDown link)

/-- R327: the host has not acknowledged for 10 ms; the link counts as down until it retrains. -/
def execHostAckTimeout (link : Fin 2) (s : State) : Host.Outcome State Fault Refusal := .next (s.linkDown link)

/-- The pages in host bias go to device bias when their link carries no CXL (R79, R326). -/
def State.dropBias (s : State) : State := s.toDevice s.hostBias

/-- Whether step 6 of the bring-up is over: every fabric link is up, or its 500 ms have passed (R366). -/
def State.fabricOver (s : State) : Bool := s.flinks.all (·.up) || decide (s.fabricBy ≤ s.now)

/-- R325, R326, R366, R368: a host link trains, the first time after the fabric links, and BAR0 opens. In RECOVERY only link 0 trains, and only as
PCIe. A link that retrains as PCIe ends the flips that CXL carried. -/
def execHostLinkTrain (link : Fin 2) (m : LinkMode) (s : State) : Host.Outcome State Fault Refusal :=
  if s.recovery ∧ !(link == 0 && m == .pcie) ∨ !(s.recovery || s.opened || s.fabricOver) then .next s
  else
    let s := { s with hlinks := s.hlinks.set link { up := true, mode := m }, opened := true }
    .next (if link = 0 ∧ m = .pcie then (s.dropFlip 0).dropBias else s)

/-! ### Host accesses (R80) -/

/-- Whether a host link carries CXL. -/
def State.cxlUp (s : State) (l : Nat) : Bool :=
  let x := s.hlinks.getD l { up := false, mode := .pcie }
  x.up && x.mode == .cxl

/-- Whether the host can reach a range of device memory through a link. -/
def State.hostReach (s : State) (l pa len : Nat) : Bool :=
  s.cxlUp l && decide (0 < len) && s.paThere pa && s.paThere (pa + len - 1) && !isHostPa (pa + len - 1)

/-- Whether a request of the host for a range is held at the link port: a page of it is under a flip to device bias, or a line of it is under test
(R79, R373). -/
def State.portHeld (s : State) (pa len : Nat) : Bool :=
  (s.flipping.any fun f => !f.2 && decide (pa / 4096 ≤ f.1) && decide (f.1 ≤ (pa + len - 1) / 4096)) ||
    s.tests.any fun t => (t.1 == 0 || t.1 == l2Mem) && decide (pa / 128 ≤ t.2.1) && decide (t.2.1 ≤ (pa + len - 1) / 128)

/-- A request waits at a port until it can be performed. -/
def State.hold (s : State) (i : Instr) : State :=
  { s with held := s.held ++ [i], heldAt := s.heldAt ++ [s.seqNo + 1], seqNo := s.seqNo + 1 }

/-- A request that is held leaves its port (R79, R366, R373). -/
def State.letGo (s : State) (i : Instr) : State := { s with held := s.held.erase i, heldAt := s.heldAt.eraseIdx (s.held.idxOf i) }

/-- Whether a row is a write of a doorbell, by its name or at its place in BAR0 (R338). -/
def isDoorbell : Instr → Bool
  | .doorbell _ _ => true
  | .registerWrite (_, .bar0 off) _ => decide (off < 0x4_0000) && off % 4096 == 0x18
  | _ => false

/-- Whether of two requests the later waits for the earlier: doorbells are served in order (R366), and so are accesses that share a line (R373). -/
def inOrder (a b : Instr) : Bool :=
  (isDoorbell a && isDoorbell b) ||
    (match reqSpan a, reqSpan b with
      | some x, some y => decide (x.1 ≤ y.2) && decide (y.1 ≤ x.2)
      | _, _ => false) ||
    match a, b with
    | .bar2Access w _ _ _, .bar2Access v _ _ _ => w == v
    | _, _ => false

/-- Whether a request that arrives now waits behind one that is held. -/
def State.queued (s : State) (i : Instr) : Bool := s.held.any (inOrder i)

/-- The lines of a range that keep stamps: those in device bias that are not read-shared (R64, R65). -/
def State.hostLines (s : State) (pa len : Nat) : List LineId :=
  ((List.range ((pa + len - 1) / 128 + 1 - pa / 128)).map fun i => ((0, pa / 128 + i) : LineId)).filter s.keepsStamps

/-- R80: a CXL.mem read is served at the home. A link port has no launch record, so its read takes no lease: rts rises to the read's stamp alone
(DESIGN CHOICE, log entry 68). -/
def execHostCxlMemRead (link : Fin 2) (pa len : Nat) (s : State) : Host.Outcome State Fault Refusal :=
  if !s.hostReach link pa len then .next s
  else if s.portHeld pa len then .next (s.hold (.hostCxlMemRead link pa len))
  else
    let s := { s with hostRead := s.bytesAt 0 pa len }
    .next (s.stampEvent 0 0 (s.hostLines pa len) [] []).1

/-- Whether a range meets a read-shared page (R62). -/
def State.readShared (s : State) (pa len : Nat) : Bool :=
  s.pages.any fun p => p.region == 1 && decide (p.pa < pa + len) && decide (pa < p.pa + 2 ^ p.log2)

/-- R62, R80: a CXL.mem write is served at the home; a write to a read-shared page is dropped and logged. -/
def execHostCxlMemWrite (link : Fin 2) (pa : Nat) (bytes : List Byte) (s : State) : Host.Outcome State Fault Refusal :=
  if !s.hostReach link pa bytes.length then .next s
  else if s.portHeld pa bytes.length then .next (s.hold (.hostCxlMemWrite link pa bytes))
  else if s.readShared pa bytes.length then .next (s.log 8 bytes)
  else
    let s := s.putBytes 0 pa bytes
    .next (s.stampEvent 0 0 [] [] (s.hostLines pa bytes.length)).1

/-- R80, R199: an atomic from the host is one event; the old value goes back to the host. -/
def execHostAtomic (link : Fin 2) (pa : Nat) (op : AtomOp) (w64 : Bool) (cmp v : Word) (s : State) :
    Host.Outcome State Fault Refusal :=
  let n := if w64 then 8 else 4
  if !(s.hostReach link pa n && pa % n == 0) then .next s
  else if s.portHeld pa n then .next (s.hold (.hostAtomic link pa op w64 cmp v))
  else if s.readShared pa n then .next (s.log 8 (toBytes n v.toNat))
  else
    let old := s.natAt 0 pa n
    let a := v.toNat % 2 ^ (8 * n)
    let new := if op = .cas then atomResult .cas (8 * n) old (cmp.toNat % 2 ^ (8 * n)) a else atomResult op (8 * n) old a 0
    let s := ({ s with hostRead := toBytes n old }).putNat 0 pa n new
    .next (s.stampEvent 0 0 [] [] (s.hostLines pa n)).1

/-- The shares of the die scratchpads that BAR2 shows to function `fn`, one behind the other: those of its launches, ascending by context and then
by die, each with its key and its bytes (R325; log entry 34). -/
def State.barShares (s : State) (fn : Nat) : List (Nat × Nat) :=
  (List.range 8).flatMap fun c =>
    let k := s.ctxs.getD c LaunchCtx.empty
    if k.fn = fn then
      ((List.range 4).filter fun d => s.allTeams.any fun t => t.ctx == c && t.home == d).map fun d => (dspKey d c 0, k.lp.dspad)
    else []

/-- The key behind an offset of the window. -/
def barKey : List (Nat × Nat) → Nat → Option Nat
  | [], _ => none
  | (key, n) :: rest, off => if off < n then some (key + off) else barKey rest (off - n)

/-- R325, R326: an access through BAR2, the 64 MB window onto a function's part of the die scratchpads; outside the global order (R64). Bytes
beyond that part are not reached (log entry 34). -/
def execBar2Access (w : Writer) (off : Nat) (wr : Option (List Byte)) (len : Nat) (s : State) : Host.Outcome State Fault Refusal :=
  let n := match wr with
    | some bs => bs.length
    | none => len
  let shares := match writerFn w with
    | some fn => s.barShares fn
    | none => []
  let keys := (List.range n).map fun i => if off + i < 2 ^ 26 then barKey shares (off + i) else none
  if !keys.all Option.isSome then .next s
  else if keys.reduceOption.any fun k => s.underTest (4, lineOf k) then .next (s.hold (.bar2Access w off wr len))
  else match wr with
    | some bs => .next (s.putWrites ((keys.reduceOption.zip bs).map fun x => { sp := 4, key := x.1, val := x.2 }))
    | none => .next { s with hostRead := keys.reduceOption.map (s.byteAt 4) }

/-- Whether a request that is held can be performed now, or is to be answered otherwise: a doorbell once the host links have trained (R366). -/
def State.portFree (s : State) (i : Instr) : Bool :=
  match i with
  | .hostCxlMemRead l pa len => !(s.hostReach l pa len && s.portHeld pa len)
  | .hostCxlMemWrite l pa bytes => !(s.hostReach l pa bytes.length && s.portHeld pa bytes.length)
  | .hostAtomic l pa _ w64 _ _ => !(s.hostReach l pa (if w64 then 8 else 4) && s.portHeld pa (if w64 then 8 else 4))
  | .bar2Access _ _ _ _ => !s.tests.any fun t => t.1 == 4
  | .doorbell _ _ | .registerWrite _ _ => s.powered && s.opened
  | _ => true

/-- The held requests that go next: those that can be performed and wait for none that came before, a request held (`before`) or a lane's access
(R366, R373). -/
def State.freeHeld (s : State) : List (Instr × Nat) → List Instr → List Instr
  | [], _ => []
  | (i, n) :: rest, before =>
    (if s.portFree i && !(before.any (inOrder i)) && !s.laneBefore n (reqMeets i) then [i] else []) ++ s.freeHeld rest (before ++ [i])

end Sys2Proof.Machine
end

