-- ==== Sys2Proof/Machine/Bringup.lean ====
section
/-!
DEFINITION. Reset and bring-up, firmware, attestation, the life cycle, wiping, and self-tests (R366 to R375).
-/
namespace Sys2Proof.Machine

/-! ### Firmware (R367, R368) -/

/-- Whether the ROM accepts an image: its signature is valid and its version not below the fused minimum (R367). -/
def Fuses.accepts (f : Fuses) (image : List Byte) : Bool :=
  Config.signatureValid image && decide (f.minVer ≤ Config.imageVersion image)

/-- R367: the physical function stages an image for the next reset. -/
def execFirmwareStage (image : List Byte) (s : State) : Host.Outcome State Fault Refusal :=
  if !s.recovery ∧ s.fuses.accepts image then .next { s with fuses := { s.fuses with staged := some image } } else .next s

/-- R368: in RECOVERY an image is put into the 64 KB mailbox that link 0 reaches, and is staged when the ROM accepts it. -/
def execRecoveryImageStage (image : List Byte) (s : State) : Host.Outcome State Fault Refusal :=
  if s.recovery ∧ (s.hlinks.getD 0 { up := false, mode := .pcie }).up ∧ image.length ≤ 65536 then
    let s := { s with mailbox := image }
    .next (if s.fuses.accepts image then { s with fuses := { s.fuses with staged := some image } } else s)
  else .next s

/-! ### Reset (R366, R370) -/

/-- The host's own memory, which no loss of the module's power and no wipe of the module touches. -/
def State.hostMem (s : State) : Memory := s.mem.filter fun c => decide (2 ^ 51 ≤ c.1)

/-- The module after all its device state is lost: host memory, the fuses, retired frames, the disabled cores, the functions' links and the
doorbells that are held stay (R366). -/
def State.wiped (s : State) : State :=
  { State.reset with agenda := s.agenda, seqNo := s.seqNo, ticks := s.ticks, mem := s.hostMem, fuses := s.fuses
                     disabled := s.disabled, retired := s.retired, gone := s.gone, fnLink := s.fnLink, held := s.held.filter isDoorbell
                     heldAt := ((s.held.zip s.heldAt).filter fun h => isDoorbell h.1).map (·.2) }

/-- The fuses after a reset: a requested life-cycle state takes effect; a change into RETURN replaces the key pair (R370). -/
def Fuses.atReset (f : Fuses) : Fuses :=
  match f.nextLife with
  | some l => { f with life := l, nextLife := none, keyGen := if l = .returned ∧ f.life ≠ .returned then f.keyGen + 1 else f.keyGen }
  | none => f

/-- The image that the ROM verifies: the staged one, or the running one (R367). -/
def Fuses.image (f : Fuses) : List Byte := f.staged.getD f.running

/-- The Tison memories after the wipe: the running firmware stands where it was placed (R370; log entry 71). -/
def firmwareMem (image : List Byte) : Memory :=
  (Config.imageBytes image).foldl (fun m x => memSet m (x.1 / 2 ^ 18 % 4 * 2 ^ 32 + x.1 % 2 ^ 18) x.2) []

/-- An island that has not been brought ON (R366, R368). -/
def Island.down : Island := { Island.reset with pstate := .off, gate := true, mode := 2 }

/-- The module in RECOVERY: no island is ON, and of the links only host link 0 trains, as PCIe, with which BAR0 opens (R366, R368). -/
def State.recover (s : State) : State :=
  { s with
    recovery := true
    opened := true
    islands := List.replicate 48 Island.down
    hlinks := [{ up := true, mode := .pcie }, { up := false, mode := .pcie }] }

/-- The bring-up after an image that the ROM accepts (R366, steps 3 to 7): a stack or channel that fails is disabled and logged, a wipe that fails
leads to RECOVERY, and an island that does not come up takes its cores out of the enabled-core mask. Tison core 0 runs the firmware; the fabric links
have 500 ms to train, and the host links train after them (steps 6 and 7). -/
def State.bringUp (s : State) (n : Nat) : State :=
  let dead := (List.range 48).filter (Config.memFails n)
  let failed := (List.range 48).filter (Config.islandFails n)
  let s := dead.foldl (fun (s : State) u => s.log 8 [BitVec.ofNat 8 u]) { s with deadMem := dead }
  if Config.wipeFails n then s.recover
  else { s with
    failed := failed
    tcm := firmwareMem s.fuses.running
    tison := (List.range 4).map fun c => { Tison.reset with run := c == 0 || Config.coreStarts n c }
    opened := false
    fabricBy := s.now + 500000000
    hlinks := List.replicate 2 { up := false, mode := .pcie }
    islands := (List.range 48).map fun i => if failed.contains i then Island.down else Island.reset }

/-- The module without power (R366, R370, R375). -/
def State.dark (s : State) : State :=
  { s.wiped with powered := false, opened := false, hlinks := s.hlinks.map fun x => { x with up := false } }

/-- R366, R367, R368, R370: module reset runs the bring-up steps. Without good power the module stays unpowered, and an image that the ROM refuses
leaves it in RECOVERY. -/
def execModuleReset (s : State) : Host.Outcome State Fault Refusal :=
  let f := s.fuses.atReset
  if Config.powerFails s.ticks then .next s.dark
  else if f.accepts f.image then .next (State.bringUp { s.wiped with fuses := { f with running := f.image, staged := none } } s.ticks)
  else .next (State.recover { s.wiped with fuses := f })

/-- R370: the input power is lost, and all device state with it. -/
def execPowerLoss (s : State) : Host.Outcome State Fault Refusal := .next s.dark

/-- R375: at 115 °C every rail is removed. -/
def execThermalTrip (s : State) : Host.Outcome State Fault Refusal := .next s.dark

/-! ### Attestation and life cycle (R369, R370) -/

/-- The enabled-core mask of a die (R12). -/
def State.coreMask (s : State) (die : Nat) : BitVec 144 :=
  (List.range 144).foldl (fun m c =>
    let core := die * 144 + c
    if s.disabled.contains core || s.failed.contains (islandOf core) then m else m ||| BitVec.twoPow 144 c) 0

/-- The code of a life-cycle state in a report. -/
def lifeCode : LifeCycle → Byte
  | .manufacture => 0
  | .deployed => 1
  | .returned => 2

/-- R369: Tison returns a signed report for a nonce of 32 bytes. -/
def execAttestationRequest (nonce : List Byte) (s : State) : Host.Outcome State Fault Refusal :=
  if nonce.length = 32 then
    let masks := (List.range 4).map s.coreMask
    let fw := Config.digest s.fuses.running
    let bytes := nonce ++ Config.romDigest ++ fw ++ Config.fusedDigest ++ [lifeCode s.fuses.life] ++
      masks.flatMap fun m => toBytes 18 m.toNat
    let r : Report := { nonce := nonce, rom := Config.romDigest, firmware := fw, fused := Config.fusedDigest, life := s.fuses.life
                        masks := masks, sig := Config.signReport s.fuses.keyGen bytes }
    .next { s with report := some r }
  else .next s

/-- R370: a token with a valid signature requests, for the next reset, the life-cycle state that it names. -/
def execLifeCycleToken (target : LifeCycle) (token : List Byte) (s : State) : Host.Outcome State Fault Refusal :=
  if Config.signatureValid token ∧ Config.tokenTarget token = (lifeCode target).toNat then
    .next { s with fuses := { s.fuses with nextLife := some target } }
  else .next s

/-! ### Self-tests (R371 to R374) -/

/-- The core of a line in a cache, and the line itself. -/
def cacheCore (key : Nat) : Nat := key / 2 ^ 47
def cacheLine (key : Nat) : Nat := key % 2 ^ 47

/-- Whether a line, slot or bank of a space is one of the module's memories: device memory (0), the slots of the lane slices (1), core scratchpads
(2), accumulator slots (3), die scratchpads (4), Tison memories (5), the entries of lane and of scalar stacks in stack-top files and backing areas
(6, 7), the L1s (8), the L2 slices (9), the instruction caches (10), the scale caches (11), and the retention buffer of a core whose island
retains its slices (12) (R371; log entry 37). -/
def State.ownMemory (s : State) (sp line : Nat) : Bool :=
  let device := fun (pa : Nat) => s.paThere pa && !isHostPa pa
  match sp with
  | 0 | 9 => device (128 * line)
  | 1 | 6 | 7 => decide (line < 576 * 96 * 2 ^ 16)
  | 2 => decide (line < scrKey 576 0 0 / 128)
  | 3 => decide (line < 576 * 16)
  | 4 => decide (line < dspKey 4 0 0 / 128)
  | 5 => decide (line < 2 ^ 34 / 128)
  | 8 | 10 => decide (cacheCore line < 576) && device (128 * cacheLine line)
  | 11 => decide (cacheCore line < 576) && device (64 * cacheLine line)
  | 12 => decide (line < 576 * 96 * 2 ^ 16) && (s.islandAt (islandOf (line / 2 ^ 16 / 96))).pstate == .retain
  | _ => false

/-- The entry that stands `k` above the bottom of a stack is poisoned; `pa` names it. -/
def poisonEntry (k pa : Nat) (stk : List Entry) : List Entry :=
  if k < stk.length then stk.modify (stk.length - 1 - k) fun e => { e with pois := some pa } else stk

/-- Changes the group whose slices a bank holds. -/
def State.modBank (s : State) (bank : Nat) (f : Group → Group) : State :=
  s.mapTeams fun t =>
    if t.live && !t.held && t.core == bank / 96 then t.mapGroups fun g => if g.gslot = bank % 96 then f g else g else t

/-- An uncorrected error poisons its data (R222, R371): a slot of a lane, an accumulator slot, a stack entry, a copy in a cache, or a line. A line of
code in an instruction cache that has one is dropped and fetched again (DESIGN CHOICE, log entry 37). -/
def State.poisonAt (s : State) (sp line : Nat) : State :=
  let bank := line / 2 ^ 16
  let (lane, k) := (line % 2 ^ 16 / 2048, line % 2048)
  let slot := fun (l : Lane) => if l.ix = lane ∧ l.live then { l with bad := k :: l.bad.filter fun j => j != k } else l
  let entry := fun (l : Lane) => if l.ix = lane ∧ l.live then { l with stk := poisonEntry k line l.stk } else l
  let here := fun (core key : Nat) => core == cacheCore line && key == cacheLine line
  match sp with
  | 1 | 12 => s.modBank bank fun g => { g with lanes := g.lanes.map slot }
  | 3 => s.mapTeams fun t => if t.live && !t.held && t.core == line / 16 && t.phys.contains (line % 16) then
        { t with acc := t.acc.modify (t.phys.idxOf (line % 16)) fun a => { a with bad := true } }
      else t
  | 6 => s.modBank bank fun g => { g with lanes := g.lanes.map entry }
  | 7 => s.modBank bank fun g => g.mapFrags fun f => if inMask f.mask lane then { f with sstk := poisonEntry k line f.sstk } else f
  | 8 => { s with l1 := s.l1.map fun c => if here c.core c.line then { c with bad := true } else c }
  | 10 => { s with icache := s.icache.filter fun c => !here c.core c.line }
  | 11 => { s with scales := s.scales.map fun b => if here b.core b.block then { b with bad := true } else b }
  | 9 => { s with poison := if s.poison.contains (0, line) then s.poison else s.poison ++ [(0, line)] }
  | _ => { s with poison := if s.poison.contains (sp, line) then s.poison else s.poison ++ [(sp, line)] }

/-- The physical address that an error record carries: of the line, or of the line of which a cache holds a copy; 0 for a memory without one
(R60, R374; log entry 37). -/
def errorPa (sp line : Nat) : Nat :=
  match sp with
  | 0 | 9 => 128 * line
  | 8 | 10 => 128 * cacheLine line
  | 11 => 64 * cacheLine line
  | _ => 0

/-- An error record of a line (R374). -/
def State.errorAt (s : State) (sp line kind result : Nat) : ErrorRec :=
  { time := s.now, pa := errorPa sp line, engine := (Config.errorUnit s.ticks).toNat, kind := kind, result := result }

/-- R371, R372, R374: an error: an uncorrected one poisons its data, and the controller tests the row or bank, unless a test of it is under way. -/
def execSelfTest (sp line : Nat) (uncorrected : Bool) (s : State) : Host.Outcome State Fault Refusal :=
  if !s.ownMemory sp line then .next s
  else
    let s := if uncorrected then s.poisonAt sp line else s
    if s.tests.any fun t => t.1 == sp && t.2.1 == line then .next (s.addError (s.errorAt sp line (1 + bit uncorrected) 3))
    else .next { s with tests := s.tests ++ [(sp, line, uncorrected)] }

/-- Whether a failing row or bank may be replaced: a row of HBM as long as spare rows remain, a bank of SRAM always, a row of LPDDR6 never (R372;
log entry 37). -/
def hasSpare (sp line : Nat) (spare : Bool) : Bool := sp != 0 || (spare && decide (128 * line < 0x60_0000_0000))

/-- RESULT of R374. -/
def testResult (pass spare : Bool) : Nat := if pass then 0 else if spare then 1 else 2

/-- R372 to R374: the test ends with the row's contents and poison marks restored; a lasting error takes a spare or, where none is left, retires the
4 KB frame. -/
def execSelfTestComplete (sp line : Nat) (pass spare : Bool) (s : State) : Host.Outcome State Fault Refusal :=
  match s.tests.find? fun t => t.1 == sp && t.2.1 == line with
  | some t =>
    let r := testResult pass (hasSpare sp line spare)
    let u := State.addError { s with tests := s.tests.erase t } (s.errorAt sp line (1 + bit t.2.2) r)
    .next (if r = 2 then { u with retired := u.retired ++ [line / 32] } else u)
  | none => .next s

end Sys2Proof.Machine
end

