-- ==== Sys2Proof/Machine/Spawn.lean ====
section
/-!
DEFINITION. Spawning: `spawn`, `spawn.flush` and `cwait` (R312, R314, R319), and the events of the pocket and the child
reserve (R313, R315 to R317).
-/
namespace Sys2Proof.Machine

/-! ### Spawn -/

/-- The check of a join counter's address: 4 bytes in space g; a range lock does not stop it (R312, R319, R323). -/
def State.joinCheck (s : State) (acc : Acc) (a : Word) : Check :=
  match s.checkAddr acc .g 4 a.toNat with
  | .bad .rlock => match s.physOf s.ctx.fn a.toNat with
    | some pa => .good { sp := 0, key := pa, host := false, stamped := true, leased := true }
    | none => .miss
  | x => x

/-- What the checks of the join counters of `lanes` come to (R190, R312). -/
inductive Joins where
  | bad (x : LaneFault)
  | miss (va : Nat)
  | ok

/-- Checks the join counters of some active lanes: SPACE and ALIGN, then every translation is awaited, then PROT and REGION (R283,
R312). -/
def State.checkJoins (s : State) (acc : Acc) (lanes : List Lane) : Joins :=
  let cs := lanes.map fun l => ({ ix := l.ix, addr := l.jcp, a := 0, b := 0 : Req }, s.joinCheck acc l.jcp)
  let early := cs.filter fun c => c.2 == .bad .space || c.2 == .bad .align
  match checkFault none early, cs.find? fun c => c.2 == .miss with
  | some x, _ => .bad x
  | none, some c => .miss c.1.addr.toNat
  | none, none => match checkFault none cs with
    | some x => .bad x
    | none => .ok

/-- Free bytes of the launch's spill area (R316, R323). -/
def State.spillFree (s : State) : Nat := s.tm.lp.spillsz - s.spillUsed s.tm.ctx

/-- The gathering line of an entry of the focused team that has room. -/
def Team.lineOf (t : Team) (e : Nat) : Option PocketLine := t.lines.find? fun l => !l.formed && l.entry == e

/-- The reserve slots of a team that no child group holds, by their numbers (R315). -/
def Team.freeReserve (t : Team) : List Nat :=
  (List.range t.resv.length).filter fun r => !(t.groups.any fun g => g.child && g.gslot == t.resv.getD r 0)

/-- A CHILD GROUP in reserve slot `r` (R313, R315): its children stand in lanes 0 up. -/
def Team.childGroup (t : Team) (r e uid : Nat) (kids : List Kid) : Group :=
  let entry := t.lp.spawns.getD e 0
  let n := kids.foldl (fun m k => max m k.payload.length) 0
  let f := { Frag.empty with mask := maskOf fun i => decide (i < kids.length), pc := entry, seen := uid - 1024,
                             pts := kids.foldl (fun (m : Nat) (k : Kid) => max m k.pts) 0 }
  let lane := fun i => match kids[i]? with
    | some k =>
      let l := { Lane.empty i with
        live := true, stk := k.payload.reverse.map Entry.plain, slots := List.replicate t.lp.frame 0,
        lcw := BitVec.ofNat 32 (t.lp.drm * 2 ^ 8), gen := genSeed t.seed (1024 + 32 * r + i), jex := some k.jex }
      l.markRegion
    | none => Lane.empty i
  { Group.empty with uid := uid, gix := 32 + r, gslot := t.resv.getD r 0, child := true, lanes := (List.range 32).map lane,
                     fr := { f with region := f.regionAt entry 0 t.lp.frame n } }

/-- A formed line leaves the pocket: its group starts in a free reserve slot, or is queued (R315). The flag says that it was queued. -/
def Team.leaveLine (t : Team) (l : PocketLine) (uid : Nat) : Team × Bool :=
  let u := { t with lines := t.lines.erase l }
  match t.freeReserve with
  | r :: _ => ({ u with gs := u.gs ++ [t.childGroup r l.entry uid l.kids] }, false)
  | [] => ({ u with queued := u.queued ++ [(l.entry, l.kids)] }, true)

/-- Whether every counter that a swapped-out group waits for reads 0 (R317), or DLCK has ended the wait (R322). -/
def State.swapReady (s : State) (t : Team) (g : Group) : Bool := g.allFrags.all fun f => f.struck.isSome || s.joinsDone t g f

/-- A free reserve slot of a team goes to the oldest swapped group that is ready, then to the oldest queued group, which starts at event `n`; none
without a slot or such a group (R317). -/
def State.startOne (s : State) (n : Nat) (t : Team) : Option Team :=
  match t.freeReserve with
  | [] => none
  | r :: _ =>
    match t.swapped.find? fun g => s.swapReady t g.2 with
    | some g => some { t with swapped := t.swapped.erase g, gs := t.gs ++ [{ g.2 with gslot := t.resv.getD r 0 }] }
    | none =>
      match t.queued with
      | (e, kids) :: rest => some { t with queued := rest, gs := t.gs ++ [t.childGroup r e (1024 + n) kids] }
      | [] => none

/-- Free reserve slots of a team go to groups that wait, one after the other, each at an event of its own after `n`; the events so far are counted. -/
def State.startAll (s : State) : Nat → Nat → Team → Team × Nat
  | 0, n, t => (t, n)
  | k + 1, n, t => match s.startOne (n + 1) t with
    | some u => s.startAll k (n + 1) u
    | none => (t, n)

/-- The lines of a core's pocket in use, gathering or formed, with the team that each belongs to (R315). -/
def State.pocketOf (s : State) (core : Nat) : List (Team × PocketLine) :=
  (s.allTeams.filter fun t => t.core == core && !t.held).flatMap fun t => t.lines.map fun l => (t, l)

/-- The line that has been in use longest. -/
def oldestLine : List (Team × PocketLine) → Option (Team × PocketLine)
  | [] => none
  | p :: ps => some (ps.foldl (fun a b => if b.2.born < a.2.born then b else a) p)

/-- The oldest formed line of a core's pocket leaves it, once the free reserve slots of its team have gone to the groups that wait (R315, R317). -/
def State.leaveOldest (s : State) (core : Nat) : State :=
  match oldestLine ((s.pocketOf core).filter fun p => p.2.formed) with
  | none => s
  | some (t, l) =>
    let r : TeamRef := { core := core, ctx := t.ctx }
    let (t1, m) := s.startAll t.resv.length s.seqNo t
    let (t2, queued) := t1.leaveLine l (1024 + (m + 1))
    let u := (State.modTeam { s with seqNo := m + 1 } r fun _ => t2).noteMaxOf r
    if queued then u.countPocket core t.ctx 8 1 else u

/-- With all 16 lines of the pocket in use, the oldest gathering one is formed, and a formed one leaves to make room (R315). -/
def State.evict (s : State) : State :=
  let core := s.tm.core
  let used := s.pocketOf core
  if used.length < 16 then s
  else
    let u := match oldestLine (used.filter fun p => !p.2.formed) with
      | none => s
      | some (t, l) => (s.modTeam { core := core, ctx := t.ctx } fun t => t.form fun x => x.born == l.born).countPocket core t.ctx 6 1
    u.leaveOldest core

/-- Accepts one child of entry `e`, or leaves the state and answers no (R315, R316). -/
def State.accept (s : State) (e : Nat) (kid : Kid) (try_ : Bool) : State × Bool :=
  match s.tm.lineOf e with
  | some l =>
    if try_ ∧ s.tm.lp.cres < s.tm.children then (s, false)
    else
      let full := decide (31 ≤ l.kids.length)
      let t := { s.tm with lines := s.tm.lines.map fun x =>
        if x.born = l.born then { x with kids := x.kids ++ [kid], formed := full } else x }
      (if full then (s.setTm t).countPocket t.core t.ctx 2 1 else s.setTm t, true)
  | none =>
    if s.spillFree < 2048 ∨ (try_ ∧ s.tm.lp.cres < s.tm.children + 1) then (s, false)
    else
      let s := s.evict
      let n := s.seqNo + 1
      let l : PocketLine := { entry := e, kids := [kid], formed := false, born := n, bornNs := s.now }
      let s := State.setTm { s with seqNo := n } { s.tm with lines := s.tm.lines ++ [l] }
      (s.noteMax, true)

/-- Accepts the children of lanes in ascending index: the state, and the lanes accepted (R312). -/
def State.acceptAll (s : State) (e n : Nat) (pts : Nat) (try_ : Bool) : List Lane → State × List Lane
  | [] => (s, [])
  | l :: ls =>
    let (s1, ok) := s.accept e { payload := valsOf n l.stk, jex := l.jcp, pts := pts } try_
    let (s2, rest) := s1.acceptAll e n pts try_ ls
    (s2, if ok then l :: rest else rest)

/-- The join counters of lanes. -/
def State.counters (s : State) (lanes : List Lane) : List Counter := lanes.filterMap fun l => s.counterAt s.ctx.fn l.jcp

/-- One atomic add for each distinct counter, all at the fragment's stamp (R312). -/
def State.addJoins (s : State) (cs : List Counter) : State :=
  let places := cs.map Counter.pa
  places.dedup.foldl (fun s pa => s.putNat 0 pa 4 (s.natAt 0 pa 4 + places.count pa)) s

/-- `spawn` (R312); `i` is the instruction itself. The children receive the fragment's pts after the adds of the accepted lanes (R70). The ILLOP of an undeclared entry is a decode fault, which ranks first (R213). -/
def spawnBody (i : Instr) (e n : Nat) (g : Guard) (try_ : Bool) (s : State) : Res :=
  if s.tm.lp.spawns.getD e 0 = 0 then .fault (s.faultAll .illop (wordOf i))
  else s.withStack (if try_ then ⟨n, 0, 0⟩ else .of n 0) .none true fun s =>
    let lanes := s.active.filter fun l => l.guard g
    match lanes.filter fun l => l.jcp == 0 with
    | z :: zs => .fault { code := .space, mask := maskOf fun i => (z :: zs).any (·.ix == i), info := 0 }
    | [] =>
      match s.checkJoins .atomic lanes with
      | .bad x => .fault x
      | .miss va => .park (.page va) (s.awaitLanes i lanes)
      | .ok =>
        let yes := (s.acceptAll e n 0 try_ lanes).2
        let cs := s.counters yes
        let t := if cs.isEmpty then s.fr.pts else (s.stampAtomics s.fr.pts s.lease cs).2
        let s1 := (s.acceptAll e n t try_ lanes).1
        let no := lanes.filter fun l => !(yes.any (·.ix == l.ix))
        if !no.isEmpty && !try_ then
          .fault { code := .spawnmem, mask := maskOf fun i => no.any (·.ix == i), info := s1.spillFree % 2 ^ 32 }
        else
          let s2 := s1.addJoins cs
          let s3 := if cs.isEmpty then s2 else let (s', t') := s2.stampAtomics s.fr.pts s.lease cs; s'.raisePts t'
          let s4 := s3.mapActive fun l => if no.any (·.ix == l.ix) then { l with preds := setPred l.preds g.p g.neg } else l
          let s5 := (s4.countPocket s.tm.core s.tm.ctx 0 yes.length).countPocket s.tm.core s.tm.ctx 1 no.length
          .ok ((if try_ then s5 else s5.popLanes n).finishRegion 4)

/-- R312. -/
def execSpawn (e : Fin 64) (n : Fin 5) (g : Guard) (s : State) : Host.Outcome State Fault Refusal :=
  laneStep 4 (spawnBody (.spawn e n g) e n g false) s

/-- R312, R316. -/
def execSpawnTry (e : Fin 64) (n : Fin 5) (g : Guard) (s : State) : Host.Outcome State Fault Refusal :=
  laneStep 4 (spawnBody (.spawnTry e n g) e n g true) s

/-- R314: forms the gathering line of an entry. -/
def execSpawnFlush (e : Fin 64) (s : State) : Host.Outcome State Fault Refusal :=
  laneStep 4 (fun s => .ok ((s.formLines 4 fun l => l.entry == e).finish 4)) s

/-- R319: forms every gathering line, once and before it waits, and waits for the join counters of the active lanes; its read is an event that
raises the fragment's pts past the decrement that reached 0. A `cwait` that faults at its addresses forms none (R213); at DLCK the lines that it
formed when it parked stay formed (DESIGN CHOICE, log entry 68: their groups may run by then). The fragment of a group that stood in a deadlock set
while it was swapped out takes DLCK here (R322; DEDUCED, log entry 18). -/
def execCwait (s : State) : Host.Outcome State Fault Refusal :=
  laneStep 4 (fun s =>
    let lanes := s.active.filter fun l => l.jcp != 0
    match s.checkJoins .load lanes with
    | .bad x => .fault x
    | .miss va => .park (.page va) (s.awaitLanes .cwait lanes)
    | .ok =>
      let formed := if s.fr.wait == .cwait then s else s.formLines 5 fun _ => true
      if let some ix := s.fr.struck then .fault (s.faultAll .dlck ix)
      else if formed.joinsDone formed.tm formed.gp formed.fr then
        let cs := formed.counters lanes
        let lines := fun (p : Counter → Bool) => ((cs.filter p).map fun c => ((0, lineOf c.pa) : LineId)).dedup
        let (s', t) := formed.stampEvent s.fr.pts s.lease (lines fun c => !c.leased) (lines fun c => c.leased) []
        .ok ((s'.handOff t).finishRegion 4)
      else .park .cwait formed) s

/-! ### The pocket's events -/

/-- Whether the pocket works for a team: it is resident and its island's clock runs (R346, R352). -/
def State.pocketRuns (s : State) (t : TeamRef) : Bool := (s.findTeam t).any fun t => !t.held && s.islandOn t.core

/-- R315, R346: the timer of an entry's gathering line expires. -/
def execPocketTimerExpire (t : TeamRef) (e : Fin 64) (s : State) : Host.Outcome State Fault Refusal :=
  if s.pocketRuns t then .next ((s.focusTeam t.core t.ctx).formLines 3 fun l => l.entry == e) else .next s

/-- R313, R315, R317: a free reserve slot goes to the oldest swapped group whose counters are 0, then to the oldest queued
group, then to the oldest formed line; with no free slot, the oldest formed line is queued. -/
def execChildGroupStart (t : TeamRef) (s : State) : Host.Outcome State Fault Refusal :=
  if !s.pocketRuns t then .next s
  else
    let u := s.focusTeam t.core t.ctx
    let tm := u.tm
    let n := u.seqNo + 1
    match u.startOne n tm with
    | some tm' => .next (State.setTm { u with seqNo := n } tm').noteMax
    | none =>
      match tm.lines.find? (·.formed) with
      | some l =>
        let (tm', queued) := tm.leaveLine l (1024 + n)
        let v := State.setTm { u with seqNo := n } tm'
        .next (if queued then v.countPocket tm.core tm.ctx 8 1 else v)
      | none => .next s

/-- A child group all of whose fragments are parked in `cwait` (R317). -/
def Group.inCwait (g : Group) : Bool := g.child && g.allFrags.all fun f => f.wait == .cwait

/-- When a group parked: its last fragment's time. -/
def Group.parkedAt (g : Group) : Nat := g.allFrags.foldl (fun t f => max t f.parkedAt) 0

/-- R317: with every reserve slot held by a group parked in `cwait` and a queued group waiting, the group parked longest is
swapped out, if the spill area has room for its record. -/
def execSwapOut (t : TeamRef) (s : State) : Host.Outcome State Fault Refusal :=
  if !s.pocketRuns t then .next s
  else
    let u := s.focusTeam t.core t.ctx
    let tm := u.tm
    let kids := tm.groups.filter Group.child
    let size := Config.swapGranules u.ticks
    match kids with
    | [] => .next s
    | g :: gs =>
      if tm.freeReserve.isEmpty ∧ kids.all Group.inCwait ∧ !tm.queued.isEmpty ∧ 4096 * size ≤ u.spillFree then
        let old := gs.foldl (fun a b => if b.parkedAt < a.parkedAt then b else a) g
        let tm := tm.focusGroup old.gslot
        .next ((u.setTm { tm with gp := Group.empty, swapped := tm.swapped ++ [(size, tm.gp.rollback)] }).countPocket tm.core tm.ctx
          9 1)
      else .next s

end Sys2Proof.Machine
end

