-- ==== Sys2Proof/Machine/Deadlock.lean ====
section
/-!
DEFINITION. The deadlock detector (R320 to R322): the blocked-state registers, who can end a wait, the largest deadlock set of a
launch, and what the detector does with it.
-/
namespace Sys2Proof.Machine

/-! ### Blocked-state registers (R320) -/

/-- KIND and OBJ of a wait, none where the wait is not recorded. -/
def waitKind : Wait → Option (Nat × Nat)
  | .none | .stall _ | .debug | .dead | .data _ | .requests _ => none
  | .ring q _ => some (1, q)
  | .queue w _ _ => some (2, w)
  | .task => some (2, 0)
  | .barrier b _ _ | .arrive b _ => some (3, b)
  | .count _ _ _ _ | .cwait | .svc _ _ | .reply _ | .fence _ => some (4, 0)
  | .seam j => some (5, j)
  | .xlane _ => some (5, 0x400)
  | .acq n => some (6, n)
  | .xslot x _ => some (6, x)
  | .mstart => some (6, 0)
  | .page _ | .fetch _ | .presence _ => some (7, 0)

/-- The register's layout. -/
def blockedWord (kind obj age : Nat) : Half := BitVec.ofNat 32 (2 ^ 31 + kind * 2 ^ 27 + obj * 2 ^ 16 + age)

/-- A thousand times the cycles of an island between two times, by the changes of its clock; it starts at A3, 1,700 MHz (R353). -/
def paceCycles (since now : Nat) : List (Nat × Nat) → Nat
  | [] => (now - since) * 1700
  | (t, mhz) :: rest => (now - max t since) * mhz + if since < t then paceCycles since t rest else 0

/-- Cycles ÷ 256 of a core's island since a time, saturating: AGE (R320, R346; log entry 17). -/
def State.ageOf (s : State) (core since : Nat) : Nat :=
  min 65535 (paceCycles since s.now (s.islandAt (islandOf core)).pace / 1000 / 256)

/-- The live fragment of a group that has been parked longest. -/
def Group.oldest (g : Group) : Option Frag :=
  match g.allFrags with
  | [] => none
  | f :: fs => some (fs.foldl (fun a b => if b.parkedAt < a.parkedAt then b else a) f)

/-- The blocked-state register of a group: every live fragment waits (R320). -/
def State.blockedReg (s : State) (t : Team) (g : Group) : Half :=
  let fs := g.allFrags
  match g.oldest.bind fun f => waitKind f.wait with
  | some k =>
    if fs.all fun f => (waitKind f.wait).isSome then
      blockedWord k.1 k.2 (s.ageOf t.core (fs.foldl (fun a f => max a f.parkedNs) g.blkAt))
    else 0
  | none => 0

/-- The ring whose slot the sequencer's operation waits for (R260, R274). -/
def Team.seqRing (t : Team) : Option Nat :=
  match t.seq.st with
  | .wres (.mma x) =>
    if x.bq && !(t.seq.held.any fun h => h.1 == x.b.val) && ((t.rings.getD x.b Ring.empty).drain.isSome ||
      (t.rings.getD x.b Ring.empty).queue.isEmpty) then some x.b else none
  | _ => none

/-- KIND and OBJ of the wait of a team's sequencer, none where it is not recorded (R274, R320). -/
def State.seqKind (s : State) (t : Team) : Option (Nat × Nat) :=
  match t.seq.st with
  | .wbar b _ _ => some (3, b)
  | .wtok n => some (6, n)
  | .wres _ => match t.seqRing with
    | some q => some (1, q)
    | none => if s.opPages t then some (7, 0) else none
  | _ => none

/-- The blocked-state register of a sequencer context (R274, R320). -/
def State.seqReg (s : State) (t : Team) : Half :=
  match s.seqKind t with
  | some k => blockedWord k.1 k.2 (s.ageOf t.core t.seq.waitNs)
  | none => 0

/-! ### Agents -/

/-- Who can end a wait: a group, a team's sequencer, or the `n`-th queued or swapped-out group of a team. -/
inductive Agent where
  | group (t : TeamRef) (uid : Nat)
  | seq (t : TeamRef)
  | queued (t : TeamRef) (n : Nat)
  | swapped (t : TeamRef) (n : Nat)
  deriving DecidableEq, Repr

/-- The name of a team. -/
def Team.ref (t : Team) : TeamRef := { core := t.core, ctx := t.ctx }

/-- The groups of a team that hold a slot, as agents, and its queued and swapped-out ones. -/
def Team.groupAgents (t : Team) : List Agent := t.groups.map fun g => .group t.ref g.uid
def Team.waiting (t : Team) : List Agent :=
  (List.range t.queued.length).map (.queued t.ref ·) ++ (List.range t.swapped.length).map (.swapped t.ref ·)

/-- Every group of a team that can end a wait of another; none while the pocket holds children that are yet to form one (R315, R321). -/
def Team.enders (t : Team) : Option (List Agent) := if t.lines.isEmpty then some (t.groupAgents ++ t.waiting) else none

/-- The group of a team with a name. -/
def Team.agentOfUid (t : Team) (u : Nat) : Agent :=
  match t.swapped.findIdx? fun g => g.2.uid == u with
  | some n => .swapped t.ref n
  | none => .group t.ref u

/-- The participants that have not arrived in the current phase of a barrier (R181). -/
def Team.missing (t : Team) (n : Nat) : List Agent :=
  let b := t.barAt n
  (((List.range b.groups).filter fun i => !t.hasArrived b i).filterMap fun i => (t.groupAt i).map fun g => .group t.ref g.uid) ++
    if b.plusM && !b.seqArr then [.seq t.ref] else []

/-- The participants of a barrier. -/
def Team.barAgents (t : Team) (n : Nat) : List Agent :=
  let b := t.barAt n
  ((List.range b.groups).filterMap fun i => (t.groupAt i).map fun g => .group t.ref g.uid) ++ if b.plusM then [.seq t.ref] else []

/-- Who can complete gang phase `p` of barrier `n` for a team; none where it is complete (R184). -/
def State.gangAgents (s : State) (t : Team) (n p : Nat) : Option (List Agent) :=
  let k := s.ctxs.getD t.ctx LaunchCtx.empty
  let members := (k.map.map (·.1)).filter fun v => gangLevel k.lp v == gangLevel k.lp t.vcore
  match members.filter fun v => (s.gangPts t.ctx v n p).isNone with
  | [] => none
  | vs => some (vs.flatMap fun v => match s.allTeams.find? fun u => u.ctx == t.ctx && u.vcore == v with
    | some u =>
      let q := (u.barAt n).phase
      if q < p then u.barAgents n else if q = p then u.missing n else []
    | none => [])

/-- Whether a subscription or drain of a ring can move on by itself (R295). -/
def Ring.moves (r : Ring) : Bool :=
  (match r.sub with
    | some d => !d.busy.isEmpty || (d.wants && r.st.contains .free)
    | none => false) ||
  match r.drain with
    | some d => !d.busy.isEmpty || !r.queue.isEmpty
    | none => false

/-- The counters that a fragment waits for in `cwait`, as physical addresses (R319). -/
def State.waitedFor (s : State) (t : Team) (g : Group) (f : Frag) : List Nat :=
  let fn := (s.ctxs.getD t.ctx LaunchCtx.empty).fn
  (g.lanes.filter fun l => inMask f.mask l.ix && l.jcp != 0).filterMap fun l =>
    (s.physOf fn l.jcp.toNat).filter fun pa => s.natAt 0 pa 4 != 0

/-- The child lanes of a launch that will decrement one of the counters `pas`; none where a gathering line holds one (R321). -/
def State.counterAgents (s : State) (ctx : Nat) (pas : List Nat) : Option (List Agent) :=
  let fn := (s.ctxs.getD ctx LaunchCtx.empty).fn
  let hits := fun (a : Word) => match s.physOf fn a.toNat with
    | some pa => pas.contains pa
    | none => false
  let inGroup := fun (g : Group) => g.lanes.any fun l => match l.jex with
    | some a => hits a
    | none => false
  let ts := s.allTeams.filter fun t => t.ctx == ctx
  if ts.any fun t => t.lines.any fun l => l.kids.any fun k => hits k.jex then none
  else some (ts.flatMap fun t =>
    ((t.groups.filter inGroup).map fun g => .group t.ref g.uid) ++
      ((t.queued.zipIdx.filter fun q => q.1.2.any fun k => hits k.jex).map fun q => .queued t.ref q.2) ++
      ((t.swapped.zipIdx.filter fun q => inGroup q.1.2).map fun q => .swapped t.ref q.2))

/-- Joins who can end several waits. -/
def joinAgents : List (Option (List Agent)) → Option (List Agent)
  | [] => some []
  | none :: _ => none
  | some a :: rest => (joinAgents rest).map fun b => a ++ b

/-- Who can end a fragment's wait (R321); none where the wait always ends or something outside the launch can end it. -/
def State.fragAgents (s : State) (t : Team) (g : Group) (f : Frag) : Option (List Agent) :=
  match f.wait with
  | .none | .stall _ | .debug | .dead | .count _ _ _ _ | .svc _ _ | .reply _ | .fence _ | .page _ | .fetch _ | .data _ | .requests _
  | .presence _ => none
  | .seam _ | .xlane _ => some []
  | .barrier b p _ => if p < (t.barAt b).phase then s.gangAgents t b p else some (t.missing b)
  | .arrive b _ => some (t.missing b)
  | .acq n => some (.seq t.ref :: match (t.acc.getD n AccSlot.empty).tok with
    | .lane h => [t.agentOfUid h]
    | _ => [])
  | .mstart => some [.seq t.ref]
  | .xslot _ _ => t.enders.map fun as => .seq t.ref :: as
  | .ring q _ => if (t.rings.getD q Ring.empty).moves then none else t.enders.map fun as => .seq t.ref :: as
  | .queue _ _ _ => joinAgents ((s.allTeams.filter fun u => u.ctx == t.ctx && u.home == t.home).map Team.enders)
  | .task =>
    if s.poolOps.any fun o => o.ctx == t.ctx then none
    else joinAgents ((s.allTeams.filter fun u => u.ctx == t.ctx).map Team.enders)
  | .cwait => s.counterAgents t.ctx (s.waitedFor t g f)

/-- Whether R98 releases a group, none of whose fragments is in a handler (R216). -/
def Group.lostNow (g : Group) : Bool :=
  (g.allFrags.all fun f => f.trap.isNone && match f.wait with
    | .seam _ => true
    | _ => false) && g.seams.any fun x => x.st == .part

/-- Who can end the waits of a blocked group; none where it is not blocked, or an agent outside can end one. -/
def State.groupWaits (s : State) (t : Team) (g : Group) : Option (List Agent) :=
  if g.lostNow || g.allFrags.any (fun f => s.wakes t g f) then none
  else joinAgents (g.allFrags.map fun f => s.fragAgents t g f)

/-- Who can end the wait of a team's sequencer. A halted one ends no wait until a group of its team starts it (R207, R231; DEDUCED, log
entry 18): it can end one exactly when such a group can. -/
def State.seqWaits (_s : State) (t : Team) : Option (List Agent) :=
  match t.seq.st with
  | .halted | .fault => t.enders
  | .run => none
  | .wbar b p _ => if p < (t.barAt b).phase then none else some (t.missing b)
  | .wtok n => match (t.acc.getD n AccSlot.empty).tok with
    | .given => t.enders
    | .lane h => some [t.agentOfUid h]
    | _ => none
  | .wres _ => match t.seqRing with
    | some q => if (t.rings.getD q Ring.empty).moves then none else t.enders
    | none => none

/-- Who can give a reserve slot to a queued or ready group (R315, R317); none where the pocket can. -/
def State.slotAgents (s : State) (t : Team) : Option (List Agent) :=
  let kids := t.groups.filter Group.child
  let room := 4096 * Config.swapGranules s.ticks + s.spillUsed t.ctx ≤ t.lp.spillsz
  if !t.freeReserve.isEmpty || (kids.all Group.inCwait && !t.queued.isEmpty && room) then none
  else some (kids.map fun g => .group t.ref g.uid)

/-- Who can end the waits of an agent. -/
def State.waitsOf (s : State) (a : Agent) : Option (List Agent) :=
  let team := fun (r : TeamRef) (f : Team → Option (List Agent)) => match s.findTeam r with
    | some t => if s.islandOn t.core && !t.held then f t else none
    | none => none
  match a with
  | .group r u => team r fun t => (t.groups.find? fun g => g.uid == u).bind fun g => s.groupWaits t g
  | .seq r => team r s.seqWaits
  | .queued r _ => team r s.slotAgents
  | .swapped r n => team r fun t => (t.swapped[n]?).bind fun g =>
      if s.swapReady t g.2 then s.slotAgents t
      else joinAgents (g.2.allFrags.map fun f => s.counterAgents t.ctx (s.waitedFor t g.2 f))

/-! ### The largest deadlock set (R321) -/

/-- Drops the agents that one outside `as` can wake. -/
def State.closed (s : State) (as : List Agent) : List Agent :=
  as.filter fun a => match s.waitsOf a with
    | some ws => ws.all as.contains
    | none => false

/-- Drops until nothing more is dropped; `n` bounds the rounds. -/
def State.shrinkSet (s : State) : Nat → List Agent → List Agent
  | 0, as => as
  | n + 1, as => s.shrinkSet n (s.closed as)

/-- Whether an agent is a member of a deadlock: a halted sequencer is not blocked. -/
def State.blockedAgent (s : State) (a : Agent) : Bool :=
  match a with
  | .seq r => (s.findTeam r).any fun t => t.seq.st != .halted && t.seq.st != .fault
  | _ => true

/-- The largest deadlock set of a launch. -/
def State.deadSet (s : State) (ctx : Nat) : List Agent :=
  let all := (s.allTeams.filter fun t => t.ctx == ctx).flatMap fun t =>
    t.groupAgents ++ [.seq t.ref] ++ t.waiting
  (s.shrinkSet all.length all).filter s.blockedAgent

/-! ### The record and DLCK (R322) -/

/-- A member's agent number, KIND and OBJ (R69, R320; log entry 18). -/
def State.memberOf (s : State) (a : Agent) : Nat × Nat × Nat :=
  match a with
  | .group r u => match (s.findTeam r).bind fun t => (t.groups.find? fun g => g.uid == u) with
    | some g =>
      let f := g.oldest.getD Frag.empty
      let k := (waitKind f.wait).getD (0, 0)
      ((agentOf { core := r.core, gslot := g.gslot, lane := lowestLane f.mask }).toNat, k.1, k.2)
    | none => (0, 0, 0)
  | .seq r =>
    let k := ((s.findTeam r).bind s.seqKind).getD (0, 0)
    ((engineAgent (matrixEngine r.core)).toNat, k.1, k.2)
  | .queued r _ | .swapped r _ => (r.core * 2 ^ 18, 4, 0)

/-- The record: code, launch, member count, up to 32 members, and whether some were left out. -/
def State.deadRecord (s : State) (ctx : Nat) (as : List Agent) : List Byte :=
  toBytes 1 (codeNum .dlck) ++ toBytes 1 ctx ++ toBytes 2 (bit (decide (32 < as.length))) ++ toBytes 4 as.length ++
    (as.take 32).flatMap fun a =>
      let m := s.memberOf a
      toBytes 4 m.1 ++ toBytes 2 m.2.1 ++ toBytes 2 m.2.2

/-- The address after the instruction at which the focused fragment is parked (R209). -/
def State.parkedNext (s : State) : Word :=
  match s.physOf s.ctx.fn s.fr.pc.toNat with
  | some pa => s.fr.pc + BitVec.ofNat 64 (laneLength (s.natAt 0 pa 2) / 8)
  | none => s.fr.pc + 2

/-- A fragment that waits at a `mend` and faults there has not arrived (R213). -/
def State.unmend (s : State) : State :=
  match s.fr.wait with
  | .seam j => s.setGp (s.gp.setSeam j { s.gp.seamAt j with arrived := (s.gp.seamAt j).arrived &&& ~~~s.fr.mask })
  | _ => s

/-- DLCK in a parked fragment. -/
def State.raiseDead (s : State) (ix : Nat) (r : FragRef) : State :=
  let u := (s.focusRef r).unmend
  u.raise (u.faultAll .dlck ix) u.fr.pc u.parkedNext

/-- DLCK of a swapped-out group in the set: it awaits the group's fragments at the `cwait` that they execute again when they run, which takes the
group out of its wait; with no handler that could take it the launch ends at once (R209, R317, R322; DEDUCED, log entry 18). -/
def State.strike (ix : Nat) (s : State) (a : Agent) : State :=
  match a with
  | .swapped r n => match (s.findTeam r).bind fun t => (t.swapped[n]?).map fun g => (t, g.2) with
    | some (t, g) =>
      if t.lp.trap != 0 && g.allFrags.all fun f => f.trap.isNone then
        s.modTeam r fun t => { t with swapped := t.swapped.modify n fun x =>
          (x.1, x.2.mapFrags fun f => if f.mask = 0 then f else { f with struck := some ix }) }
      else
        let e := laneEngine r.core
        let f := g.oldest.getD Frag.empty
        (s.dump r.ctx e g.tcb (laneRecord { code := .dlck, mask := f.mask, info := ix } e f.pc)).fatal r.ctx
          (s.fatalFault (codeNum .dlck) e (lanePlace { core := r.core, gslot := g.gslot, lane := lowestLane f.mask }) 0)
    | none => s
  | _ => s

/-- The parked fragments of a group in the set. -/
def State.deadFrags (s : State) (a : Agent) : List FragRef :=
  match a with
  | .group r u => match (s.findTeam r).bind fun t => (t.groups.find? fun g => g.uid == u) with
    | some g => g.allFrags.map fun f => { core := r.core, gslot := g.gslot, lane := lowestLane f.mask }
    | none => []
  | _ => []

/-- DLCK of a sequencer in the set (R245). -/
def State.deadSeq (s : State) (a : Agent) : State :=
  match a with
  | .seq r =>
    let u := s.focusTeam r.core r.ctx
    let w := match u.physOf u.ctx.fn u.seq.mpc.toNat with
      | some pa => u.natAt 0 pa 8
      | none => 0
    u.seqFault .dlck 0 w
  | _ => s

/-- The unit whose identity the record carries: the work engine of the lowest core of a member (R23, R356; log entry 18). -/
def deadUnit (as : List Agent) : Nat :=
  let core := fun (a : Agent) => match a with | .group r _ | .seq r | .queued r _ | .swapped r _ => r.core
  match as with
  | [] => poolEngine
  | a :: rest => let c := rest.foldl (fun m b => min m (core b)) (core a); engineId 3 (dieOf c) (256 + c % 144)

/-- R320 to R322: the detector checks a launch. The members stand in ascending agent number (log entry 18). -/
def execDeadlockCheck (ctx : Fin 8) (s : State) : Host.Outcome State Fault Refusal :=
  let k := s.ctxs.getD ctx LaunchCtx.empty
  let as := (s.deadSet ctx).mergeSort fun a b => decide ((s.memberOf a).1 ≤ (s.memberOf b).1)
  if k.phase ≠ .running ∨ s.stopped ∨ as.isEmpty then .next s
  else
    let ix := k.deadN
    let u := (s.dump ctx (deadUnit as) 0 (s.deadRecord ctx as)).modCtx ctx fun k => { k with deadN := k.deadN + 1 }
    let v := (as.flatMap s.deadFrags).foldl (fun s r => s.raiseDead ix r) u
    .next (as.foldl State.deadSeq (as.foldl (State.strike ix) v))

end Sys2Proof.Machine
end

