-- ==== Sys2Proof/Machine/Debug.lean ====
section
/-!
DEFINITION. Trace, stops, steps, breakpoints, snapshots, causal experiments (R356 to R365), and writes to the registers that have no
behaviour of their own (R6).
-/
namespace Sys2Proof.Machine

/-! ### Trace (R356, R357) -/

/-- Whether the next trace record waits: for a self-test of its line (R373), or, bound for a page in device bias, for the records before it that are
on their way to pages in host bias, since WPTR passes them in order (R358). -/
def State.recordHeld (s : State) : Bool :=
  s.underTest (0, lineOf s.recordPa) || (!s.hostBias.contains (s.recordPa / 4096) && s.recordsPosted != 0)

/-- R356, R357: a record that has reached the trace unit is written, or dropped. -/
def execTraceRecordWrite (r : TraceRec) (s : State) : Host.Outcome State Fault Refusal :=
  match s.traceq.find? fun x => x.2 == r with
  | some x => if s.recordHeld then .next s else .next (State.trace1 { s with traceq := s.traceq.erase x } x.1 r)
  | none => .next s

/-! ### System stops (R359) -/

/-- The teams that are resident. -/
def State.teamRefs (s : State) : List TeamRef := s.allTeams.map Team.ref

/-- R359: a stop closes fetch at once; when the commands that have started are complete, every team is pre-empted as soon as it can be, and once
all are saved the module stands stopped. -/
def execSystemStop (s : State) : Host.Outcome State Fault Refusal :=
  if s.stopped ∧ s.stepping.isNone then .next s
  else
    let s := { s with stopReq := true }
    if !s.commandsOver then .next s
    else
      let s := s.preemptAll s.teamRefs
      .next (if s.allHeld s.teamRefs then { s with stopReq := false, stopped := true, stepping := none } else s)

/-- R359: a resume restores every team but those of gated dies (R354), and reopens fetch. -/
def execSystemResume (s : State) : Host.Outcome State Fault Refusal :=
  if s.stopped ∧ s.stepping.isNone ∧ !s.stopReq then
    let rs := s.teamRefs.filter fun r => !s.gated.contains (dieOf r.core)
    .next (State.restoreAll { s with stopped := false } rs)
  else .next s

/-! ### Single-stepping (R360) -/

/-- R360: a stopped team is restored and runs until phase `p` of barrier `b` completes. -/
def execSingleStep (t : TeamRef) (b : Fin 16) (p : Nat) (s : State) : Host.Outcome State Fault Refusal :=
  match s.findTeam t with
  | some x =>
    if s.stopped ∧ s.stepping.isNone ∧ x.held ∧ !s.gated.contains (dieOf t.core) then
      let past := decide (p < (x.barAt b).phase)
      let k : Stepping := { team := t, bar := b, phase := p, doneAt := if past then some s.seqNo else none
                            seqHeld := past && x.seq.stopped }
      let u := s.restore t
      let u := if past then u.modTeam t fun t => t.mapGroups fun g => g.mapFrags fun f => { f with held := true } else u
      .next { u with stepping := some k }
    else .next s
  | none => .next s

/-- Whether a team has stopped after the phase of its step (R360). -/
def State.stepOver (s : State) (k : Stepping) (t : Team) : Bool :=
  k.doneAt.isSome && (k.seqHeld || t.seq.stopped) && s.canPreempt t &&
    t.groups.all fun g => g.allFrags.all fun f => f.held || f.wait == .debug || f.wait == .dead

/-- R360: the team has stopped and is saved. -/
def execStepComplete (s : State) : Host.Outcome State Fault Refusal :=
  match s.stepping with
  | some k => match s.findTeam k.team with
    | some t => if s.stepOver k t then .next { s.preempt k.team with stepping := none } else .next s
    | none => .next { s with stepping := none }
  | none => .next s

/-- Whether a team's sequencer is stopped with no operation in flight: it has halted, or the debugger has stopped it (R361). -/
def State.seqStopped (s : State) (t : Team) : Bool :=
  t.seq.flight.isNone && (t.seq.st == .halted || t.seq.st == .fault || (t.held && s.stopped) || s.seqHeld t)

/-- R361: the contents of an accumulator slot, or BUSY. -/
def execDebugAccRead (t : TeamRef) (a : Fin 16) (s : State) : Host.Outcome State Fault Refusal :=
  let reply := match s.findTeam t with
    | some x =>
      let slot := x.acc.getD a AccSlot.empty
      if a.val < x.acc.length ∧ (slot.tok ≠ .mat ∨ s.seqStopped x) then DebugReply.tile slot.tile else .busy
    | none => .busy
  .next { s with dbgReply := reply }

/-- What the debugger reads in memory: the bytes as they stand, outside the global order (R358). -/
def State.debugRead (s : State) (sp key n : Nat) : List Byte := s.bytesAt sp key n

/-! ### Breakpoints (R362, R363) -/

/-- R362: an enabled breakpoint raises BRK before the instruction issues. -/
def execBreakpoint (f : FragRef) (s : State) : Host.Outcome State Fault Refusal :=
  let u := s.focusRef f
  if s.hasFrag f ∧ u.atBreakpoint then .next (u.raise (u.faultAll .brk 0) u.fr.pc u.parkedNext) else .next s

/-- R363: the debugger resumes a stopped fragment with the effect of `tret 0` or `tret 1`; after a breakpoint `tret 0` issues the instruction once
without matching it. -/
def execDebugResume (f : FragRef) (next : Bool) (s : State) : Host.Outcome State Fault Refusal :=
  let u := s.focusRef f
  if s.hasFrag f ∧ u.fr.wait = .debug then
    if next then
      let r := u.trapRecord u.parkedNext
      let v := u.settleReplay r
      .next (v.setFr ({ v.fr.unwait with rc := 0 }.goOn false r.next))
    else
      let again := (u.fr.replay.filter Replay.entry).map Replay.rerun
      .next (u.setFr { u.fr.unwait with replay := again, skipBp := u.fr.fcode == BitVec.ofNat 32 (codeNum .brk) })
  else .next s

/-! ### Snapshots (R364) -/

/-- The blocked-state registers of every group slot that holds a live group, and, numbered from 96 on by context, those of the sequencer contexts
(R320). -/
def State.blockedRegs (s : State) : List (Nat × Nat × Half) :=
  s.allTeams.flatMap fun t => (t.groups.map fun g => (t.core, g.gslot, s.blockedReg t g)) ++ [(t.core, 96 + t.ctx, s.seqReg t)]

/-- The registers of an island as a snapshot latches them: one that is not ON shows those of the moment at which its clock stopped (R364). -/
def State.latchIsland (s : State) (i : Nat) : Island :=
  if (s.islandAt i).pstate = .on then s.shownIsland i else (s.frozen.lookup i).getD (s.shownIsland i)

/-- The status registers as they stand at a tick. -/
def State.latch (s : State) (tick : Nat) : Snapshot :=
  { time := tick
    islands := (List.range s.islands.length).map s.latchIsland
    blocked := s.blockedRegs
    pockets := (List.range 8).flatMap fun c => (s.ctxs.getD c LaunchCtx.empty).pcnts.map fun p => ({ core := p.1, ctx := c }, p.2)
    links := s.flinks
    sessions := s.sessions.map fun (x : Session) => (x.round, x.abort, x.nan, x.trunc, x.sat)
    queues := s.queues.map fun (q : HostQueue) => (q.head, q.tail, q.rtail)
    trace := s.trace }

/-- Whether `%time` has reached the value that triggers a snapshot (R364). -/
def State.snapReached (s : State) : Bool := s.snapTime.any fun t => decide (t ≤ s.now)

/-- Every copy is latched at a tick that has come, and the trace has its record (R356, R364). -/
def State.takeSnap (s : State) (t : Nat) : State :=
  State.note { s with snap := some (s.latch t), snapDue := none }
    { engine := BitVec.ofNat 16 (engineId 5 4 (Config.writerCore s.ticks).val), kind := 11, queue := 0xFF, seq := 0, tcb := 0, data := 0 }

/-- The copies are latched as soon as the tick that a trigger waits for has come, before anything else changes (R364). -/
def State.snapAtTick (s : State) : State :=
  match s.snapDue with
  | some t => if t ≤ s.now then s.takeSnap t else s
  | none => s

/-- R364: a trigger, the debugger's or that of `%time`, takes effect at the first tick that follows it. -/
def execSnapshotTrigger (s : State) : Host.Outcome State Fault Refusal :=
  match s.snapDue with
  | some t =>
    if t ≤ s.now then .next (s.takeSnap t)
    else .next (if s.snapReached then { s with snapTime := none } else s)
  | none =>
    .next { s with
      snapDue := some (nextTick (if s.snapReached then s.snapTime.getD s.now else s.now))
      snapTime := if s.snapReached then none else s.snapTime }

/-! ### Causal experiments (R365) -/

/-- R365: an experiment starts; each core's debt and delay count are cleared. -/
def execCausalExperimentStart (ctx : Fin 8) (lo hi : Word) (f : Nat) (s : State) : Host.Outcome State Fault Refusal :=
  if f ≤ 256 then .next (s.modCtx ctx fun k => { k with causal := some { lo := lo, hi := hi, f := f, cycles := [], debts := [], cdly := [] } })
  else .next s

/-- One cycle of delay paid. -/
def Causal.pay (c : Causal) (core : Nat) : Causal :=
  if 256 ≤ countOf core c.debts then
    { c with debts := setCount core (countOf core c.debts - 256) c.debts, cdly := setCount core (countOf core c.cdly + 1) c.cdly }
  else c

/-- R365: a core whose debt has reached 256 delays its fragments outside the range by one cycle. -/
def execCausalDelay (ctx : Fin 8) (core : Nat) (s : State) : Host.Outcome State Fault Refusal :=
  let pays := fun (c : Causal) => c.pay core
  .next (s.modCtx ctx fun k => { k with causal := k.causal.map pays })

/-- R365: the experiment ends and every debt is cleared; the delay counts stay to be read. -/
def execCausalExperimentEnd (ctx : Fin 8) (s : State) : Host.Outcome State Fault Refusal :=
  let ends := fun (c : Causal) => { c with lo := 0, hi := 0, f := 0, cycles := [], debts := [] }
  .next (s.modCtx ctx fun k => { k with causal := k.causal.map ends })

/-! ### Register writes (R6) -/

/-- Bits that a write of ones clears (W1C). -/
def w1c {n : Nat} (old v : BitVec n) : BitVec n := old &&& ~~~v

/-- A queue's EN and LOG2: an invalid LOG2 keeps EN at 0, and RHEAD is cleared when EN goes from 0 to 1 (R338). -/
def HostQueue.control (h : HostQueue) (v : Word) : HostQueue :=
  let log2 := v.setWidth 4
  let en := v.getLsbD 4 && decide (4 ≤ log2.toNat) && decide (log2.toNat ≤ 12)
  { h with log2 := log2, en := en, rhead := if en && !h.en then 0 else h.rhead }

/-- The host link of a function (R325). -/
def State.linkOfFn (s : State) (fn : Nat) : Nat := if fn < 32 then s.fnLink.getD fn 0 else fn - 32

/-- Whether a write of SROUTE is accepted: with GRANT set, only for a context that holds a launch of the functions of the writer's link (R343);
Tison's own, for any launch. -/
def State.grantable (s : State) (w : Writer) (v : Word) : Bool :=
  let k := s.ctxs.getD (field v.toNat 7 5) LaunchCtx.empty
  !v.getLsbD 8 || (k.phase != .free && match w with
    | .pf l => s.linkOfFn k.fn == l.val
    | _ => true)

/-- SSTAT's flags after a write of ones. -/
def Session.clearStat (x : Session) (v : Word) : Session :=
  { x with sat := x.sat && !v.getLsbD 0, trunc := x.trunc && !v.getLsbD 1, nan := x.nan && !v.getLsbD 2, abort := x.abort && !v.getLsbD 3 }

/-- A fabric link's status after a write of ones. -/
def FabricLink.clearStat (x : FabricLink) (v : Word) : FabricLink :=
  { x with retry := w1c x.retry ((v >>> 16).setWidth 8), crcerr := x.crcerr && !v.getLsbD 3 }

/-- An island's status after a write of ones. -/
def Island.clearStat (x : Island) (v : Word) : Island :=
  { x with seqerr := x.seqerr && !v.getLsbD 10, ockill := x.ockill && !v.getLsbD 9 }

/-- TCTL: an invalid ring size keeps EN at 0, and the bits of reserved kinds are ignored (R5, R357). -/
def Trace.control (t : Trace) (v : Word) : Trace :=
  { t with kinds := (v >>> 12).setWidth 20 &&& 0x7FF00, en := v.getLsbD 0 && decide (12 ≤ t.log2.toNat) && decide (t.log2.toNat ≤ 30) }

/-- TSIZE. -/
def Trace.size (t : Trace) (v : Word) : Trace :=
  let n : BitVec 5 := v.setWidth 5
  { t with log2 := n, en := t.en && decide (12 ≤ n.toNat) && decide (n.toNat ≤ 30) }

/-- Whether a writer reaches a register: the physical functions configure the queues (R338) and have the session registers (R343), the debug
interface lies behind them and Tison (R356), and the island and link registers lie in Tison space (R329, R353); Tison reaches all of them (DEDUCED, log
entry 77). -/
def reaches (w : Writer) (r : RegId) : Bool :=
  match w, r with
  | .vf _, _ => false
  | .tison, _ => true
  | .pf _, .istat _ => false
  | .pf _, _ => true

/-- The function that owns a queue, as configured: 0 to 31, or a physical function as 32 or 33; each owns up to two queues (R338). -/
def State.giveQueue (s : State) (q : Fin 64) (v : Word) : State :=
  if 34 ≤ v.toNat ∨ 2 ≤ (s.queues.zipIdx.filter fun x => x.2 != q.val && x.1.fn == v.toNat).length then s
  else s.modQueue q fun h => if h.en then h else { h with fn := v.toNat }

/-- What lies at an offset of BAR0: the register pages of the queues, 4 KB each (R338), and the sessions' windows, 64 bytes each (R343), in which the
registers stand in the order of R330's table, 4 bytes each (DESIGN CHOICE, log entry 77). -/
inductive BarReg where
  | named (r : RegId)
  | tail (q : Fin 64) | head (q : Fin 64) | rtail (q : Fin 64) | rhead (q : Fin 64)
  | sctl (n : Fin 64)
  deriving DecidableEq, Repr

/-- The register at an offset of BAR0. -/
def barReg (off : Nat) : Option BarReg :=
  if off < 0x4_0000 then
    let q := Fin.ofNat 64 (off / 4096)
    match off % 4096 with
    | 0x00 => some (.named (.queueCbase q))
    | 0x08 => some (.named (.queueRbase q))
    | 0x10 => some (.named (.queueCtl q))
    | 0x18 => some (.tail q)
    | 0x1C => some (.head q)
    | 0x20 => some (.rtail q)
    | 0x24 => some (.rhead q)
    | _ => none
  else if off < 0x4_1000 then
    let n := Fin.ofNat 64 (off % 0x1000 / 64)
    match off % 64 with
    | 0x00 => some (.sctl n)
    | 0x04 => some (.named (.scnt n))
    | 0x08 => some (.named (.sroute n))
    | 0x0C => some (.named (.stime n))
    | 0x10 => some (.named (.sstat n))
    | _ => none
  else none

/-- What a queue's control register, and RHEAD with OVR, read (R338). -/
def HostQueue.ctlWord (h : HostQueue) : Nat := bit h.en * 2 ^ 4 + h.log2.toNat
def HostQueue.rheadWord (h : HostQueue) : Nat := h.rhead.toNat * 2 ^ 16 + bit h.ovr

/-- SSTAT as it reads (R330). -/
def Session.statWord (x : Session) : Nat := x.round.toNat * 2 ^ 16 + bit x.abort * 8 + bit x.nan * 4 + bit x.trunc * 2 + bit x.sat

/-- What a function reads at an offset of BAR0: a queue's registers where it is the physical function or owns the queue (R338), and, as a physical
function, the sessions' (R343); reserved bits, other offsets and other functions read 0 (R5; DESIGN CHOICE, log entry 77). -/
def State.bar0Word (s : State) (w : Writer) (off : Nat) : Nat :=
  let queue := fun (q : Fin 64) (f : HostQueue → Nat) => match w with
    | .vf _ => if (s.queueAt q).ownedBy w then f (s.queueAt q) else 0
    | _ => f (s.queueAt q)
  let session := fun (n : Fin 64) (f : Session → Nat) => if reachesSessions w then f (s.session n) else 0
  match barReg off with
  | some (.named (.queueCbase q)) => queue q fun h => h.cbase.toNat
  | some (.named (.queueRbase q)) => queue q fun h => h.rbase.toNat
  | some (.named (.queueCtl q)) => queue q HostQueue.ctlWord
  | some (.tail q) => queue q fun h => h.tail.toNat
  | some (.head q) => queue q fun h => h.head.toNat
  | some (.rtail q) => queue q fun h => h.rtail.toNat
  | some (.rhead q) => queue q HostQueue.rheadWord
  | some (.sctl n) => session n fun x => x.sctl.toNat
  | some (.named (.scnt n)) => session n fun x => x.scnt.toNat
  | some (.named (.sroute n)) => session n fun x => x.sroute.toNat
  | some (.named (.stime n)) => session n fun x => x.stime.toNat
  | some (.named (.sstat n)) => session n Session.statWord
  | _ => 0

/-- The state after a row, which always answers one here. -/
def nextOf (s : State) (o : Host.Outcome State Fault Refusal) : State :=
  match o with
  | .next t => t
  | _ => s

/-- A register without a behaviour of its own takes a value from a writer; reserved and read-only bits ignore it (R5, R6). -/
def State.setReg (s : State) (w : Writer) (r : RegId) (v : Word) : State :=
  if !reaches w r then s else match r with
    | .queueFn q => s.giveQueue q v
    | .queueCbase q => s.modQueue q fun h => { h with cbase := v >>> 12 <<< 12 }
    | .queueRbase q => s.modQueue q fun h => { h with rbase := v >>> 12 <<< 12 }
    | .queueCtl q => s.modQueue q fun h => h.control v
    | .scnt n => s.modSession n fun x => { x with scnt := lo32 v &&& 0x1FFFF }
    | .sroute n => if s.grantable w v then s.modSession n fun x => { x with sroute := lo32 v &&& 0x1FF } else s
    | .stime n => s.modSession n fun x => { x with stime := lo32 v }
    | .sstat n => s.modSession n fun x => x.clearStat v
    | .fabricStatus l => s.modFlink l fun x => x.clearStat v
    | .istat i => s.modIsland i fun x => x.clearStat v
    | .tctl => { s with trace := s.trace.control v }
    | .tbase => { s with trace := { s.trace with base := v >>> 12 <<< 12 } }
    | .tsize => { s with trace := s.trace.size v }
    | .trd => { s with trace := { s.trace with rptr := lo32 v } }
    | .tlost => { s with trace := { s.trace with lost := w1c s.trace.lost (lo32 v) } }
    | .bp c n => s.modCtx c fun k => { k with bps := k.bps.set n v }
    | .wbase c n => s.modCtx c fun k => { k with wbase := k.wbase.set n v }
    | .wctl c n => s.modCtx c fun k => { k with wctl := k.wctl.set n (lo32 v &&& 0x1F73) }
    | .attach c => s.modCtx c fun k => { k with attached := v.getLsbD 0 }
    | .snapSource => { s with snapSource := v.getLsbD 0 }
    | .snapTime => { s with snapTime := some v.toNat }
    | .bar0 _ => s

/-- A write at an offset of BAR0, once it is open: read-only registers and other offsets ignore it (R5, R338, R343, R366). -/
def State.writeBar0 (s : State) (w : Writer) (off : Nat) (v : Word) : State :=
  if !s.opened then s
  else match barReg off with
  | some (.named r) => s.setReg w r v
  | some (.tail q) => nextOf s (execDoorbell (w, q) (v.setWidth 12) s)
  | some (.rhead q) => nextOf s (execRheadWrite (w, q) (lo32 v) s)
  | some (.sctl n) => nextOf s (execSctlWrite (w, n) (lo32 v) s)
  | _ => s

/-- R6, R338, R343: a write by `x.1` to a register `x.2` without a behaviour of its own, or at an offset of BAR0. -/
def execRegisterWrite (x : Writer × RegId) (v : Word) (s : State) : Host.Outcome State Fault Refusal :=
  .next (match x.2 with
    | .bar0 off => s.writeBar0 x.1 off v
    | r => s.setReg x.1 r v)

end Sys2Proof.Machine
end

