-- ==== Sys2Proof/Machine/Stack.lean ====
section
/-!
DEFINITION. Stack manipulation, slots and literals (R133 to R137) and `sel` (R150).
-/
namespace Sys2Proof.Machine

/-- Stack manipulation of whole entries in one domain: `u` says what it needs, `f` moves. -/
def moveStep (len : Nat) (d : Bool) (u : Use) (f : State → State) (s : State) : Host.Outcome State Fault Refusal :=
  laneStep len (fun s =>
    s.withStack (if d then .none else u) (if d then u else .none) false fun s => .ok ((f s).finish len)) s

/-- R133: no effect. -/
def execNop (s : State) : Host.Outcome State Fault Refusal := laneStep 2 (fun s => .ok (s.finish 2)) s

/-- R133: ( a → a a ). -/
def execDup (d : Bool) (s : State) : Host.Outcome State Fault Refusal :=
  moveStep 2 d ⟨1, 0, 1⟩ (fun s => s.copyTop d 1 fun es => es) s

/-- R133: ( a → ). -/
def execDrop (d : Bool) (s : State) : Host.Outcome State Fault Refusal :=
  moveStep 2 d (.of 1 0) (fun s => s.rearrange d 1 0 fun _ => []) s

/-- R133: ( a b → b a ). -/
def execSwap (d : Bool) (s : State) : Host.Outcome State Fault Refusal :=
  moveStep 2 d (.of 2 2) (fun s => s.rearrange d 2 2 List.reverse) s

/-- R133: ( a b → a b a ). -/
def execOver (d : Bool) (s : State) : Host.Outcome State Fault Refusal :=
  moveStep 2 d ⟨2, 0, 1⟩ (fun s => s.copyTop d 2 fun es => es.take 1) s

/-- R133: ( a b c → b c a ). -/
def execRot (d : Bool) (s : State) : Host.Outcome State Fault Refusal :=
  moveStep 2 d (.of 3 3) (fun s => s.rearrange d 3 3 fun es => es.drop 1 ++ es.take 1) s

/-- R133: ( a b → b ). -/
def execNip (d : Bool) (s : State) : Host.Outcome State Fault Refusal :=
  moveStep 2 d (.of 2 1) (fun s => s.rearrange d 2 1 fun es => es.drop 1) s

/-- R133: pushes the depth before the instruction. -/
def execDepth (d : Bool) (s : State) : Host.Outcome State Fault Refusal :=
  moveStep 2 d (.of 0 1) (fun s =>
    let e := Entry.plain (BitVec.ofNat 64 (s.depthOf d))
    s.rearrange d 0 1 fun _ => [e]) s

/-- R133: every active lane receives its index. -/
def execLane (s : State) : Host.Outcome State Fault Refusal :=
  moveStep 2 false (.of 0 1) (fun s => s.replaceLanes 0 1 fun l => [Entry.plain (BitVec.ofNat 64 l.ix)]) s

/-- R133: the top scalar entry, with its poison mark (R222), goes to every active lane; a pending one is awaited. -/
def execS2l (s : State) : Host.Outcome State Fault Refusal :=
  laneStep 2 (fun s => s.withStack (.of 0 1) (.of 1 0) false fun s =>
    match s.pendingTop true 1 with
    | id :: ids => .park (.data (id :: ids)) s
    | [] =>
      let e := s.fr.sstk.headD (Entry.plain 0)
      .ok (((s.replaceScalar 1 []).replaceLanes 0 1 fun _ => [e]).finish 2)) s

/-- R134: pushes a copy of the entry `n` places below the top. -/
def execPick (n : BitVec 11) (d : Bool) (s : State) : Host.Outcome State Fault Refusal :=
  moveStep 6 d ⟨n.toNat + 1, 0, 1⟩ (fun s => s.copyTop d (n.toNat + 1) fun es => es.take 1) s

/-- The backing units from the one that holds the entry `n` places down up to the top of the backing area (R134). -/
def Lane.rollUnits (l : Lane) (n : Nat) : Nat :=
  let fast := l.stk.length - l.back
  if n < fast then 0 else (n - fast) / 4 + 1

/-- The entry `n` places down moved to the top, with the places of R83 unchanged (R134). -/
def rolled (n : Nat) (stk : List Entry) : List Entry := (stk.drop n).take 1 ++ stk.take n ++ stk.drop (n + 1)

/-- R134: moves the entry `n` places down to the top; the group blocks 2 cycles for each backing unit it passes. -/
def execRoll (n : BitVec 11) (d : Bool) (s : State) : Host.Outcome State Fault Refusal :=
  moveStep 6 d ⟨n.toNat + 1, n.toNat + 1, n.toNat + 1⟩ (fun s =>
    if d then s.setFr { s.fr with sstk := rolled n.toNat s.fr.sstk }
    else
      let units := (s.active.map fun l => l.rollUnits n.toNat).foldl max 0
      let s := s.mapActive fun l => { l with stk := rolled n.toNat l.stk }
      s.setGp { s.gp with dstall := s.gp.dstall + BitVec.ofNat 32 (2 * units) }) s

/-- R137: pushes a sign-extended literal. -/
def execLit (d : Bool) (imm : BitVec 26) (s : State) : Host.Outcome State Fault Refusal :=
  pureStep 4 d 0 1 (fun _ => [imm.signExtend 64]) s

/-- R137: pushes a sign-extended 32-bit literal. -/
def execLit32 (d : Bool) (imm : BitVec 32) (s : State) : Host.Outcome State Fault Refusal :=
  pureStep 6 d 0 1 (fun _ => [imm.signExtend 64]) s

/-- R137: replaces the high half of the top entry. -/
def execLith (d : Bool) (imm : BitVec 32) (s : State) : Host.Outcome State Fault Refusal :=
  pureStep 6 d 1 1 (fun ws => [join32 (lo32 (arg ws 0)) imm]) s

/-! ### Slots (R135) -/

/-- The slots that a slot instruction names. -/
def slotsOf (k : Nat) (pair : Bool) : List Nat := if pair then [k, k + 1] else [k]

/-- The value that a lane's slots hold. -/
def Lane.slotVal (l : Lane) (k : Nat) (pair : Bool) : Word :=
  if pair then join32 (l.slot k) (l.slot (k + 1)) else zx32 (l.slot k)

/-- The value that the scalar slots hold. -/
def Group.slotVal (g : Group) (k : Nat) (pair : Bool) : Word :=
  if pair then join32 (g.sslots.getD k 0) (g.sslots.getD (k + 1) 0) else zx32 (g.sslots.getD k 0)

/-- Writes a lane's slots. -/
def Lane.putSlots (l : Lane) (r : Region) (k : Nat) (pair : Bool) (v : Word) : Lane :=
  let l := l.setSlot r k (lo32 v)
  if pair then l.setSlot r (k + 1) (hi32 v) else l

/-- Writes the scalar slots. -/
def Group.putSlots (g : Group) (k : Nat) (pair : Bool) (v : Word) : Group :=
  let ss := g.sslots.set k (lo32 v)
  { g with sslots := if pair then ss.set (k + 1) (hi32 v) else ss }

/-- A slot read (R135). -/
def getStep (d : Bool) (k : Nat) (pair : Bool) (s : State) : Host.Outcome State Fault Refusal :=
  laneStep 4 (fun s =>
    let u := Use.of 0 1
    s.withStack (if d then .none else u) (if d then u else .none) false fun s =>
      match s.slotFault d pair k with
      | some x => .fault x
      | none =>
        let s := if d then s.replaceScalar 0 [Entry.plain (s.gp.slotVal k pair)]
          else s.replaceLanes 0 1 fun l =>
            [{ Entry.plain (l.slotVal k pair) with pois := (s.slotPoison l k).orElse fun _ => if pair then s.slotPoison l (k + 1) else none }]
        .ok (s.finish 4)) s

/-- A slot write that needs `reads` entries and pops `n` of them; `v` gives the value from the slot's old value and the top
entry (R135, R224). -/
def putStep (d : Bool) (k : Nat) (pair old : Bool) (reads n : Nat) (v : Word → Word → Word) (s : State) :
    Host.Outcome State Fault Refusal :=
  laneStep 4 (fun s =>
    let u : Use := ⟨reads, n, 0⟩
    let s := if d ∨ s.laneDepth < reads then s else s.logBreak n fun _ => slotsOf k pair
    s.withStack (if d then .none else u) (if d then u else .none) true fun s =>
      match (s.slotFault d pair k).orElse fun _ => if old && !d then s.slotEccu k else none with
      | some x => .fault x
      | none =>
        let s :=
          if d then
            let w := v (s.gp.slotVal k pair) (arg (s.scalarArgs 1) 0)
            (s.setGp (s.gp.putSlots k pair w)).replaceScalar n []
          else
            let r := s.fr.region
            (s.mapActive fun l => l.putSlots r k pair (v (l.slotVal k pair) (arg (valsOf 1 l.stk) 0))).popLanes n
        .ok (s.finish 4)) s

/-- R135. -/
def execGet (d : Bool) (k : BitVec 11) (s : State) : Host.Outcome State Fault Refusal := getStep d k.toNat false s

/-- R135. -/
def execSet (d : Bool) (k : BitVec 11) (s : State) : Host.Outcome State Fault Refusal :=
  putStep d k.toNat false false 1 1 (fun _ v => v) s

/-- R135. -/
def execTee (d : Bool) (k : BitVec 11) (s : State) : Host.Outcome State Fault Refusal :=
  putStep d k.toNat false false 1 0 (fun _ v => v) s

/-- R135: adds the sign-extended immediate modulo 2^32. -/
def execInc (d : Bool) (k : BitVec 11) (imm : BitVec 12) (s : State) : Host.Outcome State Fault Refusal :=
  putStep d k.toNat false true 0 0 (fun o _ => zx32 (lo32 o + imm.signExtend 32)) s

/-- R135. -/
def execGet2 (d : Bool) (k : BitVec 11) (s : State) : Host.Outcome State Fault Refusal := getStep d k.toNat true s

/-- R135. -/
def execSet2 (d : Bool) (k : BitVec 11) (s : State) : Host.Outcome State Fault Refusal :=
  putStep d k.toNat true false 1 1 (fun _ v => v) s

/-- R135. -/
def execTee2 (d : Bool) (k : BitVec 11) (s : State) : Host.Outcome State Fault Refusal :=
  putStep d k.toNat true false 1 0 (fun _ v => v) s

/-- R135. -/
def execClr (d : Bool) (k : BitVec 11) (s : State) : Host.Outcome State Fault Refusal :=
  putStep d k.toNat false false 0 0 (fun _ _ => 0) s

/-! ### Selection (R150) -/

/-- R150: the deeper entry where the guard holds, else the top one. -/
def execSel (ty : Ty) (g : Guard) (d : Bool) (s : State) : Host.Outcome State Fault Refusal :=
  laneStep 6 (fun s =>
    let u := Use.of 2 1
    let choose := fun (c : Bool) (ws : List Word) => Entry.plain (place ty (operandBits ty (arg ws (if c then 0 else 1))))
    s.withStack (if d then .none else u) (if d then u else .none) true fun s =>
      let s := if d then s.replaceScalar 2 [choose (s.fr.guard g) (s.scalarArgs 2)]
        else s.replaceLanes 2 1 fun l => [choose (l.guard g) (valsOf 2 l.stk)]
      .ok (s.finish 6)) s

end Sys2Proof.Machine
end

