-- ==== Sys2Proof/Machine/TisonOps.lean ====
section
/-!
DEFINITION. The Tison cores (R335 to R337): registers, the two kinds of address, accesses to memory, and the machine-mode trap.
-/
namespace Sys2Proof.Machine

/-- Tison core `c`. -/
def State.tisonCore (s : State) (c : Nat) : Tison := s.tison.getD c Tison.reset

/-- Changes Tison core `c`. -/
def State.modTison (s : State) (c : Nat) (f : Tison → Tison) : State := { s with tison := s.tison.modify c f }

/-- The Tison core that executes; a Tison instruction elsewhere means core 0. -/
def State.curTison (s : State) : Nat :=
  match s.cur with
  | .tison c => c
  | _ => 0

/-- A register of a Tison core; x0 reads 0. -/
def Tison.reg (t : Tison) (r : Nat) : Word := if r = 0 then 0 else t.regs.getD r 0

/-- Writes a register of a Tison core; a write to x0 is discarded (R336). -/
def Tison.setReg (t : Tison) (r : Nat) (v : Word) : Tison := if r = 0 then t else { t with regs := t.regs.set r v }

/-- Where a Tison address lies in a memory: space code and key, none where it reaches none (R335). The 256 KB of tightly coupled memory lie at the
bottom of Tison space (PRESUMED, log entry 63). -/
def State.tisonPlace (s : State) (c : Nat) (a : Word) : Option (Nat × Nat) :=
  if a.getLsbD 63 then
    if field a.toNat 62 52 = 0 ∧ s.paThere (field a.toNat 51 0) then some (0, field a.toNat 51 0) else none
  else if a.toNat < 2 ^ 18 then some (5, c * 2 ^ 32 + a.toNat)
  else none

/-- The place of `n` bytes, all of which one memory holds. -/
def State.tisonRange (s : State) (c : Nat) (a : Word) (n : Nat) : Option (Nat × Nat) :=
  match s.tisonPlace c a, s.tisonPlace c (a + BitVec.ofNat 64 (n - 1)) with
  | some p, some q => if q.2 = p.2 + (n - 1) then some p else none
  | _, _ => none

/-- The parcel of an instruction at an address (R335). -/
def State.tisonParcel (s : State) (c : Nat) (a : Word) : Option Nat := (s.tisonRange c a 2).map fun p => s.seenNat 4 p.1 p.2 2

/-- The instruction at a Tison core's pc, its bits and its bytes: two bytes where bits [1:0] are not 0b11 (R335). -/
def State.fetchTison (s : State) (c : Nat) : Option (Nat × Nat) :=
  let pc := (s.tisonCore c).pc
  match s.tisonParcel c pc with
  | some lo =>
    if lo % 4 != 3 then some (lo, 2)
    else (s.tisonParcel c (pc + 2)).map fun hi => (lo + hi * 65536, 4)
  | none => none

/-- A MACHINE-MODE TRAP (R337): mcause, mepc and mtval are written, MIE goes to MPIE, and the core goes on at the trap vector. -/
def State.tisonTrap (s : State) (c cause : Nat) (pc : Word) (tval : Nat) : State :=
  s.modTison c fun t =>
    { t with mcause := BitVec.ofNat 64 cause, mepc := pc, mtval := BitVec.ofNat 64 tval, pc := t.mtvec, asleep := false
             mstatus := if t.mstatus.getLsbD 3 then 0x80 else 0 }

/-- The end of a Tison instruction that writes `rd`. -/
def State.tisonDone (s : State) (c rd : Nat) (v : Word) : State :=
  s.modTison c fun t => { t.setReg rd v with pc := t.pc + 4, asleep := false }

/-! ### Accesses to memory (R335) -/

/-- The lines of `n` bytes at a place, where they keep stamps; accesses to the Tison memories are no events (R335). -/
def State.tisonLines (s : State) (p : Nat × Nat) (n : Nat) : List LineId :=
  if p.1 = 0 then ([(0, lineOf p.2), (0, lineOf (p.2 + (n - 1)))].dedup).filter s.keepsStamps else []

/-- Whether an access waits: its page is under a flip that the device loses, or its line is under test (R79, R373). -/
def State.tisonHeld (s : State) (p : Nat × Nat) (n : Nat) : Bool :=
  [p.2, p.2 + (n - 1)].any fun k => (p.1 == 0 && s.flipHeld k) || s.underTest (p.1, lineOf k)

/-- Whether the fetch of a core's next instruction waits so (R373). -/
def State.tisonFetchHeld (s : State) (c : Nat) : Bool :=
  [(s.tisonCore c).pc, (s.tisonCore c).pc + 2].any fun a => (s.tisonRange c a 2).any fun p => s.tisonHeld p 2

/-- The Tison core that executes next: the cores that run take turns. -/
def State.pickTison (s : State) : Option Nat :=
  ((List.range 4).map fun i => (s.ticks + i) % 4).find? fun c =>
    (s.tisonCore c).run && !(s.tisonCore c).asleep && !s.tisonFetchHeld c

/-- Whether a load finds an uncorrected error, which raises an access fault, or a link that is down (R222, R327; PRESUMED, log entry 63). -/
def State.tisonBad (s : State) (p : Nat × Nat) (n : Nat) : Bool :=
  [p.2, p.2 + (n - 1)].any fun k => s.poison.contains (p.1, lineOf k) || s.hostDead (p.1, k)

/-- Writes bytes; behind a link that is down they are dropped (R327). -/
def State.tisonWrite (s : State) (p : Nat × Nat) (bs : List Byte) : State :=
  if p.1 = 0 then s.hostWrite p.2 bs else s.putBytes p.1 p.2 bs

end Sys2Proof.Machine
end

