-- ==== Sys2Proof/Machine/Tison.lean ====
section
/-!
DEFINITION. The four instructions of the Tison cores (R335 to R337).
-/
namespace Sys2Proof.Machine

/-- The bits of the executing instruction, for mtval (R337). -/
def tisonBits (i : Instr) : Nat := wordOf i

/-- The instruction raises a firmware exception and has no other effect (R337). -/
def State.tisonFault (s : State) (i : Instr) (cause : Nat) : State :=
  s.tisonTrap s.curTison cause (s.tisonCore s.curTison).pc (tisonBits i)

/-- R336, R338: fetches the next command of a queue, whose address it gives, or 0; a system stop closes the fetch (R359). -/
def execTnRingf (rd : Fin 32) (q : Fin 64) (s : State) : Host.Outcome State Fault Refusal :=
  let h := s.queueAt q
  if !h.en then .next (s.tisonFault (.tnRingf rd q) 25)
  else if h.unfetched = 0 ∨ s.stopReq ∨ s.stopped then .next (s.tisonDone s.curTison rd 0)
  else
    .next ((s.fetchCmds q 1).tisonDone s.curTison rd (BitVec.ofNat 64 (2 ^ 63 + h.cmdPa h.head.toNat)))

/-- R336: extracts a bit field; bits above bit 63 read zero. -/
def execTnBfx (rd rs1 : Fin 32) (pos lenM1 : Fin 64) (s : State) : Host.Outcome State Fault Refusal :=
  let v := ((s.tisonCore s.curTison).reg rs1).toNat
  .next (s.tisonDone s.curTison rd (BitVec.ofNat 64 (v / 2 ^ pos.val % 2 ^ (lenM1.val + 1))))

/-- R336: waits for a signal bit, tests it with `t` = 0, or gives up after `t` µs. -/
def execTnSigw (rd rs1 : Fin 32) (t : BitVec 12) (s : State) : Host.Outcome State Fault Refusal :=
  let c := s.curTison
  let n := ((s.tisonCore c).reg rs1).toNat
  if 1024 ≤ n then .next (s.tisonFault (.tnSigw rd rs1 t) 26)
  else if s.signals.getLsbD n && !(s.waiters.any fun w => w.sig == n) then .next ((s.clearSignal n).tisonDone c rd 1)
  else if t = 0 then .next (s.tisonDone c rd 0)
  else
    .next (State.modTison { s with waiters := s.waiters ++ [.core c n rd (some (s.now + t.toNat * 1000))] } c fun x =>
      { x with asleep := true })

/-- R336: the wait of a Tison core times out. -/
def execTnSigwTimeout (core : Fin 4) (s : State) : Host.Outcome State Fault Refusal :=
  match s.waiters.find? fun w => match w with
    | .core c _ _ (some d) => c == core.val && decide (d ≤ s.now)
    | _ => false with
  | some w => .next (s.wakeWaiter w 0 0)
  | none => .next s

/-- The rectangles of clusters that a core mask is made of, corner by corner; none where it is not made of such rectangles. -/
def rectsOf (cw ch : Nat) : Nat → List Nat → Option (List Nat)
  | 0, ms => if ms.isEmpty then some [] else none
  | n + 1, ms => match ms with
    | [] => none
    | m :: _ =>
      let cs := rectCores cw ch { die := m / 144, row0 := m % 144 / 12, col0 := m % 12 }
      if cs.all ms.contains then (rectsOf cw ch n (ms.filter fun x => !cs.contains x)).map fun r => cs ++ r else none

/-- The cores of a mask in the order of `%vcore` (log entry 21). -/
def dispOrder (r : LaunchRec) (ms : List Nat) : List Nat := (rectsOf r.cw r.ch r.nclus ms).getD ms

/-- The context whose launch waits with the record at a place, if one does. -/
def State.recordCtx (s : State) (sp pa : Nat) : Option Nat :=
  (List.range 8).find? fun c =>
    let k := s.ctxs.getD c LaunchCtx.empty
    sp == 0 && k.phase == .waiting && k.copy.isNone && k.recPa == pa

/-- The launch that the record at a place belongs to: the one that waits with it, else one of the firmware's own (log entry 21). -/
def State.launchAt (s : State) (sp pa : Nat) : LaunchCtx :=
  match s.recordCtx sp pa with
  | some c => s.ctxs.getD c LaunchCtx.empty
  | none =>
    let rd := fun (off n : Nat) => s.seenNat 4 sp (pa + off) n
    { LaunchCtx.empty with queue := 64, recPa := pa, lp := recordOf rd fun off n => s.vNat 0 (rd 80 8 + off) n }

/-- The launch of a record is placed on the cores of a mask: it has its context, or claims one; a command that waits for it starts. -/
def State.dispatchTo (s : State) (sp pa : Nat) (ms : List Nat) : Option State :=
  let k := s.launchAt sp pa
  let cores := dispOrder k.lp ms
  match s.recordCtx sp pa with
  | some c => some (((s.modQueue k.queue HostQueue.started).noteCmd 1 k.queue k.seqno).placeLaunch c cores (BitVec.allOnes 32))
  | none => s.freeCtx.map fun c => (s.claimCtx k c).placeLaunch c cores (BitVec.allOnes 32)

/-- R28, R336: sends a launch record to every core of a mask, once nothing is to be taken away from them (R31) and no system stop holds the launch
(R359); the launch units reserve and the teams start. Its two reads are events (R335). -/
def execTnDisp (rs1 rs2 : Fin 32) (s : State) : Host.Outcome State Fault Refusal :=
  let c := s.curTison
  let t := s.tisonCore c
  match s.tisonRange c (t.reg rs1) 128, s.tisonRange c (t.reg rs2) 72 with
  | some p, some m =>
    let ms := (List.range 576).filter fun x => (s.seenNat 4 m.1 m.2 72).testBit x
    if !(ms.all fun x => s.coreFits (s.launchAt p.1 p.2).lp x) then .next (s.tisonFault (.tnDisp rs1 rs2) 27)
    else if !s.admits then .next s
    else match (s.tisonEvent c (s.tisonLines p 128 ++ s.tisonLines m 72).dedup []).dispatchTo p.1 p.2 ms with
      | some u => .next (u.modTison c fun t => { t with pc := t.pc + 4 })
      | none => .next (s.tisonFault (.tnDisp rs1 rs2) 27)
  | none, _ => .next (s.tisonTrap c 5 t.pc (t.reg rs1).toNat)
  | _, none => .next (s.tisonTrap c 5 t.pc (t.reg rs2).toNat)

end Sys2Proof.Machine
end

