-- ==== Sys2Proof/Machine/Dispatch.lean ====
section
/-!
DEFINITION. The one match of the machine: each row of the opcode table to its meaning.
-/
namespace Sys2Proof.Machine

/-- Executes one row of the opcode table. -/
def exec (i : Instr) (s : State) : Host.Outcome State Fault Refusal :=
  match i with
  | .dup d => Sys2Proof.Machine.execDup d s
  | .drop d => Sys2Proof.Machine.execDrop d s
  | .swap d => Sys2Proof.Machine.execSwap d s
  | .over d => Sys2Proof.Machine.execOver d s
  | .rot d => Sys2Proof.Machine.execRot d s
  | .nip d => Sys2Proof.Machine.execNip d s
  | .depth d => Sys2Proof.Machine.execDepth d s
  | .add md ty d => Sys2Proof.Machine.execAdd md ty d s
  | .sub md ty d => Sys2Proof.Machine.execSub md ty d s
  | .mul md ty d => Sys2Proof.Machine.execMul md ty d s
  | .mulhi ty d => Sys2Proof.Machine.execMulhi ty d s
  | .fma md ty d => Sys2Proof.Machine.execFma md ty d s
  | .div md ty d => Sys2Proof.Machine.execDiv md ty d s
  | .rem ty d => Sys2Proof.Machine.execRem ty d s
  | .neg md ty d => Sys2Proof.Machine.execNeg md ty d s
  | .abs md ty d => Sys2Proof.Machine.execAbs md ty d s
  | .min ty d => Sys2Proof.Machine.execMin ty d s
  | .max ty d => Sys2Proof.Machine.execMax ty d s
  | .and ty d => Sys2Proof.Machine.execAnd ty d s
  | .or ty d => Sys2Proof.Machine.execOr ty d s
  | .xor ty d => Sys2Proof.Machine.execXor ty d s
  | .not ty d => Sys2Proof.Machine.execNot ty d s
  | .shl ty d => Sys2Proof.Machine.execShl ty d s
  | .shr ty d => Sys2Proof.Machine.execShr ty d s
  | .sar ty d => Sys2Proof.Machine.execSar ty d s
  | .rotl ty d => Sys2Proof.Machine.execRotl ty d s
  | .popc ty d => Sys2Proof.Machine.execPopc ty d s
  | .clz ty d => Sys2Proof.Machine.execClz ty d s
  | .ctz ty d => Sys2Proof.Machine.execCtz ty d s
  | .bfx ty d => Sys2Proof.Machine.execBfx ty d s
  | .bfi ty d => Sys2Proof.Machine.execBfi ty d s
  | .sqrt md ty d => Sys2Proof.Machine.execSqrt md ty d s
  | .rsqrt d => Sys2Proof.Machine.execRsqrt d s
  | .rcp d => Sys2Proof.Machine.execRcp d s
  | .exp2 d => Sys2Proof.Machine.execExp2 d s
  | .log2 d => Sys2Proof.Machine.execLog2 d s
  | .sin d => Sys2Proof.Machine.execSin d s
  | .cos d => Sys2Proof.Machine.execCos d s
  | .tanh d => Sys2Proof.Machine.execTanh d s
  | .floor ty d => Sys2Proof.Machine.execFloor ty d s
  | .ceil ty d => Sys2Proof.Machine.execCeil ty d s
  | .trunc ty d => Sys2Proof.Machine.execTrunc ty d s
  | .rint md ty d => Sys2Proof.Machine.execRint md ty d s
  | .clamp ty d => Sys2Proof.Machine.execClamp ty d s
  | .conj dim t d => Sys2Proof.Machine.execConj dim t d s
  | .norm dim t d => Sys2Proof.Machine.execNorm dim t d s
  | .copysign ty d => Sys2Proof.Machine.execCopysign ty d s
  | .get d k => Sys2Proof.Machine.execGet d k s
  | .set d k => Sys2Proof.Machine.execSet d k s
  | .tee d k => Sys2Proof.Machine.execTee d k s
  | .inc d k imm => Sys2Proof.Machine.execInc d k imm s
  | .get2 d k => Sys2Proof.Machine.execGet2 d k s
  | .set2 d k => Sys2Proof.Machine.execSet2 d k s
  | .tee2 d k => Sys2Proof.Machine.execTee2 d k s
  | .clr d k => Sys2Proof.Machine.execClr d k s
  | .lit d imm => Sys2Proof.Machine.execLit d imm s
  | .lit32 d imm => Sys2Proof.Machine.execLit32 d imm s
  | .lith d imm => Sys2Proof.Machine.execLith d imm s
  | .br g off => Sys2Proof.Machine.execBr g off s
  | .brl g off => Sys2Proof.Machine.execBrl g off s
  | .bru g off => Sys2Proof.Machine.execBru g off s
  | .call g off => Sys2Proof.Machine.execCall g off s
  | .loop g off => Sys2Proof.Machine.execLoop g off s
  | .rep g n => Sys2Proof.Machine.execRep g n s
  | .jmp g => Sys2Proof.Machine.execJmp g s
  | .brFar g off => Sys2Proof.Machine.execBrFar g off s
  | .callFar g off => Sys2Proof.Machine.execCallFar g off s
  | .cmp d cond ty pa pb ct g => Sys2Proof.Machine.execCmp d cond ty pa pb ct g s
  | .ld d sp sz rh off => Sys2Proof.Machine.execLd d sp sz rh off s
  | .st d sp sz rh g off => Sys2Proof.Machine.execSt d sp sz rh g off s
  | .atom d op sp w64 g ret off => Sys2Proof.Machine.execAtom d op sp w64 g ret off s
  | .perm ty => Sys2Proof.Machine.execPerm ty s
  | .bcast ty => Sys2Proof.Machine.execBcast ty s
  | .vote k pd neg => Sys2Proof.Machine.execVote k pd neg s
  | .red op ty => Sys2Proof.Machine.execRed op ty s
  | .scan op ty excl => Sys2Proof.Machine.execScan op ty excl s
  | .xput x => Sys2Proof.Machine.execXput x s
  | .xget x => Sys2Proof.Machine.execXget x s
  | .barArrive b absent gang => Sys2Proof.Machine.execBarArrive b absent gang s
  | .barWait b gang => Sys2Proof.Machine.execBarWait b gang s
  | .gangPhaseComplete ctx gang b => Sys2Proof.Machine.execGangPhaseComplete ctx gang b s
  | .seam j => Sys2Proof.Machine.execSeam j s
  | .mend j delta => Sys2Proof.Machine.execMend j delta s
  | .lostReconvergenceRelease core gslot => Sys2Proof.Machine.execLostReconvergenceRelease core gslot s
  | .plog tbl pd neg a b => Sys2Proof.Machine.execPlog tbl pd neg a b s
  | .wait l s0 c t => Sys2Proof.Machine.execWait l s0 c t s
  | .tld v => Sys2Proof.Machine.execTld v s
  | .tst v => Sys2Proof.Machine.execTst v s
  | .xfer v => Sys2Proof.Machine.execXfer v s
  | .ringSub q v => Sys2Proof.Machine.execRingSub q v s
  | .ringDrain q v => Sys2Proof.Machine.execRingDrain q v s
  | .ringGet q => Sys2Proof.Machine.execRingGet q s
  | .ringPut q g => Sys2Proof.Machine.execRingPut q g s
  | .ringDone q g => Sys2Proof.Machine.execRingDone q g s
  | .ringEos q g => Sys2Proof.Machine.execRingEos q g s
  | .taskDone g => Sys2Proof.Machine.execTaskDone g s
  | .taskArm g => Sys2Proof.Machine.execTaskArm g s
  | .wqPush w g => Sys2Proof.Machine.execWqPush w g s
  | .wqPushTry w g r => Sys2Proof.Machine.execWqPushTry w g r s
  | .wqPop w g => Sys2Proof.Machine.execWqPop w g s
  | .wqPopTry w g r => Sys2Proof.Machine.execWqPopTry w g r s
  | .spawn e n g => Sys2Proof.Machine.execSpawn e n g s
  | .spawnTry e n g => Sys2Proof.Machine.execSpawnTry e n g s
  | .acq a => Sys2Proof.Machine.execAcq a s
  | .rel a => Sys2Proof.Machine.execRel a s
  | .accLd a => Sys2Proof.Machine.execAccLd a s
  | .accSt a => Sys2Proof.Machine.execAccSt a s
  | .mstart off => Sys2Proof.Machine.execMstart off s
  | .fred v s0 => Sys2Proof.Machine.execFred v s0 s
  | .fence sc => Sys2Proof.Machine.execFence sc s
  | .fenceComplete f => Sys2Proof.Machine.execFenceComplete f s
  | .rdsr r => Sys2Proof.Machine.execRdsr r s
  | .wrsr r => Sys2Proof.Machine.execWrsr r s
  | .trap k => Sys2Proof.Machine.execTrap k s
  | .tret next => Sys2Proof.Machine.execTret next s
  | .mark k => Sys2Proof.Machine.execMark k s
  | .svc n => Sys2Proof.Machine.execSvc n s
  | .spawnFlush e => Sys2Proof.Machine.execSpawnFlush e s
  | .vset d f v imm => Sys2Proof.Machine.execVset d f v imm s
  | .cvt md src dst d => Sys2Proof.Machine.execCvt md src dst d s
  | .sel ty g d => Sys2Proof.Machine.execSel ty g d s
  | .amul md dim t rev d => Sys2Proof.Machine.execAmul md dim t rev d s
  | .qcvt src dst half => Sys2Proof.Machine.execQcvt src dst half s
  | .pick n d => Sys2Proof.Machine.execPick n d s
  | .roll n d => Sys2Proof.Machine.execRoll n d s
  | .region base count => Sys2Proof.Machine.execRegion base count s
  | .loadDataReturn op => Sys2Proof.Machine.execLoadDataReturn op s
  | .starvationPromotion f => Sys2Proof.Machine.execStarvationPromotion f s
  | .translationResolved f => Sys2Proof.Machine.execTranslationResolved f s
  | .page f => Sys2Proof.Machine.execPage f s
  | .fetchFill core line => Sys2Proof.Machine.execFetchFill core line s
  | .engineOpComplete op => Sys2Proof.Machine.execEngineOpComplete op s
  | .engineOpStart op => Sys2Proof.Machine.execEngineOpStart op s
  | .mma x => Sys2Proof.Machine.execMma x s
  | .mmay x => Sys2Proof.Machine.execMmay x s
  | .mzero c => Sys2Proof.Machine.execMzero c s
  | .mld c a nc mc ta zero rm => Sys2Proof.Machine.execMld c a nc mc ta zero rm s
  | .mst a c nc mc ta dcf rm => Sys2Proof.Machine.execMst a c nc mc ta dcf rm s
  | .mqdual a b c nc mc dcf => Sys2Proof.Machine.execMqdual a b c nc mc dcf s
  | .malg g v dim => Sys2Proof.Machine.execMalg g v dim s
  | .myoke ac au => Sys2Proof.Machine.execMyoke ac au s
  | .mguide c => Sys2Proof.Machine.execMguide c s
  | .mview t sp base rs ty => Sys2Proof.Machine.execMview t sp base rs ty s
  | .mlin t f => Sys2Proof.Machine.execMlin t f s
  | .marv b => Sys2Proof.Machine.execMarv b s
  | .mwt b => Sys2Proof.Machine.execMwt b s
  | .mgive a => Sys2Proof.Machine.execMgive a s
  | .mtake a => Sys2Proof.Machine.execMtake a s
  | .mloop n off => Sys2Proof.Machine.execMloop n off s
  | .mjmp off => Sys2Proof.Machine.execMjmp off s
  | .mseed k => Sys2Proof.Machine.execMseed k s
  | .mscale v => Sys2Proof.Machine.execMscale v s
  | .matrixOpStart t => Sys2Proof.Machine.execMatrixOpStart t s
  | .matrixOpComplete t => Sys2Proof.Machine.execMatrixOpComplete t s
  | .arrayGrant core => Sys2Proof.Machine.execArrayGrant core s
  | .ringSubscriptionFill t q => Sys2Proof.Machine.execRingSubscriptionFill t q s
  | .ringFillComplete op => Sys2Proof.Machine.execRingFillComplete op s
  | .ringDrainTake t q => Sys2Proof.Machine.execRingDrainTake t q s
  | .ringDrainWriteComplete op => Sys2Proof.Machine.execRingDrainWriteComplete op s
  | .launch q => Sys2Proof.Machine.execLaunch q s
  | .launchAdmit q place lanes => Sys2Proof.Machine.execLaunchAdmit q place lanes s
  | .teamRetire t => Sys2Proof.Machine.execTeamRetire t s
  | .launchComplete ctx => Sys2Proof.Machine.execLaunchComplete ctx s
  | .launchStop ctx => Sys2Proof.Machine.execLaunchStop ctx s
  | .taskArmApply op => Sys2Proof.Machine.execTaskArmApply op s
  | .taskDoneApply op => Sys2Proof.Machine.execTaskDoneApply op s
  | .pocketTimerExpire t e => Sys2Proof.Machine.execPocketTimerExpire t e s
  | .childGroupStart t => Sys2Proof.Machine.execChildGroupStart t s
  | .swapOut t => Sys2Proof.Machine.execSwapOut t s
  | .deadlockCheck ctx => Sys2Proof.Machine.execDeadlockCheck ctx s
  | .hostLinkTrain link m => Sys2Proof.Machine.execHostLinkTrain link m s
  | .hostLinkDown link => Sys2Proof.Machine.execHostLinkDown link s
  | .hostAckTimeout link => Sys2Proof.Machine.execHostAckTimeout link s
  | .hostCxlMemRead link pa len => Sys2Proof.Machine.execHostCxlMemRead link pa len s
  | .hostCxlMemWrite link pa bytes => Sys2Proof.Machine.execHostCxlMemWrite link pa bytes s
  | .hostAtomic link pa op w64 cmp v => Sys2Proof.Machine.execHostAtomic link pa op w64 cmp v s
  | .bar2Access w off wr len => Sys2Proof.Machine.execBar2Access w off wr len s
  | .fabricLinkTrain link width peer => Sys2Proof.Machine.execFabricLinkTrain link width peer s
  | .flitCrcError link recovered => Sys2Proof.Machine.execFlitCrcError link recovered s
  | .sctlWrite s0 v => Sys2Proof.Machine.execSctlWrite s0 v s
  | .reductionContributionArrive x => Sys2Proof.Machine.execReductionContributionArrive x s
  | .reductionUplinkResult s0 round vals => Sys2Proof.Machine.execReductionUplinkResult s0 round vals s
  | .fredComplete op => Sys2Proof.Machine.execFredComplete op s
  | .reductionRoundTimeout s0 => Sys2Proof.Machine.execReductionRoundTimeout s0 s
  | .tnRingf rd q => Sys2Proof.Machine.execTnRingf rd q s
  | .tnBfx rd rs1 pos lenM1 => Sys2Proof.Machine.execTnBfx rd rs1 pos lenM1 s
  | .tnSigw rd rs1 t => Sys2Proof.Machine.execTnSigw rd rs1 t s
  | .tnSigwTimeout core => Sys2Proof.Machine.execTnSigwTimeout core s
  | .tnDisp rs1 rs2 => Sys2Proof.Machine.execTnDisp rs1 rs2 s
  | .doorbell q tail => Sys2Proof.Machine.execDoorbell q tail s
  | .rheadWrite q v => Sys2Proof.Machine.execRheadWrite q v s
  | .completionEntryWrite q => Sys2Proof.Machine.execCompletionEntryWrite q s
  | .signal q => Sys2Proof.Machine.execSignal q s
  | .waitCommand q => Sys2Proof.Machine.execWaitCommand q s
  | .waitCommandTimeout q => Sys2Proof.Machine.execWaitCommandTimeout q s
  | .bias q => Sys2Proof.Machine.execBias q s
  | .shrink q place => Sys2Proof.Machine.execShrink q place s
  | .powerTarget q => Sys2Proof.Machine.execPowerTarget q s
  | .powerCollarCap q => Sys2Proof.Machine.execPowerCollarCap q s
  | .dieGate q => Sys2Proof.Machine.execDieGate q s
  | .dieUngate q => Sys2Proof.Machine.execDieUngate q s
  | .powerSafeCap q => Sys2Proof.Machine.execPowerSafeCap q s
  | .copy q => Sys2Proof.Machine.execCopy q s
  | .svcEcho f => Sys2Proof.Machine.execSvcEcho f s
  | .svcNotice f => Sys2Proof.Machine.execSvcNotice f s
  | .svcReadProgress f => Sys2Proof.Machine.execSvcReadProgress f s
  | .svcMakeResident f => Sys2Proof.Machine.execSvcMakeResident f s
  | .controlInterval lims => Sys2Proof.Machine.execControlInterval lims s
  | .ictlWrite isl v => Sys2Proof.Machine.execIctlWrite isl v s
  | .moveComplete isl => Sys2Proof.Machine.execMoveComplete isl s
  | .collarGrant isl => Sys2Proof.Machine.execCollarGrant isl s
  | .overCurrentCheck isl milliamps => Sys2Proof.Machine.execOverCurrentCheck isl milliamps s
  | .rackCapMessage seq cap valid => Sys2Proof.Machine.execRackCapMessage seq cap valid s
  | .quiesceRequest isl => Sys2Proof.Machine.execQuiesceRequest isl s
  | .quiesceCancel isl => Sys2Proof.Machine.execQuiesceCancel isl s
  | .coreQuiesced isl c => Sys2Proof.Machine.execCoreQuiesced isl c s
  | .retentionSave isl => Sys2Proof.Machine.execRetentionSave isl s
  | .retentionSaveComplete isl => Sys2Proof.Machine.execRetentionSaveComplete isl s
  | .clockGate isl => Sys2Proof.Machine.execClockGate isl s
  | .clockUngate isl => Sys2Proof.Machine.execClockUngate isl s
  | .railRetain isl => Sys2Proof.Machine.execRailRetain isl s
  | .railOff isl => Sys2Proof.Machine.execRailOff isl s
  | .wake isl => Sys2Proof.Machine.execWake isl s
  | .wakeComplete isl => Sys2Proof.Machine.execWakeComplete isl s
  | .icollarWrite isl v => Sys2Proof.Machine.execIcollarWrite isl v s
  | .registerWrite r v => Sys2Proof.Machine.execRegisterWrite r v s
  | .traceRecordWrite r => Sys2Proof.Machine.execTraceRecordWrite r s
  | .singleStep t b p => Sys2Proof.Machine.execSingleStep t b p s
  | .debugAccRead t a => Sys2Proof.Machine.execDebugAccRead t a s
  | .breakpoint f => Sys2Proof.Machine.execBreakpoint f s
  | .debugResume f next => Sys2Proof.Machine.execDebugResume f next s
  | .causalExperimentStart ctx lo hi f => Sys2Proof.Machine.execCausalExperimentStart ctx lo hi f s
  | .causalDelay ctx core => Sys2Proof.Machine.execCausalDelay ctx core s
  | .fabricLinkRetryTimer link width peer => Sys2Proof.Machine.execFabricLinkRetryTimer link width peer s
  | .firmwareStage image => Sys2Proof.Machine.execFirmwareStage image s
  | .recoveryImageStage image => Sys2Proof.Machine.execRecoveryImageStage image s
  | .attestationRequest nonce => Sys2Proof.Machine.execAttestationRequest nonce s
  | .lifeCycleToken target token => Sys2Proof.Machine.execLifeCycleToken target token s
  | .selfTest sp line uncorrected => Sys2Proof.Machine.execSelfTest sp line uncorrected s
  | .selfTestComplete sp line pass spare => Sys2Proof.Machine.execSelfTestComplete sp line pass spare s
  | .storeAcknowledged op => Sys2Proof.Machine.execStoreAcknowledged op s
  | .burstReservationRelease isl => Sys2Proof.Machine.execBurstReservationRelease isl s
  | .yieldExpiry f => Sys2Proof.Machine.execYieldExpiry f s
  | .fabricLinkDown link => Sys2Proof.Machine.execFabricLinkDown link s
  | .causalExperimentEnd ctx => Sys2Proof.Machine.execCausalExperimentEnd ctx s
  | .nop => Sys2Proof.Machine.execNop s
  | .ret => Sys2Proof.Machine.execRet s
  | .exit => Sys2Proof.Machine.execExit s
  | .yield => Sys2Proof.Machine.execYield s
  | .brk => Sys2Proof.Machine.execBrk s
  | .lane => Sys2Proof.Machine.execLane s
  | .s2l => Sys2Proof.Machine.execS2l s
  | .ballot => Sys2Proof.Machine.execBallot s
  | .ppush => Sys2Proof.Machine.execPpush s
  | .ppop => Sys2Proof.Machine.execPpop s
  | .disp => Sys2Proof.Machine.execDisp s
  | .taskGet => Sys2Proof.Machine.execTaskGet s
  | .cwait => Sys2Proof.Machine.execCwait s
  | .mnop => Sys2Proof.Machine.execMnop s
  | .mhalt => Sys2Proof.Machine.execMhalt s
  | .biasFlipComplete => Sys2Proof.Machine.execBiasFlipComplete s
  | .capExpiry => Sys2Proof.Machine.execCapExpiry s
  | .thermalTrip => Sys2Proof.Machine.execThermalTrip s
  | .systemStop => Sys2Proof.Machine.execSystemStop s
  | .systemResume => Sys2Proof.Machine.execSystemResume s
  | .stepComplete => Sys2Proof.Machine.execStepComplete s
  | .snapshotTrigger => Sys2Proof.Machine.execSnapshotTrigger s
  | .moduleReset => Sys2Proof.Machine.execModuleReset s
  | .powerLoss => Sys2Proof.Machine.execPowerLoss s

end Sys2Proof.Machine
end

