-- ==== Sys2Proof/Machine/Due.lean ====
section
/-!
DEFINITION. The events that the module brings about by itself, each due as soon as it changes anything (log entry 1). What the host,
the debugger, Tison's firmware or the board decides is never due: it stands on the agenda.
-/
namespace Sys2Proof.Machine

/-- Whether a row is the module reset. -/
def isReset : Instr → Bool
  | .moduleReset => true
  | _ => false

/-- The names of the live fragments of every team. -/
def State.fragRefs (s : State) : List FragRef :=
  s.allTeams.flatMap fun t => t.groups.flatMap fun g => g.allFrags.map fun f =>
    { core := t.core, gslot := g.gslot, lane := lowestLane f.mask }

/-- The events that may end a fragment's wait, by what it waits for. -/
def State.fragEvents (s : State) (r : FragRef) : List Instr :=
  let u := s.focusRef r
  match u.fr.wait with
  | .fence _ => [.fenceComplete r]
  | .page _ => if u.missing.any u.resolvable then [.translationResolved r] else if u.missing.all u.fails then [.page r] else []
  | .fetch line => [.fetchFill r.core line]
  | .svc _ _ => [.svcEcho r, .svcNotice r, .svcReadProgress r, .svcMakeResident r]
  | .seam _ => [.lostReconvergenceRelease r.core r.gslot]
  | _ => (if 256 ≤ u.fr.passed then [.starvationPromotion r] else []) ++
      (if u.fr.yielded && decide (u.fr.yieldAt + 64 ≤ s.seqNo) then [.yieldExpiry r] else [])

/-- The events of a team: its loads and stores, its sequencer, its rings, its end. -/
def Team.events (t : Team) : List Instr :=
  let r : TeamRef := { core := t.core, ctx := t.ctx }
  (t.outs.flatMap fun o => match o.cls with
    | .ld => [Instr.loadDataReturn o.id]
    | .st => [.storeAcknowledged o.id]
    | _ => []) ++
  [.matrixOpStart r, .matrixOpComplete r, .arrayGrant t.core, .childGroupStart r, .swapOut r, .teamRetire r] ++
  ((List.finRange 16).flatMap fun q => [Instr.ringSubscriptionFill r q, .ringDrainTake r q])

/-- The posted stores on their way to the host (R77, R201). -/
def State.postedEvents (s : State) : List Instr := ((s.posted.map Posted.id).dedup).map Instr.storeAcknowledged

/-- The line of code that a team's running sequencer misses (R301). -/
def State.seqFetch (s : State) (t : Team) : List Instr :=
  if t.seq.st == .run && t.seq.flight.isNone then (s.seqLine t).toList.map (.fetchFill t.core) else []

/-- The pocket's timers of a team: due after 64 cycles of the island's clock, or when no fragment can issue while the clock runs (R315, R346, log
entry 1). -/
def State.timerEvents (s : State) (t : Team) : List Instr :=
  let idle := s.pick.isNone && s.islandOn t.core
  let old := fun (l : PocketLine) => decide (64000 ≤ paceCycles l.bornNs s.now (s.islandAt (islandOf t.core)).pace)
  (t.lines.filter fun l => !l.formed && (idle || old l)).map fun l =>
    .pocketTimerExpire { core := t.core, ctx := t.ctx } (Fin.ofNat 64 l.entry)

/-- The events of an engine operation. -/
def EngineOp.events (o : EngineOp) : List Instr :=
  match o.kind with
  | .tld | .tst | .xfer => [.engineOpStart o.id, .engineOpComplete o.id]
  | .fill => [.engineOpStart o.id, .ringFillComplete o.id]
  | .drain => [.engineOpStart o.id, .ringDrainWriteComplete o.id]
  | .fred => [.engineOpStart o.id, .reductionContributionArrive (.own o.id), .fredComplete o.id]

/-- Multiples of 65,536 cycles of 1.7 GHz up to a time (R322). -/
def detectorPeriods (ns : Nat) : Nat := ns * 17 / 655360

/-- The detector checks a launch when all its groups are blocked, and else at its periods: once one has come since a group became
blocked (R322; log entry 18). -/
def State.detectorDue (s : State) (c : Nat) : Bool :=
  let gs := (s.allTeams.filter fun t => t.ctx == c).flatMap fun t => t.groups.map fun g => (g, (s.blockedReg t g).getLsbD 31)
  (gs.all fun g => g.2) ||
    gs.any fun g => g.2 && decide (detectorPeriods (g.1.allFrags.foldl (fun a f => max a f.parkedNs) g.1.blkAt) < detectorPeriods s.now)

/-- The events of a launch context: its gang phases, its end, its deadlocks, its experiment's delays. -/
def State.ctxEvents (s : State) (c : Fin 8) : List Instr :=
  let k := s.ctxs.getD c LaunchCtx.empty
  let gangs := (k.map.map fun m => gangLevel k.lp m.1).dedup
  (if k.phase = .free then [] else
    [Instr.launchStop c, .launchComplete c] ++ (if s.detectorDue c.val then [Instr.deadlockCheck c] else []) ++
    (gangs.flatMap fun g => (List.finRange 16).map fun b => .gangPhaseComplete c g b)) ++
  match k.causal with
  | some x => x.debts.map fun d => .causalDelay c d.1
  | none => []

/-- Whether a COPY kernel of a queue has started and is not over (R341). -/
def State.copying (s : State) (q : Nat) : Bool :=
  s.copies.any (fun k => k.queue == q) || s.ctxs.any fun k => k.queue == q && k.copy.isSome

/-- The events of a host queue: the command at its head, the launch that waits for a context, the commands that have started and go on, and its
completions. -/
def State.queueEvents (s : State) (q : Fin 64) : List Instr :=
  let h := s.queues.getD q (HostQueue.reset q)
  (if h.fetched.isEmpty then [] else
    [Instr.signal q, .waitCommand q, .waitCommandTimeout q, .bias q, .powerTarget q, .powerCollarCap q, .dieGate q, .dieUngate q,
     .powerSafeCap q]) ++
  (if h.fetched.isEmpty && h.pendL.isNone then [] else [.launch q]) ++
  (if h.fetched.isEmpty && !s.copying q then [] else [.copy q]) ++
  (s.jobs.filter (fun j => j.q == q.val)).map (fun j => if cmdNat j.cmd 0 1 = 5 then .shrink q j.place else .dieGate q) ++
  (if h.comps.isEmpty then [] else [.completionEntryWrite q])

/-- The events of an island. -/
def State.islandEvents (s : State) (i : Fin 48) : List Instr :=
  let x := s.islands.getD i Island.reset
  (if x.moveTo.isSome then [Instr.moveComplete i] else []) ++ (if x.cq.isEmpty then [] else [.collarGrant i]) ++
  (if x.bursts.isEmpty then [] else [.burstReservationRelease i]) ++
  match x.pstate with
  | .quiescing => (List.finRange 12).map fun c => .coreQuiesced i c
  | .quiet => [.retentionSaveComplete i]
  | .waking => [.wakeComplete i]
  | _ => []

/-- Every event that may be due. -/
def State.dueEvents (s : State) : List Instr :=
  s.fragRefs.flatMap s.fragEvents ++ s.allTeams.flatMap Team.events ++ s.allTeams.flatMap s.timerEvents ++
  s.allTeams.flatMap s.seqFetch ++ s.postedEvents ++
  s.ops.flatMap EngineOp.events ++
  (s.poolOps.map fun o => if o.arm then .taskArmApply o.id else .taskDoneApply o.id) ++
  (List.finRange 8).flatMap s.ctxEvents ++ (List.finRange 64).flatMap s.queueEvents ++ (List.finRange 48).flatMap s.islandEvents ++
  ((List.finRange 64).filter fun (n : Fin 64) => let x := s.sessions.getD n.val Session.reset
    x.began.isSome || !x.uplink.isEmpty).map Instr.reductionRoundTimeout ++
  (List.finRange 4).map Instr.tnSigwTimeout ++ (s.traceq.take 1).map (fun x => Instr.traceRecordWrite x.2) ++
  (if s.stopReq then [.systemStop] else []) ++
  (if s.snapReached then [.snapshotTrigger] else []) ++
  s.freeHeld (s.held.zip s.heldAt) [] ++ [.biasFlipComplete, .capExpiry, .stepComplete]

/-- Whether an event changes the module. -/
def State.changes (s : State) (i : Instr) : Bool :=
  match exec i (s.letGo i) with
  | .next t => decide (t ≠ s)
  | _ => true

/-- The event that comes next: the events that may be due take turns. -/
def State.nextDue (s : State) : Option Instr :=
  let es := s.dueEvents
  let n := s.ticks % max 1 es.length
  (es.drop n ++ es.take n).find? s.changes

end Sys2Proof.Machine
end

