-- ==== Sys2Proof/Machine/TisonRegs.lean ====
section
/-!
DEFINITION. The register blocks of Tison space: the islands' at 0x4000_0000 (R353), the trace unit's at 0x4100_0000 (R357), the debug registers at
0x4100_1000 (R362), and a causal experiment's at 0x4100_2000 (R365).
-/
namespace Sys2Proof.Machine

/-- A register of Tison space. -/
inductive TisonReg where
  | island (isl : Fin 48) (off : Nat)
  | trace (off : Nat)
  | debug (ctx : Fin 8) (off : Nat)
  | causal (ctx : Fin 8) (off : Nat)
  deriving DecidableEq, Repr

/-- The register at an address and its width in bytes, none where there is none. How a causal experiment's registers lie within their block is
the model's (DESIGN CHOICE, log entry 63): 0x100 bytes for each context, with LO, HI and F. -/
def tisonReg (a : Nat) : Option (TisonReg × Nat) :=
  if 0x4000_0000 ≤ a ∧ a < 0x4004_0000 then
    let off := a % 0x1000
    let isl := field a 15 12
    if isl < 12 ∧ off % 4 = 0 ∧ off ≤ 0x24 then some (.island (Fin.ofNat 48 (field a 17 16 * 12 + isl)) off, 4) else none
  else if 0x4100_0000 ≤ a ∧ a < 0x4100_1000 then
    match a % 0x1000 with
    | 0x08 => some (.trace 0x08, 8)
    | off => if off = 0x00 ∨ off = 0x10 ∨ off = 0x14 ∨ off = 0x18 ∨ off = 0x1C then some (.trace off, 4) else none
  else if 0x4100_1000 ≤ a ∧ a < 0x4100_1800 then
    let off := a % 0x100
    let c := Fin.ofNat 8 (field a 10 8)
    if off < 0x20 ∧ off % 8 = 0 then some (.debug c off, 8)
    else if 0x40 ≤ off ∧ off < 0x80 ∧ off % 16 = 0 then some (.debug c off, 8)
    else if 0x40 ≤ off ∧ off < 0x80 ∧ off % 16 = 8 then some (.debug c off, 4)
    else none
  else if 0x4100_2000 ≤ a ∧ a < 0x4100_2800 then
    match a % 0x100 with
    | 0x00 => some (.causal (Fin.ofNat 8 (field a 10 8)) 0x00, 8)
    | 0x08 => some (.causal (Fin.ofNat 8 (field a 10 8)) 0x08, 8)
    | 0x10 => some (.causal (Fin.ofNat 8 (field a 10 8)) 0x10, 4)
    | _ => none
  else none

/-- PSTATE's codes (R352). -/
def pstateCode : PState → Nat
  | .on => 0 | .quiescing => 1 | .quiet => 2 | .saved => 3 | .clkoff => 4 | .retain => 5 | .off => 6 | .waking => 7

/-- An island's register as it reads (R353); IRSAVE and IWAKE are write only. -/
def Island.word (x : Island) (off : Nat) : Nat :=
  match off with
  | 0x00 => x.target.toNat
  | 0x04 => x.limit.toNat * 2 ^ 21 + bit x.moveTo.isSome * 2 ^ 20 + bit x.pend * 2 ^ 19 + x.applied.toNat * 2 ^ 14 + pstateCode x.pstate * 2 ^ 11 +
      bit x.seqerr * 2 ^ 10 + bit x.ockill * 2 ^ 9
  | 0x08 => bit x.iqreq
  | 0x0C => x.iqack.toNat
  | 0x14 => bit x.restored * 2 ^ 13 + bit x.done * 2 ^ 12 + x.coreSaved.toNat
  | 0x18 => bit x.gate
  | 0x1C => x.mode.toNat
  | 0x24 => x.used % 2 ^ 16 * 2 ^ 16 + x.cap.toNat
  | _ => 0

/-- A trace register as it reads (R357). -/
def Trace.word (t : Trace) (off : Nat) : Nat :=
  match off with
  | 0x00 => t.kinds.toNat * 2 ^ 12 + bit t.en
  | 0x08 => t.base.toNat
  | 0x10 => t.log2.toNat
  | 0x14 => t.wptr.toNat
  | 0x18 => t.rptr.toNat
  | _ => t.lost.toNat

/-- What a register reads. -/
def State.readReg (s : State) : TisonReg → Nat
  | .island i off => (s.shownIsland i).word off
  | .trace off => s.trace.word off
  | .debug c off =>
    let k := s.ctxs.getD c LaunchCtx.empty
    if off < 0x20 then (k.bps.getD (off / 8) 0).toNat
    else if off % 16 = 0 then (k.wbase.getD (off / 16 - 4) 0).toNat
    else (k.wctl.getD (off / 16 - 4) 0).toNat
  | .causal c off =>
    match (s.ctxs.getD c LaunchCtx.empty).causal with
    | some x => if off = 0 then x.lo.toNat else if off = 8 then x.hi.toNat else x.f
    | none => 0

/-- A write of an island's register: one that no row of R352 accepts is ignored and sets SEQERR (R347, R352, R353). -/
def State.writeIsland (s : State) (i : Fin 48) (off : Nat) (v : Word) : State :=
  let go := nextOf s
  match off with
  | 0x00 => go (execIctlWrite i (v.setWidth 5) s)
  | 0x04 => go (execRegisterWrite (.tison, .istat i) v s)
  | 0x08 => if v.getLsbD 0 then go (execQuiesceRequest i s) else go (execQuiesceCancel i s)
  | 0x10 => if v.getLsbD 0 then go (execRetentionSave i s) else s.modIsland i Island.ignored
  | 0x18 => if v.getLsbD 0 then go (execClockGate i s) else go (execClockUngate i s)
  | 0x1C => match v.toNat % 4 with
    | 1 => go (execRailRetain i s)
    | 2 => go (execRailOff i s)
    | _ => s.modIsland i Island.ignored
  | 0x20 => if v.getLsbD 0 then go (execWake i s) else s.modIsland i Island.ignored
  | 0x24 => go (execIcollarWrite i (v.setWidth 16) s)
  | _ => s

/-- A write of a register; a read-only one ignores it (R5, R355). A write of F starts the causal experiment with the LO and HI last written. -/
def State.writeReg (s : State) (r : TisonReg) (v : Word) : State :=
  let go := fun (x : RegId) => nextOf s (execRegisterWrite (.tison, x) v s)
  match r with
  | .island i off => s.writeIsland i off v
  | .trace 0x00 => go .tctl
  | .trace 0x08 => go .tbase
  | .trace 0x10 => go .tsize
  | .trace 0x18 => go .trd
  | .trace 0x1C => go .tlost
  | .trace _ => s
  | .debug c off =>
    if off < 0x20 then go (.bp c (Fin.ofNat 4 (off / 8)))
    else if off % 16 = 0 then go (.wbase c (Fin.ofNat 4 (off / 16 - 4)))
    else go (.wctl c (Fin.ofNat 4 (off / 16 - 4)))
  | .causal c off =>
    let x := ((s.ctxs.getD c LaunchCtx.empty).causal).getD { lo := 0, hi := 0, f := 0, cycles := [], debts := [], cdly := [] }
    if off = 0 then s.modCtx c fun k => { k with causal := some { x with lo := v } }
    else if off = 8 then s.modCtx c fun k => { k with causal := some { x with hi := v } }
    else nextOf s (execCausalExperimentStart c x.lo x.hi (lo32 v).toNat s)

end Sys2Proof.Machine
end

