-- ==== Sys2Proof/Machine/Rv.lean ====
section
/-!
DEFINITION. The base instructions of the Tison cores: R335 names them RV64IMAC and gives no row for them. Encodings, effects and exception causes are
those of the RISC-V architecture (PRESUMED, log entry 63); what they reach in memory and registers is R335's.
-/
namespace Sys2Proof.Machine

/-! ### Compressed instructions -/

/-- The full words of the formats R, I, S, B, U and J; an immediate is taken modulo its width. -/
def rvR (f7 rs2 rs1 f3 rd op : Nat) : Nat := f7 * 2 ^ 25 + rs2 * 2 ^ 20 + rs1 * 2 ^ 15 + f3 * 2 ^ 12 + rd * 2 ^ 7 + op
def rvI (imm : Int) (rs1 f3 rd op : Nat) : Nat := (imm % 2 ^ 12).toNat * 2 ^ 20 + rs1 * 2 ^ 15 + f3 * 2 ^ 12 + rd * 2 ^ 7 + op
def rvS (imm rs2 rs1 f3 : Nat) : Nat := rvR (field imm 11 5) rs2 rs1 f3 (field imm 4 0) 0x23
def rvB (imm : Int) (rs1 f3 : Nat) : Nat :=
  let n := (imm % 2 ^ 13).toNat
  rvR (field n 12 12 * 64 + field n 10 5) 0 rs1 f3 (field n 4 1 * 2 + field n 11 11) 0x63
def rvU (imm20 : Int) (rd : Nat) : Nat := (imm20 % 2 ^ 20).toNat * 2 ^ 12 + rd * 2 ^ 7 + 0x37
def rvJ (imm : Int) (rd : Nat) : Nat :=
  let n := (imm % 2 ^ 21).toNat
  (field n 20 20 * 2 ^ 19 + field n 10 1 * 2 ^ 9 + field n 11 11 * 2 ^ 8 + field n 19 12) * 2 ^ 12 + rd * 2 ^ 7 + 0x6F

/-- The quadrant 0b00 of the compressed instructions. -/
def rvC0 (w : Nat) : Option Nat :=
  let rd := 8 + field w 4 2
  let rs := 8 + field w 9 7
  let ow := field w 12 10 * 8 + field w 6 6 * 4 + field w 5 5 * 64
  let od := field w 12 10 * 8 + field w 6 5 * 64
  match field w 15 13 with
  | 0 =>
    let imm := field w 12 11 * 16 + field w 10 7 * 64 + field w 6 6 * 4 + field w 5 5 * 8
    if imm = 0 then none else some (rvI imm 2 0 rd 0x13)
  | 2 => some (rvI ow rs 2 rd 0x03)
  | 3 => some (rvI od rs 3 rd 0x03)
  | 6 => some (rvS ow rd rs 2)
  | 7 => some (rvS od rd rs 3)
  | _ => none

/-- The quadrant 0b01. -/
def rvC1 (w : Nat) : Option Nat :=
  let rd := field w 11 7
  let r := 8 + field w 9 7
  let imm := toSigned 6 (field w 12 12 * 32 + field w 6 2)
  let sh : Int := field w 12 12 * 32 + field w 6 2
  let bimm := toSigned 9 (field w 12 12 * 256 + field w 11 10 * 8 + field w 6 5 * 64 + field w 4 3 * 2 + field w 2 2 * 32)
  match field w 15 13 with
  | 0 => some (rvI imm rd 0 rd 0x13)
  | 1 => if rd = 0 then none else some (rvI imm rd 0 rd 0x1B)
  | 2 => some (rvI imm 0 0 rd 0x13)
  | 3 =>
    if imm = 0 then none
    else if rd = 2 then
      some (rvI (toSigned 10 (field w 12 12 * 512 + field w 6 6 * 16 + field w 5 5 * 64 + field w 4 3 * 128 + field w 2 2 * 32)) 2 0 2 0x13)
    else some (rvU imm rd)
  | 4 => match field w 11 10 with
    | 0 => some (rvI sh r 5 r 0x13)
    | 1 => some (rvI (1024 + sh) r 5 r 0x13)
    | 2 => some (rvI imm r 7 r 0x13)
    | _ =>
      let q := 8 + field w 4 2
      match field w 12 12, field w 6 5 with
      | 0, 0 => some (rvR 32 q r 0 r 0x33)
      | 0, 1 => some (rvR 0 q r 4 r 0x33)
      | 0, 2 => some (rvR 0 q r 6 r 0x33)
      | 0, _ => some (rvR 0 q r 7 r 0x33)
      | _, 0 => some (rvR 32 q r 0 r 0x3B)
      | _, 1 => some (rvR 0 q r 0 r 0x3B)
      | _, _ => none
  | 5 => some (rvJ (toSigned 12 (field w 12 12 * 2048 + field w 11 11 * 16 + field w 10 9 * 256 + field w 8 8 * 1024 + field w 7 7 * 64 +
      field w 6 6 * 128 + field w 5 3 * 2 + field w 2 2 * 32)) 0)
  | 6 => some (rvB bimm r 0)
  | _ => some (rvB bimm r 1)

/-- The quadrant 0b10. -/
def rvC2 (w : Nat) : Option Nat :=
  let rd := field w 11 7
  let rs2 := field w 6 2
  match field w 15 13 with
  | 0 => some (rvI (field w 12 12 * 32 + rs2) rd 1 rd 0x13)
  | 2 => if rd = 0 then none else some (rvI (field w 12 12 * 32 + field w 6 4 * 4 + field w 3 2 * 64) 2 2 rd 0x03)
  | 3 => if rd = 0 then none else some (rvI (field w 12 12 * 32 + field w 6 5 * 8 + field w 4 2 * 64) 2 3 rd 0x03)
  | 4 => match field w 12 12, rs2 with
    | 0, 0 => if rd = 0 then none else some (rvI 0 rd 0 0 0x67)
    | 0, _ => some (rvR 0 rs2 0 0 rd 0x33)
    | _, 0 => if rd = 0 then some 0x00100073 else some (rvI 0 rd 0 1 0x67)
    | _, _ => some (rvR 0 rs2 rd 0 rd 0x33)
  | 6 => some (rvS (field w 12 9 * 4 + field w 8 7 * 64) rs2 2 2)
  | 7 => some (rvS (field w 12 10 * 8 + field w 9 7 * 64) rs2 2 3)
  | _ => none

/-- The full word that a compressed instruction stands for. -/
def rvExpand (w : Nat) : Option Nat :=
  match w % 4 with
  | 0 => rvC0 w
  | 1 => rvC1 w
  | _ => rvC2 w

/-! ### Arithmetic -/

/-- A result of 32 bits, sign-extended. -/
def sext32 (v : Word) : Word := sx32 (lo32 v)

/-- The operations of OP and OP-IMM; `alt` is bit 30. -/
def rvAlu (f3 : Nat) (alt : Bool) (a b : Word) : Word :=
  match f3 with
  | 0 => if alt then a - b else a + b
  | 1 => a <<< (b.toNat % 64)
  | 2 => BitVec.ofNat 64 (bit (a.slt b))
  | 3 => BitVec.ofNat 64 (bit (a.ult b))
  | 4 => a ^^^ b
  | 5 => if alt then a.sshiftRight (b.toNat % 64) else a >>> (b.toNat % 64)
  | 6 => a ||| b
  | _ => a &&& b

/-- Those of OP-32 and OP-IMM-32. -/
def rvAluW (f3 : Nat) (alt : Bool) (a b : Word) : Option Word :=
  let x := lo32 a
  match f3 with
  | 0 => some (sext32 (if alt then a - b else a + b))
  | 1 => some (sx32 (x <<< (b.toNat % 32)))
  | 5 => some (sx32 (if alt then x.sshiftRight (b.toNat % 32) else x >>> (b.toNat % 32)))
  | _ => none

/-- Multiplication and division of `n` bits: a division by zero and the overflow of a signed one have the architecture's results. -/
def rvMul (n f3 : Nat) (a b : Nat) : Option Int :=
  let sa := toSigned n a
  let sb := toSigned n b
  match f3 with
  | 0 => some (sa * sb)
  | 1 => some (sa * sb / 2 ^ n)
  | 2 => some (sa * (b : Int) / 2 ^ n)
  | 3 => some ((a : Int) * (b : Int) / 2 ^ n)
  | 4 => some (if b = 0 then -1 else sa.tdiv sb)
  | 5 => some (if b = 0 then -1 else ((a / b : Nat) : Int))
  | 6 => some (if b = 0 then sa else sa.tmod sb)
  | 7 => some (if b = 0 then sa else ((a % b : Nat) : Int))
  | _ => none

/-- Whether a branch is taken. -/
def rvTaken (f3 : Nat) (a b : Word) : Option Bool :=
  match f3 with
  | 0 => some (a == b)
  | 1 => some (a != b)
  | 4 => some (a.slt b)
  | 5 => some (!a.slt b)
  | 6 => some (a.ult b)
  | 7 => some (!a.ult b)
  | _ => none

/-! ### Control and status registers -/

/-- What a CSR of machine mode reads; no interrupt is enabled or pending. -/
def Tison.csr (t : Tison) (core n : Nat) : Option Word :=
  match n with
  | 0x300 => some (t.mstatus ||| 0x1800)
  | 0x301 => some 0x8000_0000_0000_1105
  | 0x304 | 0x344 | 0xF11 | 0xF12 | 0xF13 => some 0
  | 0x305 => some t.mtvec
  | 0x340 => some t.mscratch
  | 0x341 => some t.mepc
  | 0x342 => some t.mcause
  | 0x343 => some t.mtval
  | 0xF14 => some (BitVec.ofNat 64 core)
  | _ => none

/-- A write of a CSR, none where it is read-only or absent. -/
def Tison.setCsr (t : Tison) (n : Nat) (v : Word) : Option Tison :=
  match n with
  | 0x300 => some { t with mstatus := v &&& 0x88 }
  | 0x301 | 0x304 | 0x344 => some t
  | 0x305 => some { t with mtvec := v >>> 2 <<< 2 }
  | 0x340 => some { t with mscratch := v }
  | 0x341 => some { t with mepc := v >>> 1 <<< 1 }
  | 0x342 => some { t with mcause := v }
  | 0x343 => some { t with mtval := v }
  | _ => none

/-! ### Execution -/

/-- What a base instruction comes to: it is done, it waits, or it traps with a cause and mtval. -/
inductive RvRes where
  | done (s : State)
  | wait
  | trap (cause tval : Nat)

/-- The end of an instruction that writes `rd` and goes on at `pc`. -/
def State.rvEnd (s : State) (c rd : Nat) (v pc : Word) : State := s.modTison c fun t => { t.setReg rd v with pc := pc, asleep := false }

/-- A load of `n` bytes at `a`: from memory, as an event, or from a register of its own width. -/
def State.rvLoad (s : State) (c : Nat) (a : Word) (n : Nat) (k : State → Nat → State) : RvRes :=
  if a.toNat % n ≠ 0 then .trap 4 a.toNat
  else match s.tisonRange c a n with
    | some p =>
      if s.tisonHeld p n then .wait
      else if s.tisonBad p n then .trap 5 a.toNat
      else .done (k (s.tisonEvent c (s.tisonLines p n) []) (s.seenNat 4 p.1 p.2 n))
    | none => match tisonReg a.toNat with
      | some (r, w) => if w = n then .done (k s (s.readReg r)) else .trap 5 a.toNat
      | none => .trap 5 a.toNat

/-- A store of `n` bytes at `a`. -/
def State.rvStore (s : State) (c : Nat) (a : Word) (n : Nat) (v : Word) (k : State → State) : RvRes :=
  if a.toNat % n ≠ 0 then .trap 6 a.toNat
  else match s.tisonRange c a n with
    | some p =>
      if s.tisonHeld p n then .wait
      else .done (k ((s.tisonEvent c [] (s.tisonLines p n)).tisonWrite p (toBytes n v.toNat)))
    | none => match tisonReg a.toNat with
      | some (r, w) => if w = n then .done (k (s.writeReg r v)) else .trap 7 a.toNat
      | none => .trap 7 a.toNat

/-- The operation of an AMO. -/
def rvAmoOp : Nat → Option AtomOp
  | 0 => some .add | 1 => some .xchg | 4 => some .xor | 8 => some .or | 12 => some .and | 16 => some .imin | 20 => some .imax
  | 24 => some .nmin | 28 => some .nmax
  | _ => none

/-- The A extension: `lr` notes the address and the wts of its line, and `sc` stores where that line has not been written since; a line that keeps
no stamps is no line to reserve. -/
def State.rvAtomic (s : State) (c f5 n rs2 rd : Nat) (a b pc : Word) (bits : Nat) : RvRes :=
  if a.toNat % n ≠ 0 then .trap (if f5 = 2 then 4 else 6) a.toNat
  else match s.tisonRange c a n with
    | none => .trap (if f5 = 2 then 5 else 7) a.toNat
    | some p =>
      let ls := s.tisonLines p n
      let line : LineId := (p.1, lineOf p.2)
      let old := s.seenNat 4 p.1 p.2 n
      let get := BitVec.ofInt 64 (toSigned (8 * n) old)
      if s.tisonHeld p n then .wait
      else if f5 = 3 then
        let ok := (s.tisonCore c).resv == some (a, (s.stampOf line).wts) && (p.1 == 5 || !ls.isEmpty)
        let u := if ok then (s.tisonEvent c [] ls).tisonWrite p (toBytes n b.toNat) else s
        .done ((u.modTison c fun t => { t with resv := none }).rvEnd c rd (if ok then 0 else 1) pc)
      else if s.tisonBad p n then .trap (if f5 = 2 then 5 else 7) a.toNat
      else if f5 = 2 then
        if rs2 ≠ 0 then .trap 2 bits
        else
          let u := s.tisonEvent c ls []
          .done ((u.modTison c fun t => { t with resv := some (a, (u.stampOf line).wts) }).rvEnd c rd get pc)
      else match rvAmoOp f5 with
        | none => .trap 2 bits
        | some op =>
          let new := atomResult op (8 * n) old (b.toNat % 2 ^ (8 * n)) 0
          .done (((s.tisonEvent c ls ls).tisonWrite p (toBytes n new)).rvEnd c rd get pc)

/-- The SYSTEM instructions. -/
def State.rvSystem (s : State) (c w : Nat) (pc next : Word) : RvRes :=
  let t := s.tisonCore c
  let rd := field w 11 7
  let rs1 := field w 19 15
  let n := field w 31 20
  let f3 := field w 14 12
  if f3 = 0 then
    if rd ≠ 0 ∨ rs1 ≠ 0 then .trap 2 w
    else match n with
      | 0 => .trap 11 0
      | 1 => .trap 3 pc.toNat
      | 0x105 => .done (s.rvEnd c 0 0 next)
      | 0x302 => .done ((s.modTison c fun t => { t with mstatus := if t.mstatus.getLsbD 7 then 0x88 else 0x80 }).rvEnd c 0 0 t.mepc)
      | _ => .trap 2 w
  else if f3 = 4 then .trap 2 w
  else match t.csr c n with
    | none => .trap 2 w
    | some old =>
      let x := if 4 ≤ f3 then BitVec.ofNat 64 rs1 else t.reg rs1
      let new := match f3 % 4 with
        | 1 => some x
        | 2 => if rs1 = 0 then none else some (old ||| x)
        | _ => if rs1 = 0 then none else some (old &&& ~~~x)
      match new with
      | none => .done (s.rvEnd c rd old next)
      | some v => match t.setCsr n v with
        | some t' => .done ((s.modTison c fun _ => t').rvEnd c rd old next)
        | none => .trap 2 w

/-- A base instruction of 32 bits, `len` bytes of which stand in memory. -/
def State.rvExec (s : State) (c w len : Nat) : RvRes :=
  let t := s.tisonCore c
  let rd := field w 11 7
  let f3 := field w 14 12
  let rs2 := field w 24 20
  let f7 := field w 31 25
  let a := t.reg (field w 19 15)
  let b := t.reg rs2
  let pc := t.pc
  let next := pc + BitVec.ofNat 64 len
  let imm := BitVec.ofInt 64 (toSigned 12 (field w 31 20))
  let done := fun (v : Word) => RvRes.done (s.rvEnd c rd v next)
  let opt := fun (v : Option Word) => match v with
    | some v => done v
    | none => .trap 2 w
  match field w 6 0 with
  | 0x37 => done (BitVec.ofInt 64 (toSigned 32 (field w 31 12 * 4096)))
  | 0x17 => done (pc + BitVec.ofInt 64 (toSigned 32 (field w 31 12 * 4096)))
  | 0x6F =>
    let off := toSigned 21 (field w 31 31 * 2 ^ 20 + field w 19 12 * 2 ^ 12 + field w 20 20 * 2 ^ 11 + field w 30 21 * 2)
    .done (s.rvEnd c rd next (pc + BitVec.ofInt 64 off))
  | 0x67 => if f3 = 0 then .done (s.rvEnd c rd next ((a + imm) >>> 1 <<< 1)) else .trap 2 w
  | 0x63 =>
    let off := toSigned 13 (field w 31 31 * 2 ^ 12 + field w 7 7 * 2 ^ 11 + field w 30 25 * 2 ^ 5 + field w 11 8 * 2)
    match rvTaken f3 a b with
    | some true => .done (s.rvEnd c 0 0 (pc + BitVec.ofInt 64 off))
    | some false => .done (s.rvEnd c 0 0 next)
    | none => .trap 2 w
  | 0x03 =>
    if f3 = 7 then .trap 2 w
    else
      let n := 2 ^ (f3 % 4)
      s.rvLoad c (a + imm) n fun u v =>
        u.rvEnd c rd (if f3 < 4 then BitVec.ofInt 64 (toSigned (8 * n) v) else BitVec.ofNat 64 v) next
  | 0x23 =>
    if 4 ≤ f3 then .trap 2 w
    else s.rvStore c (a + BitVec.ofInt 64 (toSigned 12 (f7 * 32 + rd))) (2 ^ f3) b fun u => u.rvEnd c 0 0 next
  | 0x13 =>
    if f3 = 1 ∧ f7 / 2 ≠ 0 ∨ f3 = 5 ∧ f7 / 2 ≠ 0 ∧ f7 / 2 ≠ 16 then .trap 2 w
    else done (rvAlu f3 (f3 == 5 && f7 / 2 == 16) a (if f3 = 1 ∨ f3 = 5 then BitVec.ofNat 64 (field w 25 20) else imm))
  | 0x1B =>
    if f3 = 1 ∧ f7 ≠ 0 ∨ f3 = 5 ∧ f7 ≠ 0 ∧ f7 ≠ 32 then .trap 2 w
    else opt (rvAluW f3 (f3 == 5 && f7 == 32) a (if f3 = 0 then imm else BitVec.ofNat 64 rs2))
  | 0x33 =>
    if f7 = 1 then opt ((rvMul 64 f3 a.toNat b.toNat).map (BitVec.ofInt 64))
    else if f7 = 0 ∨ (f7 = 32 ∧ (f3 = 0 ∨ f3 = 5)) then done (rvAlu f3 (f7 == 32) a b)
    else .trap 2 w
  | 0x3B =>
    if f7 = 1 then
      if f3 = 0 ∨ 4 ≤ f3 then opt ((rvMul 32 f3 (lo32 a).toNat (lo32 b).toNat).map fun x => sx32 (BitVec.ofInt 32 x)) else .trap 2 w
    else if f7 = 0 ∨ (f7 = 32 ∧ (f3 = 0 ∨ f3 = 5)) then opt (rvAluW f3 (f7 == 32) a b)
    else .trap 2 w
  | 0x2F => if f3 = 2 ∨ f3 = 3 then s.rvAtomic c (f7 / 4) (2 ^ f3) rs2 rd a b next w else .trap 2 w
  | 0x0F => if f3 ≤ 1 then .done (s.rvEnd c 0 0 next) else .trap 2 w
  | 0x73 => s.rvSystem c w pc next
  | _ => .trap 2 w

/-- A Tison core executes a base instruction of `len` bytes (R335): an exception of the architecture is taken as R337's are. -/
def State.rvStep (s : State) (c w len : Nat) : State :=
  let r := if len = 4 then s.rvExec c w 4 else match rvExpand w with
    | some x => s.rvExec c x 2
    | none => .trap 2 w
  match r with
  | .done u => u
  | .wait => s
  | .trap cause tval => s.tisonTrap c cause (s.tisonCore c).pc tval

end Sys2Proof.Machine
end

