-- ==== Sys2Proof/Machine/Step.lean ====
section
/-!
DEFINITION. One step: the next event of the agenda, or the next row of the opcode table that the module itself moves by,
the lane engines, the sequencers, the events that are due and the Tison cores taking turns (log entry 1).
-/
namespace Sys2Proof.Machine

/-- Time passes with a step (R377): a free number of ns (log entry 7). A snapshot whose tick has come is latched (R364). -/
def State.tick (s : State) : State := State.snapAtTick { s with now := s.now + Config.stepNs s.ticks, ticks := s.ticks + 1 }

/-- Time passes after a row. -/
def afterRow (o : Host.Outcome State Fault Refusal) : Host.Outcome State Fault Refusal :=
  match o with
  | .next s => .next s.tick
  | .fault f => .fault f
  | .refused r => .refused r

/-- Whether the focused fragment, which stands ready, issues if it is chosen: one that pops a pending entry, whose requests find no room, or whose
code or translation is missing is not ready (R91, R198, R219). -/
def State.wouldIssue (s : State) : Bool :=
  match s.fetchLane s.fr.pc.toNat with
  | .bytes bs => match decodeBytes .lane bs with
    | .ok i => match exec i s with
      | .next t => t.issueNo != s.issueNo
      | _ => true
    | .error _ => true
  | .bad _ _ => true
  | _ => false

/-- The names of the other fragments of the focused one's port that are ready (R91). -/
def State.readyPeers (s : State) : List FragRef :=
  (s.peers.map fun p => p.2.2.ref p.1 p.2.1).filter fun r => (s.focusRef r).wouldIssue

/-- Whether an instruction is `yield`. -/
def isYield : Instr → Bool
  | .yield => true
  | _ => false

/-- The focused fragment executes `i`. Where that is an issue, it is a cycle of its port, in which the other ready fragments are passed over (R92), and
takes its place in the cycle of the core's ports (R349). -/
def State.execLane (s : State) (i : Instr) : Host.Outcome State Fault Refusal :=
  match exec i ((s.passOver s.readyPeers (isYield i)).portIssue i) with
  | .next t => if t.issueNo = s.issueNo then exec i s else .next t
  | o => o

/-- The focused fragment fetches and executes its next instruction; a breakpoint comes first (R362), and a fetch that
misses parks the fragment (R219). -/
def runLane (s : State) : Host.Outcome State Fault Refusal :=
  if s.atBreakpoint then exec (.breakpoint s.fragRef) s
  else
    match s.fetchLane s.fr.pc.toNat with
    | .miss va => .next (s.fetchMiss va)
    | .fill line => .next (s.fetchLost line)
    | .bad c va => .next (s.fetchFault c va)
    | .bytes bs =>
      match decodeBytes .lane bs with
      | .ok i => s.execLane i
      | .error r => .next ((s.passOver s.readyPeers false).decodeFault r bs)

/-- The focused team's sequencer fetches and executes its next instruction (R231, R248); a page that is not resident makes
it wait (R219). Where the fetch itself faults, the record's WORD and MOP are 0 (R276 names no value; DESIGN CHOICE, log entry 68). -/
def runMatrix (s : State) : Host.Outcome State Fault Refusal :=
  match s.fetchMatrixWord with
  | .bytes bs =>
    match decodeBytes .matrix bs with
    | .ok i => exec i s
    | .error r => .next (s.seqFault (rejectCode r) 0 (ofBytes bs))
  | .miss va => .next (s.seqMiss va)
  | .fill line => .next (s.seqFill line)
  | .bad c va => .next (s.seqFault c va 0)

/-- Tison core `c` fetches and executes its next instruction: one of Olmir's four, or one of the base set (R335, R337). -/
def runTison (c : Nat) (s : State) : Host.Outcome State Fault Refusal :=
  match s.fetchTison c with
  | none => .next (s.tisonTrap c 1 (s.tisonCore c).pc (s.tisonCore c).pc.toNat)
  | some (w, len) =>
    if w % 128 = 0x0B then
      match decodeBytes .tison (toBytes 4 w) with
      | .ok i => exec i s
      | .error _ => .next (s.tisonTrap c 24 (s.tisonCore c).pc w)
    else .next (s.rvStep c w len)

/-- What the module does in the turn of one of its parts; nothing when that part has no work. -/
def takeTurn (t : Turn) (s : State) : Option (Host.Outcome State Fault Refusal) :=
  match t with
  | .lane => match s.pick with
    | some c => some (runLane { s.focusCand c with cur := .lane, turn := .matrix })
    | none => none
  | .matrix => match s.pickSeq with
    | some r => some (runMatrix { s.focusTeam r.core r.ctx with cur := .matrix, turn := .event })
    | none => none
  | .event => match s.nextDue with
    | some i => some (exec i { s.letGo i with cur := .none, turn := .tison })
    | none => none
  | .tison => match s.pickTison with
    | some c => some (runTison c { s with cur := .tison c, turn := .lane })
    | none => none

/-- The part whose turn follows. -/
def Turn.next : Turn → Turn
  | .lane => .matrix
  | .matrix => .event
  | .event => .tison
  | .tison => .lane

/-- The first part, from `t` on, that has work; with none, time passes. -/
def firstTurn : Nat → Turn → State → Host.Outcome State Fault Refusal
  | 0, _, s => .next s
  | n + 1, t, s => match takeTurn t s with
    | some o => o
    | none => firstTurn n t.next s

/-- Whether a doorbell comes before the host links have trained (R366). -/
def State.early (s : State) (i : Instr) : Bool := isDoorbell i && !(s.powered && s.opened)

/-- One step of the module. Without power only a module reset goes on; doorbells are held until the host links have trained, and a request waits
behind one that is held before it (R366, R370, R373, R375). -/
def step (s : State) : Host.Outcome State Fault Refusal :=
  match s.agenda with
  | i :: rest =>
    if i.encoded then .next { s with agenda := rest }.tick
    else if s.early i || (s.powered && s.queued i) then .next (State.hold { s with agenda := rest } i).tick
    else if !s.powered && !isReset i then .next { s with agenda := rest }.tick
    else afterRow (exec i { s with agenda := rest, cur := .none })
  | [] => if !s.powered then .fault .noPower else afterRow (firstTurn 4 s.turn s)

/-! ### Placing one instruction for the host's probe -/

/-- The launch record of the probe's launch: one team of one group, one of everything the instructions name. -/
def probeRecord : LaunchRec :=
  { LaunchRec.empty with
    cw := 1, ch := 1, nclus := 1, dies := 1, team := 1, frame := 64, stack := 64, acc := 16, cres := 4, spad := 786432,
    dspad := 65536, task := true, dcount := 64, wqmask := 0xFFFF, bars := List.replicate 16 (1, true),
    views := List.replicate 16 (List.replicate 16 0) }

/-- The probe's team: core 0, launch context 0, one group whose lane 0 is live, its code at virtual address 0x1000. -/
def probeTeam : Team :=
  let fr := { Frag.empty with mask := 1, pc := 0x1000, region := { Region.empty with entryPc := 0x1000, count := 64 } }
  let lanes := (List.range 32).map fun i =>
    if i = 0 then { Lane.empty 0 with live := true, slots := List.replicate 64 0, gen := genSeed 0 0 } else Lane.empty i
  { Team.empty with
    live := true, lp := probeRecord, gp := { Group.empty with lanes := lanes, fr := fr },
    acc := List.replicate 16 AccSlot.empty, seq := { Seq.empty with mpc := 0x1000, gen := genSeed 0 65535 },
    bars := List.replicate 16 { Barrier.empty with groups := 1, plusM := true } }

/-- The page that maps the probe's code. -/
def probePage : PageEntry :=
  { fn := 0, va := 0x1000, log2 := 12, pa := 0x1000, r := true, w := false, region := 1, owner := 0, resident := true, lost := false }

/-- The probe's launch context: running, with its team on core 0. -/
def probeCtx : LaunchCtx :=
  { LaunchCtx.empty with phase := .running, lp := probeRecord, map := [(0, 0)] }

/-- `s` with one instruction stored where the next step fetches: a launch of one team (log entry 12) whose fragment, or
whose sequencer, stands at the instruction, or a Tison core that does. -/
def State.withFetchWord (s : State) (nbits w : Nat) : State :=
  let w := w % 2 ^ nbits
  match tableStream nbits w with
  | .tison =>
    { s.putBytes 5 0 (toBytes 4 w) with
      agenda := [], turn := .tison,
      tison := s.tison.set 0 { Tison.reset with run := true } }
  | .lane =>
    let u := s.putBytes 0 0x1000 (toBytes 6 w)
    { u with
      agenda := [], turn := .lane, tm := probeTeam, teams := [], pages := [probePage], tlb := [(0, probePage)]
      icache := [{ core := 0, line := 0x1000 / 128, bytes := u.bytesAt 0 0x1000 128 }]
      ctxs := s.ctxs.set 0 probeCtx }
  | .matrix =>
    let u := s.putBytes 0 0x1000 (toBytes 8 w)
    { u with
      agenda := [], turn := .matrix
      tm := { probeTeam with seq := { probeTeam.seq with st := .run } }, teams := [], pages := [probePage], tlb := [(0, probePage)]
      icache := [{ core := 0, line := 0x1000 / 128, bytes := u.bytesAt 0 0x1000 128 }]
      ctxs := s.ctxs.set 0 probeCtx }

end Sys2Proof.Machine
end

