-- ==== Sys2Proof/Safety.lean ====
section
/-!
DEFINITION. What the claims speak of: a well-kept state, a fragment that issues afresh, what a lane, a fragment, a group and the
rest of the module show, and how an instruction may change them.
-/
namespace Sys2Proof.Machine

/-- The outcome is a next state, neither a fault nor a refusal. -/
def Goes (o : Host.Outcome State Fault Refusal) : Prop := ∃ t, o = .next t

/-- Every memory holds its canonical form. -/
def State.MemOk (s : State) : Prop :=
  Memory.wf s.mem = true ∧ Memory.wf s.scr = true ∧ Memory.wf s.dsp = true ∧ Memory.wf s.tcm = true

/-- The 32 lanes of the focused group stand in order (R81). -/
def State.LanesOk (s : State) : Prop := s.gp.lanes.map Lane.ix = List.range 32

/-- The focused fragment issues afresh: it waits for nothing, replays nothing, repeats nothing and stands in no loop
(R91, R168, R169, R194). -/
def State.Fresh (s : State) : Prop := s.fr.wait = .none ∧ s.fr.replay = none ∧ s.fr.rc = 0 ∧ s.fr.lc = 0

/-- The focused fragment is ready for its next instruction: it issues afresh, its group's lanes stand in order and some of them are
its own. -/
def State.Ready (s : State) : Prop := s.Fresh ∧ s.LanesOk ∧ s.fr.mask ≠ 0

/-- The stack entries that an instruction takes are there, none of them waits for a load or is poisoned, and what it pushes has
room (R83, R85, R86, R173, R222). -/
def State.Operands (s : State) (lane scalar : Use) : Prop :=
  s.stackFault lane scalar = none ∧ s.pendingTop false lane.reads = [] ∧ s.pendingTop true scalar.reads = [] ∧
    s.eccu false lane.reads = none ∧ s.eccu true scalar.reads = none

/-- The same, for an instruction of one domain. -/
def State.OperandsOf (s : State) (d : Bool) (u : Use) : Prop :=
  if d then s.Operands Use.none u else s.Operands u Use.none

/-- The values of a stack, the top first. -/
def vals (stk : List Entry) : List Word := stk.map (·.val)

/-- What a lane holds for its program (R81). -/
structure LaneRegs where
  ix    : Nat
  live  : Bool
  stk   : List Word
  slots : List Half
  bad   : List Nat
  preds : Byte
  lcw   : Half
  gen   : Half
  jcp   : Word
  jex   : Option Word
  deriving DecidableEq, Repr

def Lane.regs (l : Lane) : LaneRegs :=
  { ix := l.ix, live := l.live, stk := vals l.stk, slots := l.slots, bad := l.bad, preds := l.preds, lcw := l.lcw, gen := l.gen, jcp := l.jcp,
    jex := l.jex }

/-- What a fragment holds for its program besides its pc, its pts and its region (R81, R214). -/
structure FragRegs where
  mask   : Mask
  sstk   : List Word
  cpreds : Byte
  link   : List LinkEntry
  lc     : Half
  lb     : Word
  le     : Word
  rc     : Half
  wait   : Wait
  trap   : Option TrapRec
  fcode  : Half
  fpc    : Word
  fmask  : Half
  finfo  : Word
  deriving DecidableEq, Repr

def Frag.regs (f : Frag) : FragRegs :=
  { mask := f.mask, sstk := vals f.sstk, cpreds := f.cpreds, link := f.link, lc := f.lc, lb := f.lb, le := f.le, rc := f.rc,
    wait := f.wait, trap := f.trap, fcode := f.fcode, fpc := f.fpc, fmask := f.fmask, finfo := f.finfo }

/-- What a group holds for its program (R81). -/
structure GroupRegs where
  gix    : Nat
  gslot  : Nat
  lanes  : List LaneRegs
  fr     : FragRegs
  frs    : List FragRegs
  sslots : List Half
  seams  : List Seam
  deriving DecidableEq, Repr

def Group.regs (g : Group) : GroupRegs :=
  { gix := g.gix, gslot := g.gslot, lanes := g.lanes.map Lane.regs, fr := g.fr.regs, frs := g.frs.map Frag.regs, sslots := g.sslots,
    seams := g.seams }

/-- What the focused team holds beside its groups (R17, R230). -/
structure TeamRegs where
  core    : Nat
  ctx     : Nat
  vcore   : Nat
  cluster : Nat
  member  : Nat
  home    : Nat
  held    : Bool
  halting : Bool
  seed    : Half
  lp      : LaunchRec
  bars    : List Barrier
  xs      : List XSlot
  views   : List (List Half)
  vsets   : List VSet
  tabs    : List AlgTable
  acc     : List AccSlot
  phys    : List Nat
  seq     : Seq
  rings   : List Ring
  block   : List Nat
  lines   : List PocketLine
  queued  : List (Nat × List Kid)
  swapped : List (Nat × Group)
  resv    : List Nat
  deriving DecidableEq, Repr

def Team.regs (t : Team) : TeamRegs :=
  { core := t.core, ctx := t.ctx, vcore := t.vcore, cluster := t.cluster, member := t.member, home := t.home, held := t.held,
    halting := t.halting, seed := t.seed, lp := t.lp, bars := t.bars, xs := t.xs, views := t.views, vsets := t.vsets, tabs := t.tabs,
    acc := t.acc, phys := t.phys, seq := t.seq, rings := t.rings, block := t.block, lines := t.lines, queued := t.queued,
    swapped := t.swapped, resv := t.resv }

/-- Every byte of every memory reads as before. -/
def SameBytes (s t : State) : Prop := ∀ sp a, t.byteAt sp a = s.byteAt sp a

/-- What the module holds beside the focused team, its memories, time and the model's own fields. A launch context's causal debt, which
every issue may raise (R365), stands outside. -/
structure ModuleRegs where
  powered    : Bool
  recovery   : Bool
  fabricBy   : Nat
  opened     : Bool
  teams      : List Team
  ctxs       : List LaunchCtx
  queues     : List HostQueue
  signals    : BitVec 1024
  waiters    : List Waiter
  tison      : List Tison
  disabled   : List Nat
  failed     : List Nat
  gated      : List Nat
  stopReq    : Bool
  stopped    : Bool
  stepping   : Option Stepping
  jobs       : List Job
  copies     : List LaunchCtx
  fnLink     : List Nat
  absent     : List Nat
  poison     : List (Nat × Nat)
  stamps     : List Stamp
  pages      : List PageEntry
  l1         : List L1Copy
  scales     : List ScaleBlock
  icache     : List CodeLine
  tlb        : List (Nat × PageEntry)
  slotPages  : List SlotPages
  hostBias   : List Nat
  flipping   : List (Nat × Bool)
  biasJobs   : List BiasJob
  ops        : List EngineOp
  poolOps    : List PoolOp
  posted     : List Posted
  wqs        : List WorkQueue
  hlinks     : List HostLink
  flinks     : List FabricLink
  sessions   : List Session
  hostRead   : List Byte
  islands    : List Island
  cycles     : List CoreCycle
  rack       : RackCap
  trace      : Trace
  dbgLog     : List (Nat × List Byte)
  snap       : Option Snapshot
  snapSource : Bool
  snapTime   : Option Nat
  snapDue    : Option Nat
  frozen     : List (Nat × Island)
  dbgReply   : DebugReply
  fuses      : Fuses
  report     : Option Report
  mailbox    : List Byte
  errCount   : Nat
  drops      : Nat
  tests      : List (Nat × Nat × Bool)
  retired    : List Nat
  gone       : List Nat
  deadMem    : List Nat
  deriving Repr

/-- A launch context without its causal experiment. -/
def LaunchCtx.still (k : LaunchCtx) : LaunchCtx := { k with causal := none }

def State.moduleRegs (s : State) : ModuleRegs :=
  { powered := s.powered, recovery := s.recovery, fabricBy := s.fabricBy, opened := s.opened, teams := s.teams, ctxs := s.ctxs.map LaunchCtx.still, queues := s.queues,
    signals := s.signals, waiters := s.waiters, tison := s.tison, disabled := s.disabled, failed := s.failed, gated := s.gated,
    stopReq := s.stopReq, stopped := s.stopped, stepping := s.stepping, jobs := s.jobs, copies := s.copies, fnLink := s.fnLink,
    absent := s.absent, poison := s.poison, stamps := s.stamps, pages := s.pages, l1 := s.l1, scales := s.scales, icache := s.icache, tlb := s.tlb,
    slotPages := s.slotPages, hostBias := s.hostBias, flipping := s.flipping, biasJobs := s.biasJobs, ops := s.ops,
    poolOps := s.poolOps, posted := s.posted, wqs := s.wqs, hlinks := s.hlinks, flinks := s.flinks, sessions := s.sessions,
    hostRead := s.hostRead, islands := s.islands, cycles := s.cycles, rack := s.rack, trace := s.trace, dbgLog := s.dbgLog,
    snap := s.snap, snapSource := s.snapSource, snapTime := s.snapTime, snapDue := s.snapDue, frozen := s.frozen,
    dbgReply := s.dbgReply, fuses := s.fuses, report := s.report, mailbox := s.mailbox, errCount := s.errCount, drops := s.drops,
    tests := s.tests, retired := s.retired, gone := s.gone, deadMem := s.deadMem }

/-- The rest of the module is as before. -/
def SameModule (s t : State) : Prop := t.moduleRegs = s.moduleRegs

/-- The focused team is as before outside the focused group, which keeps its other fragments, its seams, LOST and `%seamrel`. -/
def SameTeam (s t : State) : Prop :=
  t.tm.regs = s.tm.regs ∧ t.tm.gs.map Group.regs = s.tm.gs.map Group.regs ∧ t.gp.frs.map Frag.regs = s.gp.frs.map Frag.regs ∧
    t.gp.seams = s.gp.seams ∧ t.gp.lost = s.gp.lost ∧ t.gp.seamrel = s.gp.seamrel

/-- The lanes after an instruction that changes each active one by `f` and no other. -/
def LanesBy (s t : State) (f : LaneRegs → LaneRegs) : Prop :=
  t.gp.lanes.map Lane.regs = s.gp.lanes.map fun l => if inMask s.fr.mask l.ix then f l.regs else l.regs

/-- The focused fragment goes on at `pc`, having entered no handler and waiting for nothing, with its registers changed by `f`. -/
def FragBy (s t : State) (pc : Word) (f : FragRegs → FragRegs) : Prop := t.fr.pc = pc ∧ t.fr.regs = f s.fr.regs

/-- An instruction of `len` bytes completes: the fragment goes on behind it, `fl` says what each active lane comes to and `ff`
what the fragment's registers come to; the scalar slots, all memory, the team and the rest of the module stay. -/
def Completes (len : Nat) (s t : State) (fl : LaneRegs → LaneRegs) (ff : FragRegs → FragRegs) : Prop :=
  FragBy s t (s.fr.pc + BitVec.ofNat 64 len) ff ∧ LanesBy s t fl ∧ t.gp.sslots = s.gp.sslots ∧ SameBytes s t ∧ SameTeam s t ∧
    SameModule s t

/-- A stack of values whose `n` top ones `f` replaces; `f` sees and gives them with the deepest first. -/
def restack (n : Nat) (f : List Word → List Word) (stk : List Word) : List Word :=
  (f (stk.take n).reverse).reverse ++ stk.drop n

/-- The lowest active lane's `%lcw` DRM and generator, which a scalar instruction rounds by (R130). -/
def State.lead (s : State) : Nat × Half :=
  match s.active with
  | [] => (0, 0)
  | l :: _ => (drmOf l.lcw, l.gen)

/-- A numeric instruction completes (R130): `f` gives results, flags and generator from DRM, generator and operands, in each
active lane or, with `d`, once for the fragment, whose flags then reach every active lane and whose generator is the lowest
one's. -/
def NumDone (len : Nat) (d : Bool) (n : Nat) (f : Nat → Half → List Word → NumOut) (s t : State) : Prop :=
  if d then
    let o := f s.lead.1 s.lead.2 (s.scalarArgs n)
    Completes len s t
      (fun l => { l with lcw := orFlags l.lcw o.fl, gen := if l.ix = lowestLane s.fr.mask then o.gen else l.gen })
      (fun r => { r with sstk := restack n (fun _ => o.vals) r.sstk })
  else
    Completes len s t
      (fun l =>
        let o := f (drmOf l.lcw) l.gen (l.stk.take n).reverse
        { l with stk := restack n (fun _ => o.vals) l.stk, lcw := orFlags l.lcw o.fl, gen := o.gen })
      (fun r => r)

/-- An instruction that sets no flag completes: it replaces the `n` top values of its domain by what `f` makes of them. -/
def PureDone (len : Nat) (d : Bool) (n : Nat) (f : List Word → List Word) (s t : State) : Prop :=
  Completes len s t (fun l => if d then l else { l with stk := restack n f l.stk })
    (fun r => if d then { r with sstk := restack n f r.sstk } else r)

/-- What a domain's instruction pops is there and what it pushes has room; poison does not matter to it (R83, R86, R132, R173). -/
def State.RoomOf (s : State) (d : Bool) (u : Use) : Prop :=
  s.stackFault (if d then Use.none else u) (if d then u else Use.none) = none

/-- The focused fragment waits for nothing and replays nothing, its group's lanes stand in order and some of them are its own; it
may stand in a loop or a repeat. -/
def State.Awake (s : State) : Prop := s.fr.wait = .none ∧ s.fr.replay = none ∧ s.LanesOk ∧ s.fr.mask ≠ 0

/-- No other fragment of the group is held at a cross-lane operation at the same address (R174). -/
def State.AloneAtPc (s : State) : Prop :=
  ∀ f ∈ s.gp.frs, f.pc = s.fr.pc → ∀ m, f.wait ≠ .xlane m

/-- The values on the stack of the group's lane `i`, the top first. -/
def State.laneVals (s : State) (i : Nat) : List Word := vals ((s.gp.lanes.getD i (Lane.empty i)).stk)

/-- A split's detached fragment holds the registers of the one it came from, with its own lanes and no fault (R94; log entry 15). -/
def FragRegs.fresh (r : FragRegs) (m : Mask) : FragRegs := { r with mask := m, fcode := 0, fpc := 0, fmask := 0, finfo := 0 }

/-- The fragment goes on at `pc`; `fl` says what each active lane comes to and `ff` what the fragment's registers come to; the
scalar slots, all memory, the team and the rest of the module stay. -/
def GoesTo (pc : Word) (s t : State) (fl : LaneRegs → LaneRegs) (ff : FragRegs → FragRegs) : Prop :=
  FragBy s t pc ff ∧ LanesBy s t fl ∧ t.gp.sslots = s.gp.sslots ∧ SameBytes s t ∧ SameTeam s t ∧ SameModule s t

/-- An instruction of `len` bytes completes and changes the scalar slots by `fs`. -/
def SlotDone (len : Nat) (s t : State) (fl : LaneRegs → LaneRegs) (ff : FragRegs → FragRegs) (fs : List Half → List Half) : Prop :=
  FragBy s t (s.fr.pc + BitVec.ofNat 64 len) ff ∧ LanesBy s t fl ∧ t.gp.sslots = fs s.gp.sslots ∧ SameBytes s t ∧ SameTeam s t ∧
    SameModule s t

/-- A SPLIT (R94): the focused fragment goes on with `kept` at `kpc`, a new one joins the group with `off` at `opc`, and nothing
else changes. -/
def SplitDone (s t : State) (kept : FragRegs) (kpc : Word) (off : FragRegs) (opc : Word) : Prop :=
  t.fr.regs = kept ∧ t.fr.pc = kpc ∧ t.gp.frs.map Frag.regs = s.gp.frs.map Frag.regs ++ [off] ∧
    t.gp.frs.map Frag.pc = s.gp.frs.map Frag.pc ++ [opc] ∧ LanesBy s t id ∧ t.gp.sslots = s.gp.sslots ∧ SameBytes s t ∧
    t.tm.regs = s.tm.regs ∧ t.tm.gs.map Group.regs = s.tm.gs.map Group.regs ∧ t.gp.seams = s.gp.seams ∧ t.gp.lost = s.gp.lost ∧
    t.gp.seamrel = s.gp.seamrel ∧ SameModule s t

/-- What the cross-lane operations that name their members take from the lane stack and the scalar one (R149). -/
def crossUse : Instr → Option (Use × Use)
  | .perm _ => some (.of 3 1, .of 1 0)
  | .bcast _ => some (.of 1 1, .of 2 0)
  | .vote .. => some (.of 1 0, .of 1 0)
  | .ballot => some (.of 1 0, .of 1 1)
  | .red .. => some (.of 1 1, .of 1 0)
  | .scan .. => some (.of 1 1, .of 1 0)
  | _ => none

/-- A live team, group and fragment stand in focus. -/
def State.Placed (s : State) : Prop := s.tm.live = true ∧ s.gp.alive = true ∧ s.fr.mask ≠ 0

/-- Every access of a memory instruction passes its checks now, and the core has room for its requests (R189, R190, R198). -/
def State.Reaches (s : State) (m : MemOp) : Prop :=
  let c := s.checkAll m (s.reqs m (s.todoOf m))
  c.bad = none ∧ c.wait = [] ∧ c.miss = [] ∧ (c.requests m = 0 ∨ s.coreRequests s.tm.core + c.requests m ≤ 1024)

/-- Where an access with base address `base` lies. -/
def State.spotAt (s : State) (m : MemOp) (base : Word) : Option Spot :=
  match s.checkAddr m.acc m.sp m.size (m.address base).toNat with
  | .good x => some x
  | _ => none

/-- What one lane, or the fragment, stores. -/
structure StoreTo where
  sp    : Nat
  key   : Nat
  host  : Bool
  bytes : List Byte

/-- The stores of a memory instruction, the lanes ascending: each one's place, from the address the instruction itself forms, and its
bytes (R189, R191). -/
def State.stored (s : State) (m : MemOp) : List StoreTo :=
  (s.reqs m (s.todoOf m)).filterMap fun r =>
    match s.checkAddr m.acc m.sp m.size r.addr.toNat with
    | .good x => some { sp := x.sp, key := x.key, host := x.host, bytes := toBytes m.size r.a.toNat }
    | _ => none

/-- The byte at `a` of space `k` after a store, where it was `b`. -/
def StoreTo.put (w : StoreTo) (k a : Nat) (b : Byte) : Byte :=
  if w.sp = k ∧ w.key ≤ a ∧ a < w.key + w.bytes.length then w.bytes.getD (a - w.key) 0 else b

/-- The state with its memories, their stamps, and what an access leaves in the L1 and the last-page registers as they were in `s`
(R66, R197). -/
def State.unwritten (t s : State) : State :=
  { t with
    mem := s.mem, scr := s.scr, dsp := s.dsp, tcm := s.tcm, stamps := s.stamps, l1 := s.l1, slotPages := s.slotPages }

/-- Atomic accesses of `size` bytes one after the other on bytes that `rd` gives: what each lane's access found, and the bytes after all of
them (R199). -/
def atomFold (op : AtomOp) (size : Nat) : (Nat → Nat → Byte) → List (Req × Spot) → List (Nat × Nat) × (Nat → Nat → Byte)
  | rd, [] => ([], rd)
  | rd, (r, x) :: rest =>
    let old := ofBytes ((List.range size).map fun i => rd x.sp (x.key + i))
    let new := toBytes size (atomResult op (8 * size) old (r.a.toNat % 2 ^ (8 * size)) (r.b.toNat % 2 ^ (8 * size)))
    let after := atomFold op size (fun k a => if k = x.sp ∧ x.key ≤ a ∧ a < x.key + size then new.getD (a - x.key) 0 else rd k a) rest
    ((r.ix, old) :: after.1, after.2)

/-- A team without its list of outstanding operations. -/
def Team.noOuts (t : Team) : Team := { t with outs := [] }

/-- Slots with bytes stored from slice offset `off` on (R87, R136). -/
def sliceStore (slots : List Half) (off : Nat) : List Byte → List Half
  | [] => slots
  | b :: bs =>
    let sh := 8 * (off % 4)
    let v := (slots.getD (off / 4) 0 &&& ~~~((0xFF : Half) <<< sh)) ||| ((b.setWidth 32 : Half) <<< sh)
    sliceStore (slots.set (off / 4) v) (off + 1) bs

/-- Every die's range tables have room for two more ranges (R14, R72). -/
def State.TablesOpen (s : State) : Prop := ∀ d < 4, (s.ops.map fun o => o.entries d).sum + 2 ≤ 512

/-- The state with the engine operations, the presence of lines and the islands' collars as they were in `s`. -/
def State.unregistered (t s : State) : State := { t with ops := s.ops, absent := s.absent, islands := s.islands }

/-- The operation `o` has left the tables, a scratchpad line that it alone was to write is present, and the other operations, the pages
and the rest that no engine touches stay. -/
def State.opGone (s : State) (o : EngineOp) (t : State) : Prop :=
  t.ops.map EngineOp.id = (s.ops.map EngineOp.id).filter (fun i => i != o.id) ∧
    (∀ p ∈ o.dst, ∀ x ∈ p.scrLines, (∀ e ∈ s.ops, e.id ≠ o.id → e.writesLine x = false) → x ∉ t.absent) ∧ t.pages = s.pages ∧
    t.queues = s.queues ∧ t.sessions = s.sessions ∧ t.gp = s.gp ∧ t.tm.views = s.tm.views ∧ t.tm.vsets = s.tm.vsets ∧ t.tm.acc = s.tm.acc

/-- A tile has been loaded into the packed range of `o` in its team's scratchpad: each place of the tile holds the view's element
where that is valid and zero elsewhere, and a byte outside the packed tile and its padding to the line's end reads as before
(R281, R284). -/
def TileLoaded (s t : State) (o : EngineOp) : Prop :=
  let v := viewOf o.view
  let first := scrKey o.team.core o.team.ctx o.paddr
  let die := s.opDie o
  (∀ r < v.th, ∀ c < v.tw, ∀ q, s.packedPlace o r c = some q →
    (t.readElem die q.1 q.2 v.nibs).1 = match s.elemPlace o r c with
      | some p => if v.valid o.tile r c then (s.readElem die p.1 p.2 v.nibs).1 else 0
      | none => 0) ∧
  (∀ a, ¬ (first ≤ a ∧ a < first + (v.tileBytes + 127)) → t.byteAt 2 a = s.byteAt 2 a) ∧
  ∀ k ∈ [0, 4, 5], ∀ a, t.byteAt k a = s.byteAt k a

/-! ### The matrix stream -/

/-- The state with the focused sequencer, the count of issues and the record of a step as they were in `s`. -/
def State.seqBack (t s : State) : State :=
  { t with tm := { t.tm with seq := s.tm.seq }, stepping := s.stepping, seqNo := s.seqNo }

/-- An instruction of the matrix stream leaves the focused sequencer as `q` and changes nothing else. -/
def SeqDone (s t : State) (q : Seq) : Prop :=
  t.tm.seq = { q with since := t.tm.seq.since, waitNs := t.tm.seq.waitNs } ∧ t.seqBack s = s

/-- The state with what a matrix operation may change as it was in `s`: the sequencer, accumulator slots, tables, rings, memory and
stamps, and the core's scale cache (R238). -/
def State.opBack (t s : State) : State :=
  let u := (t.seqBack s).unwritten s
  { u with scales := s.scales, tm := { u.tm with acc := s.tm.acc, tabs := s.tm.tabs, rings := s.tm.rings } }

/-- An operation has completed and the sequencer, which `q` describes, goes on at the next instruction; its pts may have risen (R233,
R272). -/
def OpDone (s t : State) (q : Seq) : Prop :=
  t.tm.seq = { q.goTo (q.mpc + 8) with
    since := t.tm.seq.since, waitNs := t.tm.seq.waitNs, pts := t.tm.seq.pts, took := none, flight := none, array := false,
    units := 0 } ∧
    s.tm.seq.pts ≤ t.tm.seq.pts ∧ t.opBack s = s

/-- The matrix side holds accumulator slot `n` of the team's share (R235). -/
def State.HasSlot (s : State) (n : Nat) : Prop := n < s.tm.acc.length ∧ (s.accSlot n).tok = .mat

/-- The array is free and the collar of the core's island has room for `units` (R232, R349). -/
def State.ArrayFree (s : State) (units : Nat) : Prop :=
  s.arrayBusy = false ∧ (s.islandAt (islandOf s.tm.core)).cq = [] ∧ (s.islandAt (islandOf s.tm.core)).fits units = true

/-- The state as an operation on the regions `xs` reads it: with the blocks of lining that its core's scale cache serves it (R238). -/
def State.lined (s : State) (xs : List Tile) : State := s.withScales (s.scalesFor xs)

/-- Every element and lining entry of the regions `xs` and every accumulator slot of `ns` can be reached now: in its space, aligned, present,
outside every engine range and test, mapped, and, where it is read, as the slots `rs` are, with a lining that names a format and without
error (R238, R273, R275). -/
def State.TilesIn (s : State) (xs : List Tile) (ns rs : List Nat) : Prop :=
  let u := s.lined xs
  s.tileFault xs = none ∧ s.linesWait (linesOf (u.readPlaces xs)) (linesOf (u.writePlaces xs)) = false ∧ s.slotsWait ns = false ∧
    s.scalesWait xs = false ∧ s.liningMiss xs = [] ∧ s.liningFault xs = none ∧
    ((xs.filter fun x => !x.wr).findSome? u.grainFault) = none ∧
    s.poisonFault (s.scalesFor xs) (u.readPlaces xs ++ u.rereadPlaces xs) = none ∧ s.slotsBad rs = none

/-- The `n` bytes at a view's BASE can be read now, and are `bs` (R256, R257). -/
def State.BaseIn (s : State) (v : TileView) (n : Nat) (bs : List Byte) : Prop :=
  let rd := (List.range n).filterMap fun i => (s.myPlace v.sp (v.base + i)).map fun p => (p, v.base + i)
  s.tm.tileSpace v.sp v.base n = true ∧ s.linesWait (linesOf rd) [] = false ∧ s.poisonFault [] rd = none ∧
    bs = rd.map fun p => s.seenByte (dieOf s.tm.core) p.1.1 p.1.2

/-- The bytes `ws` are written, a later one over an earlier one at its place, and every other byte reads as before. -/
def PutAll (s t : State) (ws : List ByteWrite) : Prop :=
  ∀ sp a, t.byteAt sp a = match ws.reverse.find? fun w => w.sp == sp && w.key == a with
    | some w => w.val
    | none => s.byteAt sp a

/-- A tile after a product over the region `m` by `n` of dimension `d` (R55, R57, R253, R259): component `c` of cell (i, j) is its
start, +0 with ZERO, with one chunk after the other added; every other element stays. -/
def Multiplied (x : Shape) (m n d chunk : Nat) (tab : AlgTable) (a b : Factor) (old new : List Half) : Prop :=
  (∀ i j c, i < m → j < n → c < d → n * d ≤ 64 → cell new i (j * d + c) =
    (List.range (4 * x.kq / chunk)).foldl (fun acc q => addChunk acc ((List.range chunk).flatMap fun e =>
      if x.alg = 0 then [mulV (a.val i (q * chunk + e) 0) (b.val (q * chunk + e) j 0)]
      else algTerms tab.bytes d x.rev c (a.val i (q * chunk + e)) (b.val (q * chunk + e) j)))
      (if x.zero then 0 else cell old i (j * d + c)) % 2 ^ 32) ∧
  ∀ r c, r < 64 → c < 64 → ¬(r < m ∧ c < n * d) → cell new r c = cell old r c

/-- The dump of a sequencer fault: the identity fields of a trace record, then the record of R276 (R276, R356). -/
def State.faultDump (s : State) (c : Code) (detail word : Nat) : List Byte :=
  let k := s.ctxs.getD s.tm.ctx LaunchCtx.empty
  toBytes 2 (matrixEngine s.tm.core) ++ [0, BitVec.ofNat 8 k.queue] ++ toBytes 4 k.seqno.toNat ++ toBytes 8 0 ++
    (toBytes 1 (codeNum c) ++ toBytes 1 (word / 4 % 64) ++ toBytes 2 (matrixEngine s.tm.core) ++ toBytes 4 0 ++
      toBytes 8 s.tm.seq.mpc.toNat ++ toBytes 8 word ++ toBytes 8 detail)

/-- A sequencer fault (R245, R276, R305): the context goes to FAULT; the tasks that the team runs are FAULTED; the dump is logged and goes
behind the earlier ones of the debug area, where that has room, each byte where a resident page maps it; the launch stops with this fault unless
an earlier one stands; and nothing else but the written lines' stamps and the records on their way to the trace unit changes. -/
def SeqFaulted (s t : State) (c : Code) (detail word : Nat) : Prop :=
  let e := matrixEngine s.tm.core
  let k := s.ctxs.getD s.tm.ctx LaunchCtx.empty
  let bs := s.faultDump c detail word
  let u := s.faultTasks s.teamRef (codeNum c) e fun w => s.physOf s.ctx.fn w.toNat
  let room := k.copy.isNone && decide (k.dbgNext + 48 ≤ 65536)
  t.tm.seq = { s.tm.seq with st := .fault, since := t.tm.seq.since, waitNs := t.tm.seq.waitNs } ∧
    t.dbgLog = s.dbgLog ++ [(s.tm.ctx, bs)] ∧
    t.mem = (if room then (u.putVirtual k.fn (k.dbgArea.toNat + k.dbgNext) bs).mem else u.mem) ∧
    t.ctxs = u.ctxs.modify s.tm.ctx (fun k => { k with
      phase := .stopping
      dbgNext := if room then k.dbgNext + 48 else k.dbgNext
      fatal := some (Fatal.first k.fatal
        { status := 1, code := codeNum c, engine := e, detail := 0, tick := s.ticks, place := seqPlace s.tm.core }) }) ∧
    { t.seqBack s with dbgLog := s.dbgLog, ctxs := s.ctxs, mem := s.mem, stamps := s.stamps, traceq := s.traceq } = s

/-- The instruction raises a sequencer fault. -/
def SeqFaults (i : Instr) (s : State) (c : Code) (detail : Nat) : Prop :=
  ∃ t, exec i s = .next t ∧ SeqFaulted s t c detail (wordOf i)

/-- The instruction waits in `st`: MPC stays, and nothing else changes. -/
def SeqWaits (i : Instr) (s : State) (st : SeqState) : Prop := ∃ t, exec i s = .next t ∧ SeqDone s t { s.tm.seq with st := st }

/-! ### Registers -/

/-- Reserved and read-only register bits read 0, an enabled ring has a size that R338 and R357 allow, CAP is not 0, and a requested
point is none of the reserved ratio (R5, R330, R338, R345, R353, R357, R362). -/
def State.RegsOk (s : State) : Prop :=
  (∀ q ∈ s.queues, q.cbase &&& 0xFFF = 0 ∧ q.rbase &&& 0xFFF = 0 ∧ (q.en = true → 4 ≤ q.log2.toNat ∧ q.log2.toNat ≤ 12)) ∧
  (∀ x ∈ s.sessions, x.sctl &&& 0x72000000 = 0 ∧ x.scnt.toNat < 2 ^ 17 ∧ x.sroute.toNat < 2 ^ 9) ∧
  (∀ k ∈ s.ctxs, ∀ w ∈ k.wctl, w &&& 0xFFFFE08C = 0) ∧
  (∀ x ∈ s.islands, x.cap ≠ 0 ∧ x.target.toNat < 24 ∧ x.req.toNat < 24) ∧
  s.trace.base &&& 0xFFF = 0 ∧ s.trace.kinds &&& 0x800FF = 0 ∧ (s.trace.en = true → 12 ≤ s.trace.log2.toNat ∧ s.trace.log2.toNat ≤ 30)

/-! ### Events -/

/-- The state with the stamps and the Tison cores, which a read of Tison's raises (R66), as they were in `s`. -/
def State.unread (t s : State) : State := { t with stamps := s.stamps, tison := s.tison }

/-- The Tison cores are the same but for their pts. -/
def SameCores (s t : State) : Prop := t.tison.map (fun x => { x with pts := 0 }) = s.tison.map fun x => { x with pts := 0 }

/-- The state with the records on their way to the trace unit as they were in `s` (R356). -/
def State.untraced (t s : State) : State := { t with traceq := s.traceq }

/-- A Tison core's instruction completes: `rd` receives `v`, x0 discards it, and the core goes on at the next word (R335, R336). -/
def Tison.done (x : Tison) (rd : Nat) (v : Word) : Tison :=
  { x with regs := if rd = 0 then x.regs else x.regs.set rd v, pc := x.pc + 4, asleep := false }

/-- A Tison core takes a machine-mode trap (R337). -/
def Tison.trapped (x : Tison) (cause tval : Nat) : Tison :=
  { x with mcause := BitVec.ofNat 64 cause, mepc := x.pc, mtval := BitVec.ofNat 64 tval, pc := x.mtvec, asleep := false,
           mstatus := if x.mstatus.getLsbD 3 then 0x80 else 0 }

/-- The state with the Tison core `c` changed. -/
def State.withTison (s : State) (c : Nat) (f : Tison → Tison) : State := { s with tison := s.tison.modify c f }

/-- The command `c` of operation `op` stands at the head of queue `q` and may start (R339, R340). -/
def State.CommandAt (s : State) (q op : Nat) (c : List Byte) : Prop := s.headCmd q (fun x => x == op) = some c ∧ s.headerBad c = none

/-- The state in which the head command of queue `q` has started and completed with this completion; the queue goes on (R339,
R342). -/
def State.ended (s : State) (q : Nat) (c : Completion) : State :=
  { s with queues := s.queues.modify q fun h => { h with
      fetched := h.fetched.drop 1, order := h.order.drop 1, blocked := false, comps := h.comps ++ [c] } }

/-- The completion of a command: its SEQ and signal with a status, a code and a detail (R342). -/
def completion (c : List Byte) (status code detail : Nat) : Completion :=
  { seq := BitVec.ofNat 32 (cmdNat c 4 4), status := status, code := code, engine := 0, detail := BitVec.ofNat 64 detail,
    sig := (cmdSig c).filter fun n => decide (n < 1024) }

/-- An error record stands at its place in the ring, whose other bytes read as before; a full ring counts the record that it lost
(R374). -/
def ErrorAdded (s t : State) (pa engine kind result : Nat) : Prop :=
  let key := errorKey s.errCount
  t.bytesAt 5 key 32 = toBytes 8 s.now ++ toBytes 8 pa ++ toBytes 2 engine ++ toBytes 1 kind ++ toBytes 1 result ++ List.replicate 12 0 ∧
    (∀ a, ¬(key ≤ a ∧ a < key + 32) → t.byteAt 5 a = s.byteAt 5 a) ∧ t.errCount = s.errCount + 1 ∧
    t.drops = if s.errCount < 1024 then s.drops else s.drops + 1

/-- A launch has been admitted to context `c` on `cores` (R28, R29, R210): the context runs, names its teams' cores, and each core
holds a live team of it, with its record, its virtual core number and every group at the entry address. -/
def State.admitted (t : State) (k : LaunchCtx) (c : Nat) (cores : List Nat) : Prop :=
  (t.ctxs.getD c LaunchCtx.empty).phase = .running ∧ (t.ctxs.getD c LaunchCtx.empty).lp = k.lp ∧
    (t.ctxs.getD c LaunchCtx.empty).map = cores.mapIdx (fun v m => (v, m)) ∧
    ∀ v core, cores[v]? = some core → ∃ m ∈ t.tm :: t.teams, m.live = true ∧ m.core = core ∧ m.ctx = c ∧ m.vcore = v ∧ m.lp = k.lp ∧
      (m.gp :: m.gs).length = k.lp.team ∧ (∀ g ∈ m.gp :: m.gs, g.fr.pc = k.lp.entry) ∧ m.seq.st = .halted ∧
      (∀ a ∈ m.acc, a = AccSlot.empty) ∧ m.acc.length = k.lp.acc

end Sys2Proof.Machine
end

