-- ==== Sys2Proof/Certificates/Slice0/Obligations.lean ====
section
/-!
DEFINITION. The statements for the provers. Each says of rules R<n> of spec/ what the model makes of them. A statement of an
instruction's effect concludes that `exec` answers a next state, for every state and operands that meet hypotheses on the state
and the operands alone, and what that state holds and keeps.
-/
open Sys2Proof Sys2Proof.Machine

/-! ### Lane stream: stack, literals, arithmetic -/

/-- R133, R134: the stack instructions move whole entries and leave the rest of the machine alone. -/
def Obligations.StackMovesComplete : Prop :=
  ∀ (s : State) (d : Bool) (n : BitVec 11), s.Ready →
    (s.RoomOf d ⟨1, 0, 1⟩ → ∃ t, exec (.dup d) s = .next t ∧ PureDone 2 d 1 (fun x => x ++ x) s t) ∧
    (s.RoomOf d (.of 1 0) → ∃ t, exec (.drop d) s = .next t ∧ PureDone 2 d 1 (fun _ => []) s t) ∧
    (s.RoomOf d (.of 2 2) → ∃ t, exec (.swap d) s = .next t ∧ PureDone 2 d 2 (fun x => [arg x 1, arg x 0]) s t) ∧
    (s.RoomOf d ⟨2, 0, 1⟩ → ∃ t, exec (.over d) s = .next t ∧ PureDone 2 d 2 (fun x => [arg x 0, arg x 1, arg x 0]) s t) ∧
    (s.RoomOf d (.of 3 3) → ∃ t, exec (.rot d) s = .next t ∧ PureDone 2 d 3 (fun x => [arg x 1, arg x 2, arg x 0]) s t) ∧
    (s.RoomOf d (.of 2 1) → ∃ t, exec (.nip d) s = .next t ∧ PureDone 2 d 2 (fun x => [arg x 1]) s t) ∧
    (s.RoomOf d (.of 0 1) → ∃ t, exec (.depth d) s = .next t ∧
      PureDone 2 d 0 (fun _ => [BitVec.ofNat 64 (s.depthOf d)]) s t) ∧
    (s.RoomOf false (.of 0 1) → ∃ t, exec .lane s = .next t ∧
      Completes 2 s t (fun l => { l with stk := BitVec.ofNat 64 l.ix :: l.stk }) id) ∧
    (∃ t, exec .nop s = .next t ∧ Completes 2 s t id id) ∧
    (s.RoomOf d ⟨n.toNat + 1, 0, 1⟩ → ∃ t, exec (.pick n d) s = .next t ∧
      PureDone 6 d (n.toNat + 1) (fun x => x ++ x.take 1) s t) ∧
    (s.RoomOf d ⟨n.toNat + 1, n.toNat + 1, n.toNat + 1⟩ → ∃ t, exec (.roll n d) s = .next t ∧
      PureDone 6 d (n.toNat + 1) (fun x => x.drop 1 ++ x.take 1) s t)

/-- R133, R137, R150: literals are sign-extended, `lith` replaces a high half, `s2l` copies the scalar top, once it has arrived, into the
lanes, and `sel` takes the deeper operand where its guard holds. -/
def Obligations.LiteralsAndSelectionComplete : Prop :=
  ∀ (s : State) (d : Bool) (i26 : BitVec 26) (i32 : BitVec 32) (ty : Ty) (g : Guard), s.Ready →
    (s.RoomOf d (.of 0 1) →
      (∃ t, exec (.lit d i26) s = .next t ∧ PureDone 4 d 0 (fun _ => [i26.signExtend 64]) s t) ∧
      (∃ t, exec (.lit32 d i32) s = .next t ∧ PureDone 6 d 0 (fun _ => [i32.signExtend 64]) s t)) ∧
    (s.OperandsOf d (.of 1 1) → ∃ t, exec (.lith d i32) s = .next t ∧
      PureDone 6 d 1 (fun x => [join32 (lo32 (arg x 0)) i32]) s t) ∧
    (s.stackFault (.of 0 1) (.of 1 0) = none → s.pendingTop true 1 = [] → ∃ t, exec .s2l s = .next t ∧
      Completes 2 s t (fun l => { l with stk := (vals s.fr.sstk).headD 0 :: l.stk }) (fun r => { r with sstk := r.sstk.tail })) ∧
    (s.OperandsOf d (.of 2 1) → ∃ t, exec (.sel ty g d) s = .next t ∧
      if d then
        PureDone 6 true 2 (fun x => [typed ty (arg x (if predBit s.fr.cpreds g.p.val != g.neg then 0 else 1))]) s t
      else
        Completes 6 s t (fun l => { l with
          stk := restack 2 (fun x => [typed ty (arg x (if predBit l.preds g.p.val != g.neg then 0 else 1))]) l.stk }) id)

/-- R138, R139, R140: integer arithmetic is exact and then narrowed to the type, wrapped or saturated; division truncates toward
zero and gives all ones for a zero divisor. -/
def Obligations.IntegerArithmeticCompletes : Prop :=
  ∀ (s : State) (d : Bool) (md : Rm) (ty : Ty), s.Ready → ty.isInt = true → md.isInt = true →
    let a := fun (x : List Word) k => intOf ty (arg x k)
    (s.OperandsOf d (.of 2 1) →
      (∃ t, exec (.add md ty d) s = .next t ∧ PureDone 2 d 2 (fun x => [narrow ty md (a x 0 + a x 1)]) s t) ∧
      (∃ t, exec (.sub md ty d) s = .next t ∧ PureDone 2 d 2 (fun x => [narrow ty md (a x 0 - a x 1)]) s t) ∧
      (∃ t, exec (.mul md ty d) s = .next t ∧ PureDone 2 d 2 (fun x => [narrow ty md (a x 0 * a x 1)]) s t) ∧
      (∃ t, exec (.mulhi ty d) s = .next t ∧
        PureDone 2 d 2 (fun x => [narrow ty .rne (a x 0 * a x 1 / (2 ^ widthOf ty : Nat))]) s t) ∧
      (∃ t, exec (.div .rne ty d) s = .next t ∧ PureDone 2 d 2 (fun x =>
        [if a x 1 = 0 then place ty (2 ^ widthOf ty - 1) else narrow ty .rne ((a x 0).tdiv (a x 1))]) s t) ∧
      (∃ t, exec (.rem ty d) s = .next t ∧ PureDone 2 d 2 (fun x =>
        [if a x 1 = 0 then typed ty (arg x 0) else narrow ty .rne ((a x 0).tmod (a x 1))]) s t) ∧
      (∃ t, exec (.min ty d) s = .next t ∧
        PureDone 2 d 2 (fun x => [typed ty (arg x (if a x 0 ≤ a x 1 then 0 else 1))]) s t) ∧
      (∃ t, exec (.max ty d) s = .next t ∧
        PureDone 2 d 2 (fun x => [typed ty (arg x (if a x 0 ≤ a x 1 then 1 else 0))]) s t)) ∧
    (s.OperandsOf d (.of 1 1) →
      (∃ t, exec (.neg md ty d) s = .next t ∧ PureDone 2 d 1 (fun x => [narrow ty md (-a x 0)]) s t) ∧
      (∃ t, exec (.abs md ty d) s = .next t ∧ PureDone 2 d 1 (fun x => [narrow ty md |a x 0|]) s t)) ∧
    (s.OperandsOf d (.of 3 1) → ∃ t, exec (.clamp ty d) s = .next t ∧
      PureDone 2 d 3 (fun x => [narrow ty .rne (min (max (a x 0) (a x 1)) (a x 2))]) s t)

/-- R130, R141, R142, R143: float arithmetic rounds once by MD, element by element, and sets its flags in the lanes; choices set NV
for a signalling operand, sign operations set nothing. -/
def Obligations.FloatArithmeticCompletes : Prop :=
  ∀ (s : State) (d : Bool) (md : Rm) (ty : Ty), s.Ready → ty.isFloat = true →
    (s.OperandsOf d (.of 2 1) →
      (∃ t, exec (.add md ty d) s = .next t ∧
        NumDone 2 d 2 (floatOp ty md fun fmt m u vs => addF fmt m u (fv vs 0) (fv vs 1)) s t) ∧
      (∃ t, exec (.sub md ty d) s = .next t ∧
        NumDone 2 d 2 (floatOp ty md fun fmt m u vs => addF fmt m u (fv vs 0) (fv vs 1).negate) s t) ∧
      (∃ t, exec (.mul md ty d) s = .next t ∧
        NumDone 2 d 2 (floatOp ty md fun fmt m u vs => mulF fmt m u (fv vs 0) (fv vs 1)) s t) ∧
      (∃ t, exec (.div md ty d) s = .next t ∧
        NumDone 2 d 2 (floatOp ty md fun fmt m u vs => divF fmt m u (fv vs 0) (fv vs 1)) s t) ∧
      (∃ t, exec (.min ty d) s = .next t ∧
        NumDone 2 d 2 (floatOp ty .rne fun fmt _ _ vs => chosenF fmt [fv vs 0, fv vs 1] (minF (fv vs 0) (fv vs 1))) s t) ∧
      (∃ t, exec (.max ty d) s = .next t ∧
        NumDone 2 d 2 (floatOp ty .rne fun fmt _ _ vs => chosenF fmt [fv vs 0, fv vs 1] (maxF (fv vs 0) (fv vs 1))) s t) ∧
      (∃ t, exec (.copysign ty d) s = .next t ∧
        PureDone 2 d 2 (bitsOp ty fun fmt vs => vs.getD 0 0 % fmt.signW + vs.getD 1 0 / fmt.signW * fmt.signW) s t)) ∧
    (s.OperandsOf d (.of 3 1) →
      (∃ t, exec (.fma md ty d) s = .next t ∧
        NumDone 2 d 3 (floatOp ty md fun fmt m u vs => fmaF fmt m u (fv vs 0) (fv vs 1) (fv vs 2)) s t) ∧
      (∃ t, exec (.clamp ty d) s = .next t ∧
        NumDone 2 d 3 (floatOp ty .rne fun fmt _ _ vs => chosenF fmt vs (minF (maxF (fv vs 0) (fv vs 1)) (fv vs 2))) s t)) ∧
    (s.OperandsOf d (.of 1 1) →
      (∃ t, exec (.sqrt md ty d) s = .next t ∧ NumDone 2 d 1 (floatOp ty md fun fmt m u vs => sqrtF fmt m u (fv vs 0)) s t) ∧
      (∃ t, exec (.neg .rne ty d) s = .next t ∧ PureDone 2 d 1
        (bitsOp ty fun fmt vs => if vs.getD 0 0 < fmt.signW then vs.getD 0 0 + fmt.signW else vs.getD 0 0 - fmt.signW) s t) ∧
      (∃ t, exec (.abs .rne ty d) s = .next t ∧ PureDone 2 d 1 (bitsOp ty fun fmt vs => vs.getD 0 0 % fmt.signW) s t) ∧
      (∃ t, exec (.floor ty d) s = .next t ∧
        NumDone 2 d 1 (floatOp ty .rne fun fmt _ u vs => integralF fmt .rdn u false (fv vs 0)) s t) ∧
      (∃ t, exec (.ceil ty d) s = .next t ∧
        NumDone 2 d 1 (floatOp ty .rne fun fmt _ u vs => integralF fmt .rup u false (fv vs 0)) s t) ∧
      (∃ t, exec (.trunc ty d) s = .next t ∧
        NumDone 2 d 1 (floatOp ty .rne fun fmt _ u vs => integralF fmt .rtz u false (fv vs 0)) s t) ∧
      (∃ t, exec (.rint md ty d) s = .next t ∧
        NumDone 2 d 1 (floatOp ty md fun fmt m u vs => integralF fmt m u true (fv vs 0)) s t))

/-- R144: the transcendental operations replace one f32 by their result, set its flags and step no generator. `rsqrt` and `rcp`
are the correctly rounded functions; the five others are the model's functions of the operand, whose undecided cases are free
values (log entry 8). -/
def Obligations.TranscendentalsComplete : Prop :=
  ∀ (s : State) (d : Bool), s.Ready → s.OperandsOf d (.of 1 1) →
    let one := fun (f : Half → Half × Flags) (t : State) =>
      NumDone 2 d 1 (fun _ gen x => { vals := [zx32 (f (lo32 (arg x 0))).1], fl := (f (lo32 (arg x 0))).2, gen := gen }) s t
    (∃ t, exec (.rsqrt d) s = .next t ∧ one (fun x => code32 (rsqrtF fmtF32 (decodeF fmtF32 x.toNat))) t) ∧
    (∃ t, exec (.rcp d) s = .next t ∧ one (fun x => code32 (rcpF fmtF32 (decodeF fmtF32 x.toNat))) t) ∧
    (∃ t, exec (.exp2 d) s = .next t ∧ one exp2F t) ∧
    (∃ t, exec (.log2 d) s = .next t ∧ one log2F t) ∧
    (∃ t, exec (.sin d) s = .next t ∧ one sinF t) ∧
    (∃ t, exec (.cos d) s = .next t ∧ one cosF t) ∧
    (∃ t, exec (.tanh d) s = .next t ∧ one tanhF t)

/-- R145, R146: the bit operations, at the width of their type, with shift counts taken modulo the width. -/
def Obligations.BitOperationsComplete : Prop :=
  ∀ (s : State) (d : Bool) (ty : Ty), s.Ready → ty.isBits = true →
    let w := widthOf ty
    let x := fun (ws : List Word) k => operandBits ty (arg ws k)
    let gives := fun (n : Nat) (f : List Word → Nat) (t : State) => PureDone 2 d n (fun ws => [place ty (f ws)]) s t
    (s.OperandsOf d (.of 2 1) →
      (∃ t, exec (.and ty d) s = .next t ∧ gives 2 (fun ws => x ws 0 &&& x ws 1) t) ∧
      (∃ t, exec (.or ty d) s = .next t ∧ gives 2 (fun ws => x ws 0 ||| x ws 1) t) ∧
      (∃ t, exec (.xor ty d) s = .next t ∧ gives 2 (fun ws => x ws 0 ^^^ x ws 1) t) ∧
      (∃ t, exec (.shl ty d) s = .next t ∧ gives 2 (fun ws => (x ws 0 <<< (x ws 1 % w)) % 2 ^ w) t) ∧
      (∃ t, exec (.shr ty d) s = .next t ∧ gives 2 (fun ws => x ws 0 >>> (x ws 1 % w)) t) ∧
      (∃ t, exec (.sar ty d) s = .next t ∧
        gives 2 (fun ws => (toSigned w (x ws 0) / (2 ^ (x ws 1 % w) : Nat) % (2 ^ w : Nat)).toNat) t) ∧
      (∃ t, exec (.rotl ty d) s = .next t ∧
        gives 2 (fun ws => ((x ws 0 <<< (x ws 1 % w)) ||| (x ws 0 >>> (w - x ws 1 % w))) % 2 ^ w) t)) ∧
    (s.OperandsOf d (.of 1 1) →
      (∃ t, exec (.not ty d) s = .next t ∧ gives 1 (fun ws => 2 ^ w - 1 - x ws 0) t) ∧
      (∃ t, exec (.popc ty d) s = .next t ∧ gives 1 (fun ws => ((List.range w).filter (x ws 0).testBit).length) t) ∧
      (∃ t, exec (.clz ty d) s = .next t ∧
        gives 1 (fun ws => ((List.range w).find? fun i => (x ws 0).testBit (w - 1 - i)).getD w) t) ∧
      (∃ t, exec (.ctz ty d) s = .next t ∧ gives 1 (fun ws => ((List.range w).find? (x ws 0).testBit).getD w) t)) ∧
    (s.OperandsOf d (.of 3 1) → ∃ t, exec (.bfx ty d) s = .next t ∧
      gives 3 (fun ws =>
        let p := x ws 1 % w
        let l := min (x ws 2 % 128) (w - p)
        (x ws 0 >>> p) % 2 ^ l) t) ∧
    (s.OperandsOf d (.of 4 1) → ∃ t, exec (.bfi ty d) s = .next t ∧
      gives 4 (fun ws =>
        let p := x ws 2 % w
        let l := min (x ws 3 % 128) (w - p)
        (x ws 0 >>> (p + l)) <<< (p + l) + ((x ws 1 % 2 ^ l) <<< p) + x ws 0 % 2 ^ p) t)

/-- R151, R152, R153, R154: with a table that serves the dimension, the algebra operations give the conjugate, the norm and the
product, each component rounded once; a table that does not serve it raises ALGT. That a NaN component which enters no term leaves the sum
alone is the model's choice (log entry 68). -/
def Obligations.AlgebraCompletes : Prop :=
  ∀ (s : State) (d : Bool) (md : Rm) (dim : Dim) (t2 : Fin 2) (t4 : Fin 4) (rev : Bool), s.Ready →
    let n := dimOf dim
    let tab := fun (k : Nat) => (s.tm.tabs.getD k AlgTable.empty).bytes
    (tableBad (tab t2.val) n = none →
      (s.OperandsOf d (.of n n) → ∃ t, exec (.conj dim t2 d) s = .next t ∧
        NumDone 2 d n (conjOut n (tab t2.val)) s t) ∧
      (s.OperandsOf d (.of n 1) → ∃ t, exec (.norm dim t2 d) s = .next t ∧
        NumDone 2 d n (normOut n (tab t2.val)) s t)) ∧
    (tableBad (tab t4.val) n = none → s.OperandsOf d (.of (2 * n) n) → ∃ t, exec (.amul md dim t4 rev d) s = .next t ∧
      NumDone 6 d (2 * n) (amulOut md n rev (tab t4.val)) s t) ∧
    (∀ k, tableBad (tab t2.val) n = some k →
      (s.OperandsOf d (.of n n) → exec (.conj dim t2 d) s =
        .next (s.issue.raise ⟨.algt, s.fr.mask, t2.val + k * 2 ^ 8⟩ s.fr.pc (s.fr.pc + 2))) ∧
      (s.OperandsOf d (.of n 1) → exec (.norm dim t2 d) s =
        .next (s.issue.raise ⟨.algt, s.fr.mask, t2.val + k * 2 ^ 8⟩ s.fr.pc (s.fr.pc + 2)))) ∧
    (∀ k, tableBad (tab t4.val) n = some k → s.OperandsOf d (.of (2 * n) n) → exec (.amul md dim t4 rev d) s =
      .next (s.issue.raise ⟨.algt, s.fr.mask, t4.val + k * 2 ^ 8⟩ s.fr.pc (s.fr.pc + 6)))

/-- R147, R148, R149: conversions and, in the lane domain, quantization by blocks of lanes. -/
def Obligations.ConversionsComplete : Prop :=
  ∀ (s : State) (d : Bool) (md : Rm) (src dst : Ty) (half : BitVec 6), s.Ready →
    (s.OperandsOf d (.of (cvtPops src dst) (cvtPushes src dst)) → ∃ t, exec (.cvt md src dst d) s = .next t ∧
      NumDone 6 d (cvtPops src dst) (cvtOut md src dst) s t) ∧
    (s.OperandsOf false (.of 1 2) → ∃ t, exec (.qcvt src dst half) s = .next t ∧
      let q := fun ix => quantLane dst (blockElems src (2 * half.toNat) s.active) ix
      Completes 6 s t (fun l => { l with
        stk := restack 1 (fun _ => [(q l.ix).1, (q l.ix).2.1]) l.stk, lcw := orFlags l.lcw (q l.ix).2.2 }) id)

/-- R87, R135, R222: slot reads, writes and additions, of one slot or of an even pair, in a lane's frame or among the scalar slots. That an
addition to a slot with an error raises ECCU (log entry 37) and that a written slot holds none any more (log entry 42) is the model's choice. -/
def Obligations.SlotsComplete : Prop :=
  ∀ (s : State) (d : Bool) (k : BitVec 11) (imm : BitVec 12), s.Ready →
    let n := k.toNat
    let put := fun (pair : Bool) (v : Word) (ss : List Half) =>
      if pair then (ss.set n (lo32 v)).set (n + 1) (hi32 v) else ss.set n (lo32 v)
    let see := fun (pair : Bool) (ss : List Half) => if pair then join32 (ss.getD n 0) (ss.getD (n + 1) 0) else zx32 (ss.getD n 0)
    let heal := fun (pair : Bool) (bs : List Nat) => bs.filter fun j => j != n && !(pair && j == n + 1)
    let stores := fun (pair : Bool) (pops : Nat) (v : Word → List Word → Word) (t : State) =>
      if d then SlotDone 4 s t id (fun r => { r with sstk := r.sstk.drop pops })
        (fun ss => put pair (v (see pair ss) (vals s.fr.sstk)) ss)
      else SlotDone 4 s t (fun l => { l with
        slots := put pair (v (see pair l.slots) l.stk) l.slots, bad := heal pair l.bad, stk := l.stk.drop pops }) id id
    (s.slotFault d false n = none →
      (s.RoomOf d (.of 0 1) → ∃ t, exec (.get d k) s = .next t ∧
        if d then PureDone 4 true 0 (fun _ => [see false s.gp.sslots]) s t
        else Completes 4 s t (fun l => { l with stk := see false l.slots :: l.stk }) id) ∧
      (s.OperandsOf d (.of 1 0) → ∃ t, exec (.set d k) s = .next t ∧ stores false 1 (fun _ x => x.headD 0) t) ∧
      (s.OperandsOf d ⟨1, 0, 0⟩ → ∃ t, exec (.tee d k) s = .next t ∧ stores false 0 (fun _ x => x.headD 0) t) ∧
      (d = true ∨ s.slotEccu n = none → ∃ t, exec (.inc d k imm) s = .next t ∧ stores false 0 (fun o _ => zx32 (lo32 o + imm.signExtend 32)) t) ∧
      (∀ x, d = false → s.slotEccu n = some x → exec (.inc d k imm) s = .next (s.issue.raise x s.fr.pc (s.fr.pc + 4))) ∧
      (∃ t, exec (.clr d k) s = .next t ∧ stores false 0 (fun _ _ => 0) t)) ∧
    (s.slotFault d true n = none →
      (s.RoomOf d (.of 0 1) → ∃ t, exec (.get2 d k) s = .next t ∧
        if d then PureDone 4 true 0 (fun _ => [see true s.gp.sslots]) s t
        else Completes 4 s t (fun l => { l with stk := see true l.slots :: l.stk }) id) ∧
      (s.OperandsOf d (.of 1 0) → ∃ t, exec (.set2 d k) s = .next t ∧ stores true 1 (fun _ x => x.headD 0) t) ∧
      (s.OperandsOf d ⟨1, 0, 0⟩ → ∃ t, exec (.tee2 d k) s = .next t ∧ stores true 0 (fun _ x => x.headD 0) t))

/-! ### Lane stream: special registers, predicates, control flow -/

/-- R89, R203: a read of a special register pushes its value: a register of lane scope in every active lane, any other on the
scalar stack. `%issued` reads the count before the reading instruction (R204). -/
def Obligations.SpecialRegisterReadsComplete : Prop :=
  ∀ (s : State), s.Ready →
    (s.RoomOf false (.of 0 1) →
      (∃ t, exec (.rdsr 0x000) s = .next t ∧
        Completes 4 s t (fun l => { l with stk := BitVec.ofNat 64 l.ix :: l.stk }) id) ∧
      (∃ t, exec (.rdsr 0x007) s = .next t ∧ Completes 4 s t (fun l => { l with stk := zx32 l.lcw :: l.stk }) id) ∧
      (∃ t, exec (.rdsr 0x00E) s = .next t ∧ Completes 4 s t (fun l => { l with stk := l.jcp :: l.stk }) id) ∧
      (∃ t, exec (.rdsr 0x00D) s = .next t ∧
        t.gp.lanes.map Lane.regs = s.gp.lanes.map fun l =>
          if inMask s.fr.mask l.ix then { l.regs with stk := zx32 l.issued :: l.regs.stk } else l.regs)) ∧
    (s.RoomOf true (.of 0 1) → ∀ p ∈ ([
        (0x001, BitVec.ofNat 64 s.gp.gix), (0x002, BitVec.ofNat 64 s.gp.gslot), (0x003, zx32 s.fr.mask),
        (0x004, BitVec.ofNat 64 s.laneDepth), (0x005, BitVec.ofNat 64 s.fr.sstk.length), (0x006, BitVec.ofNat 64 s.gp.gstat),
        (0x008, zx32 s.tm.seed), (0x009, BitVec.ofNat 64 s.now), (0x00A, zx32 s.gp.seamrel), (0x00B, zx32 s.gp.drains),
        (0x00C, zx32 s.gp.dstall), (0x00F, BitVec.ofNat 64 s.tm.lp.prio), (0x010, zx32 s.fr.lc), (0x011, zx32 s.fr.rc),
        (0x012, BitVec.ofNat 64 s.tm.vcore), (0x020, zx32 s.fr.fcode), (0x021, s.fr.fpc), (0x022, zx32 s.fr.fmask),
        (0x023, s.fr.finfo)] : List (BitVec 12 × Word)),
      ∃ t, exec (.rdsr p.1) s = .next t ∧ PureDone 4 true 0 (fun _ => [p.2]) s t)

/-- R44, R46, R89, R90, R204: a write of a special register pops one entry and changes that register alone; a register that cannot
be written keeps its value, and a proper part of the lanes written to `%exm` detaches the others. The depth that SSPLIT looks at, behind the
pop (log entry 68), and the fault registers of the detached fragment, which read 0 (log entry 15), are the model's choice. -/
def Obligations.SpecialRegisterWritesComplete : Prop :=
  ∀ (s : State), s.Ready →
    let pop := fun (l : LaneRegs) => { l with stk := l.stk.tail }
    (s.OperandsOf false (.of 1 0) →
      (∃ t, exec (.wrsr 0x000) s = .next t ∧ Completes 4 s t pop id) ∧
      (∃ t, exec (.wrsr 0x007) s = .next t ∧
        Completes 4 s t (fun l => { pop l with lcw := writeLcw l.lcw (lo32 (l.stk.headD 0)) }) id) ∧
      (∃ t, exec (.wrsr 0x00E) s = .next t ∧ Completes 4 s t (fun l => { pop l with jcp := l.stk.headD 0 }) id) ∧
      (∃ t, exec (.wrsr 0x00D) s = .next t ∧ Completes 4 s t pop id ∧
        t.gp.lanes.map Lane.issued = s.gp.lanes.map fun l =>
          if inMask s.fr.mask l.ix then lo32 ((vals l.stk).headD 0) else l.issued)) ∧
    (s.OperandsOf true (.of 1 0) →
      let v := (vals s.fr.sstk).headD 0
      let spop := fun (r : FragRegs) => { r with sstk := r.sstk.tail }
      (∀ r ∈ ([0x001, 0x002, 0x004, 0x005, 0x009, 0x00F, 0x010, 0x011, 0x012, 0x020, 0x021, 0x022, 0x023] : List (BitVec 12)),
        ∃ t, exec (.wrsr r) s = .next t ∧ Completes 4 s t id spop) ∧
      (∃ t, exec (.wrsr 0x006) s = .next t ∧ Completes 4 s (t.setGp { t.gp with lost := s.gp.lost }) id spop ∧
        t.gp.lost = (s.gp.lost && !v.getLsbD 0)) ∧
      (∃ t, exec (.wrsr 0x008) s = .next t ∧ t.tm.seed = lo32 v ∧
        Completes 4 s (t.setTm { t.tm with seed := s.tm.seed })
          (fun l => { l with gen := genSeed (lo32 v) (32 * s.gp.gix + l.ix) }) spop) ∧
      (∃ t, exec (.wrsr 0x00A) s = .next t ∧ t.gp.seamrel = lo32 v ∧
        Completes 4 s (t.setGp { t.gp with seamrel := s.gp.seamrel }) id spop) ∧
      (∃ t, exec (.wrsr 0x00B) s = .next t ∧ t.gp.drains = lo32 v ∧ Completes 4 s t id spop) ∧
      (∃ t, exec (.wrsr 0x00C) s = .next t ∧ t.gp.dstall = lo32 v ∧ Completes 4 s t id spop) ∧
      (let m := lo32 v &&& s.fr.mask
       (m = 0 ∨ m = s.fr.mask ∨ s.fr.trap.isSome → ∃ t, exec (.wrsr 0x003) s = .next t ∧ Completes 4 s t id spop) ∧
       (m ≠ 0 → m ≠ s.fr.mask → s.fr.trap = none → s.fr.sstk.length ≤ 9 → ∃ t, exec (.wrsr 0x003) s = .next t ∧
         SplitDone s t (spop { s.fr.regs with mask := m }) (s.fr.pc + 4)
           (spop (s.fr.regs.fresh (s.fr.mask &&& ~~~m))) (s.fr.pc + 4))))

/-- R88, R156, R157, R158, R159: compares combine into predicates and set NV for signalling operands; predicates move to and from
the stack as a byte whose bit 0 reads 1; `plog` looks its result up. -/
def Obligations.ComparesAndPredicatesComplete : Prop :=
  ∀ (s : State) (d : Bool) (c : Cond) (ty : Ty) (pa pb : Fin 8) (ct : Combine) (g : Guard) (tbl : BitVec 4) (pd : Fin 8)
      (neg : Bool), s.Ready →
    (s.OperandsOf d (.of (condArity c) 0) → ∃ t, exec (.cmp d c ty pa pb ct g) s = .next t ∧
      let n := condArity c
      if d then
        let r := condEval c ty (s.scalarArgs n)
        Completes 4 s t (fun l => { l with lcw := orFlags l.lcw r.2 }) (fun f => { f with
          cpreds := combine ct pa.val pb.val (predBit s.fr.cpreds g.p.val != g.neg) r.1 f.cpreds, sstk := f.sstk.drop n })
      else
        Completes 4 s t (fun l =>
          let r := condEval c ty (l.stk.take n).reverse
          { l with preds := combine ct pa.val pb.val (predBit l.preds g.p.val != g.neg) r.1 l.preds, lcw := orFlags l.lcw r.2,
                   stk := l.stk.drop n }) id) ∧
    (s.RoomOf false (.of 0 1) → ∃ t, exec .ppush s = .next t ∧
      Completes 4 s t (fun l => { l with stk := (l.preds ||| 1).setWidth 64 :: l.stk }) id) ∧
    (s.OperandsOf false (.of 1 0) → ∃ t, exec .ppop s = .next t ∧
      Completes 4 s t (fun l => { l with preds := (l.stk.headD 0).setWidth 8 &&& 0xFE, stk := l.stk.tail }) id) ∧
    (∃ t, exec (.plog tbl pd neg pa pb) s = .next t ∧
      Completes 4 s t (fun l =>
        let v := tbl.getLsbD (2 * bit (predBit l.preds pa.val) + bit (predBit l.preds pb.val))
        { l with preds := setPred l.preds pd.val (v != neg) }) id)

/-- R68, R94, R160, R161, R162, R163, R166: a branch goes to its target or to the next instruction, and a taken backward one raises
pts; lanes that disagree split the fragment at `brl`, the minority detached and on a tie the taken side, and raise BRNU at `bru`;
`jmp` takes its address from the scalar stack and raises ALIGN for an odd one. What the detached fragment's fault registers read is the
model's choice (log entry 15). -/
def Obligations.BranchesComplete : Prop :=
  ∀ (s : State) (g : Guard) (off : BitVec 20) (far : BitVec 32), s.Ready →
    let target := fun (o : Int) => s.fr.pc + BitVec.ofInt 64 (2 * o)
    let taken := fun (o : Int) (t : State) => GoesTo (target o) s t id id ∧ t.fr.pts = s.fr.pts + (if o < 0 then 1 else 0)
    let m := s.guarded false g
    let n := s.fr.mask &&& ~~~m
    (∃ t, exec (.br g off) s = .next t ∧ if s.fr.guard g then taken off.toInt t else Completes 4 s t id id) ∧
    (∃ t, exec (.brFar g far) s = .next t ∧ if s.fr.guard g then taken far.toInt t else Completes 6 s t id id) ∧
    (m = s.fr.mask → (∃ t, exec (.bru g off) s = .next t ∧ taken off.toInt t) ∧
      (∃ t, exec (.brl g off) s = .next t ∧ taken off.toInt t)) ∧
    (m = 0 → (∃ t, exec (.bru g off) s = .next t ∧ Completes 4 s t id id) ∧
      (∃ t, exec (.brl g off) s = .next t ∧ Completes 4 s t id id)) ∧
    (m ≠ s.fr.mask → m ≠ 0 →
      exec (.bru g off) s = .next (s.issue.raise ⟨.brnu, s.fr.mask, m.toNat⟩ s.fr.pc (s.fr.pc + 4)) ∧
      (s.fr.trap.isSome →
        exec (.brl g off) s = .next (s.issue.raise ⟨.brnu, s.fr.mask, m.toNat⟩ s.fr.pc (s.fr.pc + 4))) ∧
      (s.fr.trap = none → 8 < s.fr.sstk.length →
        exec (.brl g off) s = .next (s.issue.raise ⟨.ssplit, s.fr.mask, s.fr.sstk.length⟩ s.fr.pc (s.fr.pc + 4))) ∧
      (s.fr.trap = none → s.fr.sstk.length ≤ 8 → ∃ t, exec (.brl g off) s = .next t ∧
        if countLanes m ≤ countLanes n then
          SplitDone s t { s.fr.regs with mask := n } (s.fr.pc + 4) (s.fr.regs.fresh m) (target off.toInt)
        else
          SplitDone s t { s.fr.regs with mask := m } (target off.toInt) (s.fr.regs.fresh n) (s.fr.pc + 4))) ∧
    (s.OperandsOf true (.of 1 0) →
      let v := (vals s.fr.sstk).headD 0
      (s.fr.guard g = false → ∃ t, exec (.jmp g) s = .next t ∧ Completes 4 s t id (fun r => { r with sstk := r.sstk.tail })) ∧
      (s.fr.guard g = true → v.getLsbD 0 = false → ∃ t, exec (.jmp g) s = .next t ∧
        GoesTo v s t id (fun r => { r with sstk := r.sstk.tail })) ∧
      (s.fr.guard g = true → v.getLsbD 0 = true →
        exec (.jmp g) s = .next (s.issue.raise ⟨.align, s.fr.mask, v.toNat⟩ s.fr.pc (s.fr.pc + 4))))

/-- R164, R165, R172: a call saves the return address, and the loop it interrupts, on the link stack and begins a region at its
target; `ret` drops loops begun since, goes back and restores that loop; a full or empty link stack raises STKOVF or STKUNF. -/
def Obligations.CallsAndReturnsComplete : Prop :=
  ∀ (s : State) (g : Guard) (off : BitVec 20) (far : BitVec 32), s.Awake →
    let called := fun (len : Nat) (o : Int) (t : State) =>
      let target := s.fr.pc + BitVec.ofInt 64 (2 * o)
      GoesTo target s t id (fun r =>
        if r.lc = 0 then { r with link := .ret (s.fr.pc + BitVec.ofNat 64 len) :: r.link }
        else { r with link := .ret (s.fr.pc + BitVec.ofNat 64 len) :: .callTriple r.lc r.lb r.le :: r.link, lc := 0, lb := 0,
                      le := 0 }) ∧
      t.fr.pts = s.fr.pts + (if o < 0 then 1 else 0) ∧ t.fr.region.entryPc = target
    let need := if s.fr.lc = 0 then 1 else 2
    (s.fr.guard g = true → s.fr.link.length + need ≤ 32 →
      (∃ t, exec (.call g off) s = .next t ∧ called 4 off.toInt t) ∧
      (∃ t, exec (.callFar g far) s = .next t ∧ called 6 far.toInt t)) ∧
    (s.fr.guard g = true → 32 < s.fr.link.length + need →
      exec (.call g off) s =
        .next (s.issue.raise ⟨.stkovf, s.fr.mask, 2 + s.fr.link.length * 2 ^ 16⟩ s.fr.pc (s.fr.pc + 4))) ∧
    (s.fr.guard g = false → s.Fresh → (∃ t, exec (.call g off) s = .next t ∧ Completes 4 s t id id) ∧
      (∃ t, exec (.callFar g far) s = .next t ∧ Completes 6 s t id id)) ∧
    (∀ a rest, dropLoops s.fr.link = .ret a :: rest → (∀ lc lb le more, rest ≠ .callTriple lc lb le :: more) →
      ∃ t, exec .ret s = .next t ∧ GoesTo a s t id (fun r => { r with link := rest, lc := 0, lb := 0, le := 0 }) ∧
        t.fr.region.entryPc = a) ∧
    (∀ a lc lb le rest, dropLoops s.fr.link = .ret a :: .callTriple lc lb le :: rest → a ≠ le →
      ∃ t, exec .ret s = .next t ∧ GoesTo a s t id (fun r => { r with link := rest, lc := lc, lb := lb, le := le }) ∧
        t.fr.region.entryPc = a) ∧
    (dropLoops s.fr.link = [] →
      exec .ret s = .next (s.issue.raise ⟨.stkunf, s.fr.mask, 2 + s.fr.link.length * 2 ^ 16⟩ s.fr.pc (s.fr.pc + 2)))

/-- R167, R169, R172, R186: `loop` sets the loop registers or, with nothing to count, goes to its label; `rep` sets RC before an
instruction that may be repeated and raises ILLOP before any other; `region` begins a region at itself; `yield` lowers the
fragment's rank.

R68, R168, R169: at the end of a loop's body LC counts down and the body repeats one step of pts later, or the loop ends and an
outer one comes back; a branch out of the body ends the loop; a repeated instruction issues again until RC is used up. -/
def Obligations.LoopsRepeatsAndRegionsComplete : Prop :=
  (∀ (s : State) (g : Guard) (off n : BitVec 20) (base : BitVec 11) (count : BitVec 12), s.Ready →
    (s.OperandsOf true (.of 1 0) → 2 < off.toInt →
      let c := lo32 ((vals s.fr.sstk).headD 0)
      let label := s.fr.pc + BitVec.ofInt 64 (2 * off.toInt)
      ∃ t, exec (.loop g off) s = .next t ∧
        if s.fr.guard g = true ∧ c ≠ 0 then
          Completes 4 s t id (fun r => { r with sstk := r.sstk.tail, lc := c, lb := s.fr.pc + 4, le := label })
        else GoesTo label s t id (fun r => { r with sstk := r.sstk.tail })) ∧
    (∀ bs i, s.fetchLane (s.fr.pc + 4).toNat = .bytes bs → decodeBytes .lane bs = .ok i →
      (repeatable i = true → ∃ t, exec (.rep g n) s = .next t ∧
        Completes 4 s t id (fun r => if s.fr.guard g then { r with rc := n.setWidth 32 } else r)) ∧
      (repeatable i = false → ∀ w, encode (.rep g n) = some (32, w) →
        exec (.rep g n) s = .next (s.issue.raise ⟨.illop, s.fr.mask, w⟩ s.fr.pc (s.fr.pc + 4)))) ∧
    (base.toNat + count.toNat ≤ s.tm.lp.frame → ∃ t, exec (.region base count) s = .next t ∧ Completes 6 s t id id ∧
      t.fr.region.entryPc = s.fr.pc ∧ t.fr.region.base = base.toNat ∧ t.fr.region.count = count.toNat ∧
      t.fr.region.ldepth = s.laneDepth ∧ t.fr.region.sdepth = s.fr.sstk.length ∧ t.fr.region.exm = s.fr.mask) ∧
    (s.tm.lp.frame < base.toNat + count.toNat → exec (.region base count) s =
      .next (s.issue.raise ⟨.slotrng, s.fr.mask, base.toNat + s.tm.lp.frame * 2 ^ 16⟩ s.fr.pc (s.fr.pc + 6))) ∧
    (∃ t, exec .yield s = .next t ∧ Completes 2 s t id id ∧ t.fr.yielded = true)) ∧
  (∀ (s : State) (g : Guard) (off : BitVec 20), s.Awake →
    let next := s.fr.pc + 2
    let target := s.fr.pc + BitVec.ofInt 64 (2 * off.toInt)
    (s.fr.rc = 0 → 1 < s.fr.lc.toNat → s.fr.le = next → ∃ t, exec .nop s = .next t ∧
      GoesTo s.fr.lb s t id (fun r => { r with lc := r.lc - 1 }) ∧ t.fr.pts = s.fr.pts + 1) ∧
    (s.fr.rc = 0 → s.fr.lc = 1 → s.fr.le = next → (∀ lc lb le rest, s.fr.link ≠ .loopTriple lc lb le :: rest) →
      ∃ t, exec .nop s = .next t ∧ GoesTo next s t id (fun r => { r with lc := 0, lb := 0, le := 0 }) ∧ t.fr.pts = s.fr.pts) ∧
    (∀ lc lb le rest, s.fr.rc = 0 → s.fr.lc = 1 → s.fr.le = next → s.fr.link = .loopTriple lc lb le :: rest → le ≠ next →
      ∃ t, exec .nop s = .next t ∧ GoesTo next s t id (fun r => { r with lc := lc, lb := lb, le := le, link := rest })) ∧
    (s.fr.lc ≠ 0 → s.fr.guard g = true → target < s.fr.lb ∨ s.fr.le < target →
      (∀ lc lb le rest, s.fr.link ≠ .loopTriple lc lb le :: rest) → ∃ t, exec (.br g off) s = .next t ∧
        GoesTo target s t id (fun r => { r with lc := 0, lb := 0, le := 0 })) ∧
    (1 < s.fr.rc.toNat → ∃ t, exec .nop s = .next t ∧ GoesTo s.fr.pc s t id (fun r => { r with rc := r.rc - 1 }) ∧
      t.fr.pts = s.fr.pts + 1) ∧
    (s.fr.rc = 1 → s.fr.lc = 0 → ∃ t, exec .nop s = .next t ∧ GoesTo next s t id (fun r => { r with rc := 0 })))

/-- R174 to R179: a cross-lane operation whose members all stand in the executing fragment completes: each active lane receives the
result over the members' values.

R174: every cross-lane operation with a member that has not arrived waits, with no effect but the parking; one that names a lane that
has exited raises XLEXIT; where a fragment held at the same address has named other members, both raise XMASK, each with its own member mask and
the one that was named first. -/
def Obligations.CrossLaneOperationsComplete : Prop :=
  (∀ (s : State) (ty : Ty) (k : VoteKind) (pd : Fin 8) (neg : Bool) (op : RedOp) (excl : Bool), s.Ready → s.AloneAtPc →
    let m := lo32 ((vals s.fr.sstk).headD 0)
    let v := fun i => arg (s.laneVals i) 0
    let spop := fun n (r : FragRegs) => { r with sstk := r.sstk.drop n }
    let members := ((List.range 32).filter (inMask m)).map fun i => (s.laneVals i).headD 0
    m &&& ~~~s.fr.mask = 0 → m &&& ~~~s.gp.liveMask = 0 →
    (s.Operands (.of 3 1) (.of 1 0) → ∃ t, exec (.perm ty) s = .next t ∧
      Completes 4 s t (fun l =>
        let from' := (arg l.stk 0).toNat % 32
        { l with stk := typed ty (if inMask m from' then arg (s.laneVals from') 2 else arg l.stk 1) :: l.stk.drop 3 }) (spop 1)) ∧
    (s.Operands (.of 1 1) (.of 2 0) → ∃ t, exec (.bcast ty) s = .next t ∧
      let from' := (arg (vals s.fr.sstk) 1).toNat % 32
      Completes 4 s t (fun l =>
        { l with stk := typed ty (if inMask m from' then v from' else l.stk.headD 0) :: l.stk.tail }) (spop 2)) ∧
    (s.Operands (.of 1 0) (.of 1 0) → ∃ t, exec (.vote k pd neg) s = .next t ∧
      let r := match k with
        | .any => members.any fun w => w != 0
        | .all => members.all fun w => w != 0
        | .eq => members.all fun w => members.all fun x => w == x
      Completes 4 s t (fun l => { l with stk := l.stk.tail, preds := setPred l.preds pd.val (r != neg) }) (spop 1)) ∧
    (s.Operands (.of 1 0) (.of 1 1) → ∃ t, exec .ballot s = .next t ∧
      Completes 4 s t (fun l => { l with stk := l.stk.tail })
        (fun r => { r with sstk := zx32 (maskOf fun i => inMask m i && v i != 0) :: r.sstk.tail })) ∧
    (s.Operands (.of 1 1) (.of 1 0) →
      let leaves := (List.range 32).map fun i => if inMask m i then typed ty (v i) else redIdentity op ty
      (∃ t, exec (.red op ty) s = .next t ∧
        let r := redTree op ty 5 leaves
        Completes 4 s t (fun l => { l with stk := r.1.headD 0 :: l.stk.tail, lcw := orFlags l.lcw r.2 }) (spop 1)) ∧
      (∃ t, exec (.scan op ty excl) s = .next t ∧
        let r := scanFrom op ty (leaves.headD 0) leaves.tail
        let inc := leaves.headD 0 :: r.1
        Completes 4 s t (fun l => { l with
          stk := (if excl then (if l.ix = 0 then redIdentity op ty else inc.getD (l.ix - 1) 0) else inc.getD l.ix 0) :: l.stk.tail
          lcw := orFlags l.lcw r.2 }) (spop 1)))) ∧
  (∀ (s : State) (i : Instr) (u : Use × Use), s.Ready → crossUse i = some u → s.Operands u.1 u.2 →
    let m := lo32 ((vals s.fr.sstk).headD 0)
    (s.AloneAtPc → m &&& ~~~s.gp.liveMask = 0 → m &&& ~~~s.fr.mask ≠ 0 → ∃ t, exec i s = .next t ∧ t.fr.wait = .xlane m ∧
      GoesTo s.fr.pc s (t.setFr { t.fr with wait := .none }) id id) ∧
    (m &&& ~~~s.gp.liveMask ≠ 0 → exec i s =
      .next (s.issue.raise ⟨.xlexit, s.fr.mask, (m &&& ~~~s.gp.liveMask).toNat⟩ s.fr.pc (s.fr.pc + 4))) ∧
    (∀ h n, m &&& ~~~s.gp.liveMask = 0 → h ∈ s.gp.frs → h.mask ≠ 0 → h.pc = s.fr.pc → h.wait = .xlane n → h.memberMask ≠ m →
      (∀ f ∈ s.gp.frs, f ≠ h → f.mask &&& h.mask = 0 ∧ (f.pc = s.fr.pc → ∀ k, f.wait ≠ .xlane k)) →
      (∀ f ∈ s.gp.frs, f.mask &&& s.fr.mask = 0) → s.fr.trap = none → h.trap = none → s.tm.lp.trap ≠ 0 →
      let faulted := fun (t : State) (x : Mask) (own : Mask) => ∃ f ∈ t.gp.allFrags, f.mask = x ∧ f.pc = s.tm.lp.trap ∧ f.fcode = 0x08 ∧
        f.fpc = s.fr.pc ∧ f.fmask = x ∧ f.finfo = BitVec.ofNat 64 (own.toNat + h.memberMask.toNat * 2 ^ 32)
      ∃ t, exec i s = .next t ∧ faulted t s.fr.mask m ∧ faulted t h.mask h.memberMask ∧ SameBytes s t))

/-- R95, R96, R98, R170, R171, R180: transfer slots hand values between groups; `seam` opens a seam; `mend` goes on where the lanes
owe it nothing, waits for the lanes still expected, and the last arrival merges; a lost reconvergence is released.

R98, R216: when every fragment of a group waits at a seam and none of them runs a handler, the PART seam of lowest index merges its arrivals, LOST is set and
`%seamrel` counts. -/
def Obligations.TransferSlotsAndSeamsComplete : Prop :=
  (∀ (s : State) (x : Fin 16) (j : Fin 8) (delta : BitVec 5), s.Ready →
    let slot := s.tm.xs.getD x.val XSlot.empty
    let seam := s.gp.seams.getD j.val Seam.idle
    let arrived := seam.arrived ||| s.fr.mask
    (s.OperandsOf false (.of 1 0) → slot.full = false → s.before (fun w => w == .xslot x.val true) = false →
      ∃ t, exec (.xput x) s = .next t ∧
        Completes 4 s (t.setTm { t.tm with xs := s.tm.xs }) (fun l => { l with stk := l.stk.tail }) id ∧
        let vs := (List.range 32).map fun i => if inMask s.fr.mask i then (s.laneVals i).headD 0 else slot.vals.getD i 0
        t.tm.xs = s.tm.xs.set x.val { vals := vs, wmask := s.fr.mask, full := true, pts := s.fr.pts }) ∧
    (s.RoomOf false (.of 0 1) → slot.full = true → s.before (fun w => w == .xslot x.val false) = false →
      ∃ t, exec (.xget x) s = .next t ∧
        Completes 4 s (t.setTm { t.tm with xs := s.tm.xs }) (fun l => { l with
          stk := (if inMask slot.wmask l.ix then slot.vals.getD l.ix 0 else 0) :: l.stk }) id ∧
        t.tm.xs = s.tm.xs.set x.val { slot with full := false } ∧ t.fr.pts = max s.fr.pts slot.pts) ∧
    (seam.st = .idle → ∃ t, exec (.seam j) s = .next t ∧ Completes 4 s (t.setGp { t.gp with seams := s.gp.seams }) id id ∧
      t.gp.seams = s.gp.seams.set j.val
        { st := .opened, expect := s.fr.mask, arrived := 0, dl := s.laneDepth, ds := s.fr.sstk.length }) ∧
    (seam.st ≠ .idle → s.laneDepth = seam.dl → s.fr.sstk.length = seam.ds → ∃ t, exec (.seam j) s = .next t ∧
      Completes 4 s (t.setGp { t.gp with seams := s.gp.seams }) id id ∧
      t.gp.seams = s.gp.seams.set j.val { seam with expect := seam.expect ||| s.fr.mask }) ∧
    (seam.st = .idle ∨ s.fr.mask &&& seam.expect = 0 → ∃ t, exec (.mend j delta) s = .next t ∧ Completes 4 s t id id) ∧
    (seam.st ≠ .idle → s.fr.mask &&& seam.expect ≠ 0 → (s.laneDepth : Int) = seam.dl + delta.toInt → s.fr.sstk.length = seam.ds →
      (seam.expect &&& ~~~arrived ≠ 0 → ∃ t, exec (.mend j delta) s = .next t ∧ t.fr.wait = .seam j.val ∧
        t.gp.seams = s.gp.seams.set j.val { seam with st := .part, arrived := arrived } ∧
        GoesTo s.fr.pc s ((t.setGp { t.gp with seams := s.gp.seams }).setFr { t.fr with wait := .none }) id id) ∧
      (seam.expect &&& ~~~arrived = 0 → s.gp.frs.all (fun f => f.wait != .seam j.val || f.lc == 0) = true →
        ∃ t, exec (.mend j delta) s = .next t ∧
          let there := s.gp.frs.filter fun f => f.mask != 0 && f.wait == .seam j.val
          t.fr.mask = there.foldl (fun m f => m ||| f.mask) s.fr.mask ∧ t.fr.pc = s.fr.pc + 4 ∧ t.fr.wait = .none ∧
          t.fr.pts = there.foldl (fun p f => max p f.pts) s.fr.pts ∧ t.gp.seams = s.gp.seams.set j.val Seam.idle ∧
          t.fr.region.entryPc = s.fr.pc + 4 ∧ t.gp.lanes.map Lane.regs = s.gp.lanes.map Lane.regs ∧ SameBytes s t ∧
          SameModule s t))) ∧
  (∀ (s : State) (j : Nat) (f : Frag) (fs : List Frag), s.tm.live = true → s.gp.alive = true → j < 8 →
    s.gp.allFrags.all (fun f => f.trap.isNone && match f.wait with | .seam _ => true | _ => false) = true →
    (s.gp.seamAt j).st = .part → (∀ k < j, (s.gp.seamAt k).st ≠ .part) → s.gp.parkedAtSeam j = f :: fs →
    ∃ t, exec (.lostReconvergenceRelease s.tm.core s.gp.gslot) s = .next t ∧ t.gp.lost = true ∧
      t.gp.seamrel = s.gp.seamrel + 1 ∧ t.gp.seams = s.gp.seams.set j Seam.idle ∧ t.fr.wait = .none ∧
      t.fr.mask = (f :: fs).foldl (fun m x => m ||| x.mask) f.mask ∧ SameBytes s t ∧ SameModule s t)

/-- R181, R182, R183, R184: a group that does not take part passes; a participant's arrival is recorded and, when it is the last,
completes the phase; `bar.wait` goes on once the phase of the group's last arrival is over and waits before; a gang phase is over
when every team of the gang has completed it.

R184: a gang phase completes when every team of the gang, those that have retired too, has completed it at the team level: each
resident team of the gang records it, and the fragments of its groups that take part carry the largest pts of the gang. -/
def Obligations.BarriersComplete : Prop :=
  (∀ (s : State) (b : Fin 16) (absent gang : Bool), s.Ready →
    let x := s.tm.barAt b.val
    let y := x.arrive s.gp.gix s.fr absent gang
    let u := s.tm.setBar b.val y
    let complete := (List.range x.groups).all (u.hasArrived y) && (!x.plusM || x.seqArr)
    (s.participates x = false → (∃ t, exec (.barArrive b absent gang) s = .next t ∧ Completes 4 s t id id) ∧
      (∃ t, exec (.barWait b gang) s = .next t ∧ Completes 4 s t id id)) ∧
    (s.participates x = true → s.fr.mask &&& (x.arr.lookup s.gp.gix).getD 0 = 0 → complete = false →
      (∀ k, s.stepOf s.tm = some k → k.doneAt = none → (s.tm.barAt k.bar).phase ≤ k.phase) →
      ∃ t, exec (.barArrive b absent gang) s = .next t ∧ Completes 4 s (t.setTm { t.tm with bars := s.tm.bars }) id id ∧
        t.tm.bars = s.tm.bars.set b.val y) ∧
    (s.participates x = true → s.fr.mask &&& (x.arr.lookup s.gp.gix).getD 0 = 0 → complete = true → b.val < s.tm.bars.length →
      s.stepping = none → s.gp.alive = true → s.tm.groupAt s.gp.gix ≠ none →
      ∃ t, exec (.barArrive b absent gang) s = .next t ∧ t.fr.pc = s.fr.pc + 4 ∧ (t.tm.barAt b.val).phase = x.phase + 1 ∧
        (t.tm.barAt b.val).arr = [] ∧ t.fr.pts = max s.fr.pts x.pts ∧ LanesBy s t id ∧ SameBytes s t ∧ SameModule s t) ∧
    (s.participates x = true → s.fr.mask &&& (x.arr.lookup s.gp.gix).getD 0 ≠ 0 → ∃ t, exec (.barArrive b absent gang) s = .next t ∧
      t.fr.wait = .arrive b.val x.phase ∧ GoesTo s.fr.pc s (t.setFr { t.fr with wait := .none }) id id) ∧
    (∀ p, s.participates x = true → x.last.lookup s.gp.gix = some p →
      (x.over p gang = true → ∃ t, exec (.barWait b gang) s = .next t ∧ Completes 4 s t id id) ∧
      (x.over p gang = false → ∃ t, exec (.barWait b gang) s = .next t ∧ t.fr.wait = .barrier b.val p gang ∧
        GoesTo s.fr.pc s (t.setFr { t.fr with wait := .none }) id id))) ∧
  (∀ (s : State) (ctx : Fin 8) (gang : Nat) (b : Fin 16) (p : Nat),
    let k := s.ctxs.getD ctx.val LaunchCtx.empty
    let members := (k.map.map (·.1)).filter fun v => gangLevel k.lp v == gang
    let mine := fun (u : Team) => u.live = true ∧ u.ctx = ctx.val ∧ u.vcore ∈ members
    let waits := fun (u : Team) (q : Nat) => q ∈ (u.barAt b.val).gangDone.map (·.1) ∧ q ∉ (u.barAt b.val).gangRel
    ((∀ u ∈ s.tm :: s.teams, mine u → ∀ q, ¬ waits u q) → exec (.gangPhaseComplete ctx gang b) s = .next s) ∧
    ((∃ u ∈ s.tm :: s.teams, mine u ∧ waits u p) → (∀ u ∈ s.tm :: s.teams, mine u → ∀ q, waits u q → q = p) →
      (∀ v ∈ members, s.gangPts ctx.val v b.val p ≠ none) → (∀ u ∈ s.tm :: s.teams, mine u → b.val < u.bars.length) →
      ∃ t, exec (.gangPhaseComplete ctx gang b) s = .next t ∧ (t.tm :: t.teams).map Team.ref = (s.tm :: s.teams).map Team.ref ∧
        (∀ u ∈ t.tm :: t.teams, mine u → p ∈ (u.barAt b.val).gangRel ∧
          ∀ g ∈ u.groups, g.child = false → g.gix < (u.barAt b.val).groups → ∀ f ∈ g.allFrags, ∀ v ∈ members, ∀ n,
            s.gangPts ctx.val v b.val p = some n → n ≤ f.pts) ∧
        (∀ u ∈ t.tm :: t.teams, ¬ mine u → u ∈ s.tm :: s.teams) ∧
        { t with tm := s.tm, teams := s.teams } = s))

/-! ### Lane stream: memory, waiting, system -/

/-- R59, R62, R66, R85, R122, R189, R191: a load whose every access passes the checks gives each lane, or the fragment, the bytes at its
address, little-endian and extended: those of its line at the home, or those of a copy that the core's L1 holds, as long as the copy is
read-shared or the load's stamp does not pass the copy's rts. Its pts is at least the write stamp of every line that no copy serves and of
every leased copy that does; it changes stamps, the L1 and the last-page registers, and nothing else. -/
def Obligations.LoadsComplete : Prop :=
  ∀ (s : State) (d : Bool) (sp : Space) (sz : LdSize) (rh : Hint) (off : BitVec 13), s.Ready →
    let m := ldOp d sp sz rh off
    s.OperandsOf d (.of 1 1) → s.Reaches m → ∃ (t : State) (hits : List L1Copy), exec (.ld d sp sz rh off) s = .next t ∧
      (∀ c ∈ hits, c ∈ s.l1 ∧ c.core = s.tm.core ∧ (c.shared = true ∨ (t.fr.pts ≤ c.rts ∧ c.wts ≤ t.fr.pts))) ∧
      (let u := { t with stamps := s.stamps, l1 := s.l1, slotPages := s.slotPages }
       let value := fun (ix : Nat) (base : Word) => match s.spotAt m base with
         | some x => m.extend (ofBytes (s.loadBytes hits x ix m.size))
         | none => 0
       if d then PureDone 4 true 1 (fun x => [value (lowestLane s.fr.mask) (arg x 0)]) s u
       else Completes 4 s u (fun l => { l with stk := value l.ix (l.stk.headD 0) :: l.stk.tail }) id) ∧
      s.fr.pts ≤ t.fr.pts ∧
      ∀ l ∈ s.active, d = false → ∀ x, s.spotAt m ((vals l.stk).headD 0) = some x → x.stamped = true →
        (∀ c ∈ hits, ¬ (x.sp = 0 ∧ c.line = lineOf x.key)) → (s.stampOf (x.sp, lineOf x.key)).wts ≤ t.fr.pts

/-- R77, R103, R189, R191, R194: a store whose every access passes the checks writes the value's low bytes, little-endian, at its
address in ascending lane order, and every other byte of memory reads as before; in space l it writes the lane's own slots, where a slot
written whole holds no error any more, and to a host-directed page it posts the bytes and leaves memory alone. -/
def Obligations.StoresComplete : Prop :=
  ∀ (s : State) (d : Bool) (sp : Space) (sz : StSize) (rh : Hint) (g : Guard) (off : BitVec 13), s.Ready →
    let m := stOp d sp sz g off
    let lane := fun (l : LaneRegs) => if d then l else { l with stk := l.stk.drop 2 }
    let frag := fun (r : FragRegs) => if d then { r with sstk := r.sstk.drop 2 } else r
    s.OperandsOf d (.of 2 0) → s.Reaches m →
    (sp ≠ .l → (∀ w ∈ s.stored m, w.host = false) → ∃ t, exec (.st d sp sz rh g off) s = .next t ∧
      Completes 4 s (t.unwritten s) lane frag ∧ s.fr.pts ≤ t.fr.pts ∧
      ∀ k ∈ [0, 2, 4, 5], ∀ a, t.byteAt k a = ((s.stored m).foldl (fun b w => w.put k a b) (s.byteAt k a))) ∧
    (sp = .l → d = false → ∃ t, exec (.st d sp sz rh g off) s = .next t ∧
      Completes 4 s t (fun l => if inMask (s.guarded false g) l.ix then
          let a := (m.address (arg l.stk 1)).toNat
          { lane l with
            slots := sliceStore l.slots a (toBytes m.size (arg l.stk 0).toNat)
            bad := if m.size < 4 then l.bad else l.bad.filter fun j => !(decide (a / 4 ≤ j) && decide (j ≤ (a + m.size - 1) / 4)) }
        else lane l) id) ∧
    (sp ≠ .l → s.stored m ≠ [] → (∀ w ∈ s.stored m, w.host = true ∧ linkOf w.key = 0) →
      (s.hlinks.getD 0 { up := true, mode := .cxl }).up = true → ∃ t, exec (.st d sp sz rh g off) s = .next t ∧
        Completes 4 s (State.unwritten { t with posted := s.posted } s) lane frag ∧ SameBytes s t ∧
        ∃ p, t.posted = s.posted ++ [p] ∧ p.link = 0 ∧ p.passed = 0 ∧ p.team = s.teamRef ∧ p.mask = s.fr.mask ∧
          p.bytes = (s.stored m).flatMap fun w => w.bytes.zipIdx.map fun b => (w.key + b.2, b.1))

/-- R123, R199, R200: an atomic whose every access passes the checks completes: its accesses are performed one after the other in ascending
lane order, each on what the earlier ones left, every byte of memory reads as they leave it, an instruction that asks for it returns
the value that each lane's access found, and the region ends. No encoding of an atomic names space l (R199). -/
def Obligations.AtomicsComplete : Prop :=
  ∀ (s : State) (d : Bool) (op : AtomOp) (sp : Space) (w64 : Bool) (g : Guard) (ret : Bool) (off : BitVec 13), s.Ready → sp ≠ .l →
    let m := atomOp d op sp w64 g ret off
    let n := if op = .cas then 3 else 2
    s.OperandsOf d (.of n (bit ret)) → s.Reaches m →
      let f := atomFold op m.size s.byteAt (s.checkAll m (s.reqs m (s.todoOf m))).good
      let out := fun ix => if ret then [BitVec.ofNat 64 ((f.1.lookup ix).getD 0)] else []
      ∃ t, exec (.atom d op sp w64 g ret off) s = .next t ∧
        Completes 4 s (t.unwritten s)
          (fun l => if d then l else { l with stk := out l.ix ++ l.stk.drop n })
          (fun r => if d then { r with sstk := out (lowestLane s.fr.mask) ++ r.sstk.drop n } else r) ∧
        s.fr.pts ≤ t.fr.pts ∧ t.fr.region.entryPc = s.fr.pc + 4 ∧ ∀ k ∈ [0, 2, 4, 5], ∀ a, t.byteAt k a = f.2 k a

/-- R189, R190, R194, R198, R220: a memory instruction with a failing check raises that fault before any lane is performed; one without room
for its requests is not ready, one at an absent scratchpad line waits for the line, and one whose translation is not known waits for
it.

R59, R189, R190: in the slice and in the two kinds of scratchpad an address at or past the end raises SPACE and, below it, one that is not a
multiple of its size ALIGN; an aligned access whose later bytes pass the end raises SPACE too (log entry 38); among the lanes of an
instruction the earliest code is raised, with the address of the lowest lane that fails with it, and `%fmask` names the lanes that do, in the
scalar domain the whole fragment. -/
def Obligations.MemoryFaultsAndWaits : Prop :=
  (∀ (s : State) (i : Instr) (m : MemOp) (x : LaneFault), s.Ready → i.wf = true → memOpOf i = some m →
    s.OperandsOf m.d (.of m.pops m.pushes) →
    let c := s.checkAll m (s.reqs m (s.todoOf m))
    let room := s.issue.hasRoom (c.requests m)
    (c.bad = some x → exec i s = .next (s.issue.raise x s.fr.pc (s.fr.pc + 4))) ∧
    (c.bad = none → room = false → exec i s = .next (s.parkFr (.requests (c.requests m)))) ∧
    (c.bad = none → room = true → c.wait ≠ [] → ∃ t, exec i s = .next t ∧ t.fr.wait = .presence c.wait ∧ t.fr.pc = s.fr.pc ∧
      SameBytes s t ∧ LanesBy s t id) ∧
    (∀ q rest, c.bad = none → room = true → c.wait = [] → c.miss = q :: rest → ∃ t, exec i s = .next t ∧
      t.fr.wait = .page q.addr.toNat ∧ t.fr.pc = s.fr.pc)) ∧
  (∀ (s : State) (acc : Acc) (size a : Nat),
    (∀ p ∈ [(Space.l, 4 * s.tm.lp.frame), (Space.c, s.tm.lp.spad), (Space.d, s.tm.lp.dspad)],
      (p.2 ≤ a → s.checkAddr acc p.1 size a = .bad .space) ∧
      (a < p.2 → a % size ≠ 0 → s.checkAddr acc p.1 size a = .bad .align) ∧
      (a < p.2 → a % size = 0 → p.2 < a + size → s.checkAddr acc p.1 size a = .bad .space)) ∧
    (2 ^ 56 ≤ a → s.checkAddr acc .g size a = .bad .space)) ∧
  (∀ (s : State) (m : MemOp), s.LanesOk →
    let rs := s.reqs m (s.todoOf m)
    let check := fun (r : Req) => s.checkAddr m.acc m.sp m.size r.addr.toNat
    ((∃ r ∈ rs, ∃ c, check r = .bad c) → ∃ x, (s.checkAll m rs).bad = some x ∧ x.code ∈ checkOrder) ∧
    (∀ x, (s.checkAll m rs).bad = some x → x.code ∈ checkOrder →
      (∃ q ∈ rs, check q = .bad x.code ∧ x.info = q.addr.toNat ∧ ∀ r ∈ rs, check r = .bad x.code → q.ix ≤ r.ix) ∧
      (∀ r ∈ rs, ∀ c, check r = .bad c → checkOrder.idxOf x.code ≤ checkOrder.idxOf c) ∧
      x.mask = if m.d then s.fr.mask else maskOf fun i => rs.any fun r => r.ix == i && check r == .bad x.code))

/-- R71, R77, R78, R201, R202: `wait` goes on once its counts are met, taking the stamps of completed copies, and waits before; a
fence completes when its loads have returned and, for the host's acknowledgement, its stores are acknowledged; returning data and
acknowledgements end the operations that waited for them.

R77, R78, R198, R201: a parked fence completes once it may; a posted store is accepted by its link port, which ends its count in the st
class, and then reaches the host, whose memory holds its bytes; the acknowledgement of any other store ends its count; what a fragment is
still in the midst of is not complete. When a fence may complete (log entry 26), and that one row first accepts a posted store and then
delivers it (log entry 43), are the model's choice. -/
def Obligations.WaitsAndFencesComplete : Prop :=
  (∀ (s : State) (l st : BitVec 6) (c tl : BitVec 5) (sc : FenceScope) (op : Nat), s.Ready →
    (s.tm.countsMet s.gp s.fr l.toNat st.toNat c.toNat tl.toNat = true → ∃ t, exec (.wait l st c tl) s = .next t ∧
      Completes 4 s t id id ∧ t.fr.pts = max s.fr.pts s.cpStamp) ∧
    (s.tm.countsMet s.gp s.fr l.toNat st.toNat c.toNat tl.toNat = false → ∃ t, exec (.wait l st c tl) s = .next t ∧
      t.fr.wait = .count l.toNat st.toNat c.toNat tl.toNat ∧ GoesTo s.fr.pc s (t.setFr { t.fr with wait := .none }) id id) ∧
    (s.fenceReady sc = true → ∃ t, exec (.fence sc) s = .next t ∧
      Completes 4 s { t with posted := s.posted, teams := s.teams } id id ∧ t.teams.map Team.noOuts = s.teams.map Team.noOuts ∧
      t.posted = s.posted.map fun p => if s.ownPosted p then { p with passed := max p.passed (scopePoint sc) } else p) ∧
    (s.fenceReady sc = false → ∃ t, exec (.fence sc) s = .next t ∧ t.fr.wait = .fence sc ∧
      GoesTo s.fr.pc s (t.setFr { t.fr with wait := .none }) id id) ∧
    (∃ t, exec (.loadDataReturn op) s = .next t ∧ t.gp.regs = s.gp.regs ∧ SameBytes s t ∧
      t.moduleRegs = { s.moduleRegs with teams := t.teams } ∧
      (s.underWay op = true → t = s) ∧
      (s.underWay op = false → (s.tm.outs.any fun o => o.id == op && o.cls == .ld) = true →
        (∀ l ∈ t.gp.lanes, ∀ e ∈ l.stk, e.pend ≠ some op) ∧ ∀ o ∈ t.tm.outs, ¬ (o.id = op ∧ o.cls = .ld)))) ∧
  (∀ (s : State) (sc : FenceScope) (op : Nat) (p : Posted) (rest : List Posted),
    (s.Placed → s.fr.wait = .fence sc → s.fr.rc = 0 → s.fr.lc = 0 → s.fenceReady sc = true →
      ∃ t, exec (.fenceComplete s.fragRef) s = .next t ∧
        GoesTo (s.fr.pc + 4) s { t with posted := s.posted, teams := s.teams } id (fun r => { r with wait := .none }) ∧
        t.teams.map Team.noOuts = s.teams.map Team.noOuts ∧
        t.posted = s.posted.map fun p => if s.ownPosted p then { p with passed := max p.passed (scopePoint sc) } else p) ∧
    (s.underWay op = false → (∀ q ∈ s.posted, q.id ≠ op) → ∃ t, exec (.storeAcknowledged op) s = .next t ∧ SameBytes s t ∧ t.posted = s.posted ∧
      t.tm.outs = s.tm.outs.filter fun o => !(o.id == op && o.cls == .st)) ∧
    (s.underWay op = false → s.posted = p :: rest → p.id = op → (∀ q ∈ rest, q.id ≠ op) →
      (p.passed < 2 → ∃ t, exec (.storeAcknowledged op) s = .next t ∧ SameBytes s t ∧
        t.posted.head? = some { p with passed := 2 } ∧ ∀ o ∈ t.tm.outs, ¬ (o.id = op ∧ o.cls = .st)) ∧
      (p.passed = 2 → ∃ t, exec (.storeAcknowledged op) s = .next t ∧ t.posted = rest ∧
        (∀ o ∈ t.tm.outs, ¬ (o.id = op ∧ o.cls = .st)) ∧
        (∀ a, t.byteAt 0 a = (p.bytes.reverse.lookup a).getD (s.byteAt 0 a)) ∧
        ∀ k ∈ [2, 4, 5], ∀ a, t.byteAt k a = s.byteAt k a)))

/-- R92, R186, R194, R197, R219, R221, R301: the walker's answer brings the translation of a miss to the core and makes the parked fragment
ready again, PAGE stops one whose page cannot come, a fragment passed over for 256 cycles is promoted, a yield ends, and the fetch agent
writes a line that a fragment waits for, as its die sees it, into the instruction cache of every core of the die that holds a team with the
same code, once no test of its row or of the receiving banks delays it. -/
def Obligations.PagingAndSchedulingEventsComplete : Prop :=
  ∀ (s : State) (va : Nat) (p : PageEntry) (line : Nat), s.Placed →
    (s.fr.wait = .page va → s.fr.replay = none → s.transOf va = none → s.pageOf s.ctx.fn va = some p →
      s.pageFails s.ctx.fn va = false → s.flipHeld (p.phys va) = false →
      ∃ t, exec (.translationResolved s.fragRef) s = .next t ∧ t.fr.regs = { s.fr.regs with wait := .none } ∧ t.fr.pc = s.fr.pc ∧
        t.transOf va = some { p with resident := true, lost := false } ∧
        { t with tm := s.tm, tlb := s.tlb, pages := s.pages } = s) ∧
    (s.fr.wait = .page va → s.fr.replay = none → (s.pageOf s.ctx.fn va).all (fun q => !q.resident) = true →
      s.fr.trap = none → s.tm.lp.trap ≠ 0 →
      ∃ t, exec (.page s.fragRef) s = .next t ∧ t.fr.pc = s.tm.lp.trap ∧ t.fr.fcode = 0x10 ∧ t.fr.fpc = BitVec.ofNat 64 va ∧
        t.fr.fmask = s.fr.mask ∧ t.fr.finfo = BitVec.ofNat 64 va ∧ t.fr.wait = .none ∧ SameBytes s t) ∧
    (256 ≤ s.fr.passed → exec (.starvationPromotion s.fragRef) s = .next (s.setFr { s.fr with promoted := true })) ∧
    exec (.yieldExpiry s.fragRef) s = .next (s.setFr { s.fr with yielded := false }) ∧
    (s.underTest (0, line) = true → exec (.fetchFill s.tm.core line) s = .next s) ∧
    (s.fr.wait = .fetch line → s.underTest (0, line) = false →
      (∀ u ∈ s.allTeams, s.underTest (codeMem, cacheKey u.core line) = false) → ∃ t, exec (.fetchFill s.tm.core line) s = .next t ∧
      (∀ u ∈ s.allTeams, dieOf u.core = dieOf s.tm.core → u.lp.code = s.tm.lp.code →
        t.codeLine u.core line = some { core := u.core, line := line, bytes := (List.range 128).map fun i => s.seenByte (dieOf s.tm.core) 0 (line * 128 + i) }) ∧
      t.fr.wait = .none ∧ { t with tm := s.tm, teams := s.teams, icache := s.icache } = s)

/-! ### Lane stream: engines, rings, work, accumulators -/

/-- R71, R72, R128, R201, R280, R283, R284: `vset` writes a word of a view, which the executing fragment sees from then on; a direct copy whose checks pass is registered, counts in the cp
class and lets the fragment go on, while its data moves later.

R71, R74, R75, R284, R285: an operation that need not wait starts; a direct copy completes as one event, which takes it out of the
tables, sets the presence of its destination lines and stamps its cp count; `tld` moves every valid element, fills the others and
the padding with zeros, and writes nothing else. -/
def Obligations.ViewsAndDirectCopiesComplete : Prop :=
  (∀ (s : State) (v : Fin 16) (d : Bool) (f : Fin 15) (imm : BitVec 32), s.Ready →
    let img := s.viewImage v.val
    let view := viewOf img
    let copies := fun (i : Instr) (pops : Nat) (kind : OpKind) (psp addr : Nat) =>
      let rd := view.globals [0]
      let pk := packedGlobals psp addr view.tileBytes
      s.Operands Use.none (.of pops 0) → s.viewFault view (wordOf i) [0] = none →
      s.operandFault ⟨kind, v.val, psp, addr⟩ view.tileBytes = none →
      (if kind.loads then s.checkPages s.tm rd pk else s.checkPages s.tm pk rd) = .ok → s.tm.cpBusy < 32 → s.TablesOpen →
      ∃ t o, exec i s = .next t ∧ Completes 4 s (t.unregistered s) id (fun r => { r with sstk := r.sstk.drop pops }) ∧
        t.ops = s.ops ++ [o] ∧ o.kind = kind ∧ o.view = img ∧ o.tile = 0 ∧ o.psp = psp ∧ o.paddr = addr ∧ o.pts = s.fr.pts ∧
        o.team = s.teamRef ∧ o.mask = s.fr.mask ∧
        ⟨o.id, .cp, s.gp.uid, s.fr.mask, 0, none⟩ ∈ t.tm.outs ∧ t.fr.region.entryPc = s.fr.pc + 4
    ((d = true → s.OperandsOf true (.of 1 0)) → ∃ t, exec (.vset d f v imm) s = .next t ∧
      Completes 6 s (t.setTm { t.tm with views := s.tm.views, vsets := s.tm.vsets }) id
        (fun r => if d then { r with sstk := r.sstk.tail } else r) ∧
      (let put := fun (w : List Half) => w.set f.val (if d then lo32 ((vals s.fr.sstk).headD 0) else imm)
       t.tm.views = s.tm.views.modify v.val put ∧ t.viewImage v.val = put img ∧
       ∀ u, u ≠ v.val → t.viewImage u = s.viewImage u)) ∧
    copies (.tld v) 1 .tld 2 ((vals s.fr.sstk).headD 0).toNat ∧
    copies (.tst v) 1 .tst 2 ((vals s.fr.sstk).headD 0).toNat ∧
    copies (.xfer v) 2 .xfer ((vals s.fr.sstk).headD 0).toNat (arg (vals s.fr.sstk) 1).toNat) ∧
  (∀ (s : State) (op : Nat) (o : EngineOp), s.opById op = some o →
    (s.opBlocked o = false → (o.unit = true → o.got = true) → exec (.engineOpStart op) s =
      .next { s with ops := s.ops.map fun e => if e.id = op then { e with waiting := false } else e }) ∧
    (o.kind = .tld ∨ o.kind = .tst ∨ o.kind = .xfer → o.waiting = false → s.opBlocked o = false →
      ∃ t, exec (.engineOpComplete op) s = .next t ∧ s.opGone o t ∧
        (∀ tm, s.findTeam o.team = some tm → ∀ x ∈ tm.outs, x.id = o.id → x.cls = .cp → ∃ um, t.findTeam o.team = some um ∧
          ∃ p, { x with done := some p } ∈ um.outs ∧ o.pts ≤ p) ∧
        (o.kind = .tld → o.psp = 2 → ((viewOf o.view).nibs = 1 → (viewOf o.view).tw % 2 = 0) → TileLoaded s t o)))

/-- R287 to R297: the ring instructions. `ring.get` takes the oldest FULL slot, or returns -1 at the end; `ring.put` publishes and
reserves the lowest FREE slot; `ring.done` frees a slot; `ring.eos` ends the group's production; `ring.sub` and `ring.drain` set up
the transfers; an undeclared ring raises RINGST. -/
def Obligations.RingInstructionsComplete : Prop :=
  ∀ (s : State) (q v : Fin 16) (g : Guard), s.Ready → s.tm.rings.length = 16 →
    let r := s.tm.ringAt q.val
    let x := (vals s.fr.sstk).headD 0
    let img := s.viewImage v.val
    let bad := fun (i : Instr) (slot : Nat) =>
      exec i s = .next (s.issue.raise ⟨.ringst, s.fr.mask, q.val + slot % 256 * 2 ^ 8⟩ s.fr.pc (s.fr.pc + 4))
    let done := fun (i : Instr) (f : FragRegs → FragRegs) (r' : Ring) => ∃ t, exec i s = .next t ∧
      Completes 4 s (t.setTm { t.tm with rings := s.tm.rings }) id f ∧ t.tm.rings = s.tm.rings.set q.val r' ∧
      t.fr.region.entryPc = s.fr.pc + 4
    let pop := fun (f : FragRegs) => { f with sstk := f.sstk.tail }
    let swapTop := fun (w : Word) (f : FragRegs) => { f with sstk := w :: f.sstk.tail }
    let push := fun (w : Word) (f : FragRegs) => { f with sstk := w :: f.sstk }
    (r.slots = 0 → (s.RoomOf true (.of 0 1) → bad (.ringGet q) 255) ∧ bad (.ringSub q v) 255 ∧ bad (.ringDrain q v) 255 ∧
      (s.OperandsOf true (.of 1 1) → bad (.ringPut q g) (namedSlot x)) ∧
      (s.OperandsOf true (.of 1 0) → bad (.ringDone q g) (namedSlot x) ∧ bad (.ringEos q g) (namedSlot x))) ∧
    (r.slots ≠ 0 →
      (s.RoomOf true (.of 0 1) → r.drain = none →
        (∀ i rest, r.queue = i :: rest → s.before (fun w => w == .ring q.val false) = false →
          s.tm.matrixWants q.val = false → done (.ringGet q) (push (BitVec.ofNat 64 i))
            { r with st := r.st.set i (.taken s.gp.uid), spts := r.spts.set i 0, queue := rest, taken := true }) ∧
        (r.queue = [] → r.allEos = true → done (.ringGet q) (push (BitVec.allOnes 64)) { r with ended := true })) ∧
      (s.OperandsOf true (.of 1 1) →
        (s.fr.guard g = false → done (.ringPut q g) id r) ∧
        (∀ r' i, s.fr.guard g = true → r.sub = none → r.offer s.gp.uid s.fr.pts x true = .ok r' → r'.freeSlot = some i →
          s.before (fun w => w == .ring q.val true) = false →
          done (.ringPut q g) (swapTop (BitVec.ofNat 64 i))
            { r' with st := r'.st.set i (.resv s.gp.uid), spts := r'.spts.set i 0 })) ∧
      (s.OperandsOf true (.of 1 0) →
        (s.fr.guard g = false → done (.ringDone q g) pop r ∧ done (.ringEos q g) pop r) ∧
        (∀ who, s.fr.guard g = true → x.toNat < r.slots → r.st.getD x.toNat .free = .taken who → r.sub = none →
          done (.ringDone q g) pop { r with st := r.st.set x.toNat .free, spts := r.spts.set x.toNat s.fr.pts }) ∧
        (∀ r', s.fr.guard g = true → r.offer s.gp.uid s.fr.pts x false = .ok r' →
          done (.ringEos q g) pop { r' with prods := r'.prods.map fun p => if p.who = some s.gp.uid then { p with eos := true } else p })) ∧
      ((viewOf img).tileBytes ≤ r.slotBytes → r.sub = none → r.drain = none →
        let stream := fun (pts born : Nat) =>
          ({ view := img, next := 0, pts := pts, busy := [], since := none, stamp := 0, born := born } : Stream)
        (r.ended = false → r.prods.length < 4 → (∀ p ∈ r.prods, p.who ≠ none) → r.freeSlot ≠ none →
          s.viewFault (viewOf img) (wordOf (.ringSub q v)) (List.range (viewOf img).tiles) = none →
          s.viewRegion (viewOf img) false = none → ∃ n, done (.ringSub q v) id
            { r with prods := r.prods ++ [{ who := none, eos := false, pts := s.fr.pts }], sub := some (stream s.fr.pts n) }) ∧
        (r.taken = false → s.viewFault (viewOf img) (wordOf (.ringDrain q v)) (List.range (viewOf img).tiles) = none →
          s.viewRegion (viewOf img) true = none → ∃ n, done (.ringDrain q v) id { r with drain := some (stream 0 n) })))

/-- R71, R288, R295: a subscription reserves the lowest FREE slot and issues the fill of its next tile, whose completion makes the slot
FULL; a drain takes the oldest FULL slot, and its write frees the slot. -/
def Obligations.RingTransfersComplete : Prop :=
  ∀ (s : State) (q : Fin 16) (op : Nat) (o : EngineOp), s.tm.live = true → s.tm.rings.length = 16 → s.tm.halting = false →
    let r := s.tm.ringAt q.val
    (∀ d i, r.sub = some d → r.freeSlot = some i → d.wants = true → s.putterAhead q.val d = false → s.teamRuns s.tm = true →
      s.streamServed s.tm false d = true → s.checkPages s.tm ((viewOf d.view).globals [d.next]) [] = .ok → s.TablesOpen →
      ∃ t e, exec (.ringSubscriptionFill s.teamRef q) s = .next t ∧ t.ops = s.ops ++ [e] ∧ e.kind = .fill ∧ e.slot = i ∧
        e.ring = q.val ∧ e.tile = d.next ∧ e.paddr = r.base + i * r.slotBytes ∧ e.pts = max d.pts (r.spts.getD i 0) ∧
        (t.tm.ringAt q.val).st = r.st.set i .resvSub ∧ (t.tm.ringAt q.val).sub.map Stream.next = some (d.next + 1) ∧
        SameBytes s t ∧ t.gp = s.gp ∧ t.teams = s.teams) ∧
    (∀ d i rest, r.drain = some d → r.queue = i :: rest → d.wants = true → s.teamRuns s.tm = true →
      s.streamServed s.tm true d = true → s.checkPages s.tm [] ((viewOf d.view).globals [d.next]) = .ok → s.TablesOpen →
      ∃ t e, exec (.ringDrainTake s.teamRef q) s = .next t ∧ t.ops = s.ops ++ [e] ∧ e.kind = .drain ∧ e.slot = i ∧
        e.ring = q.val ∧ e.tile = d.next ∧ e.paddr = r.base + i * r.slotBytes ∧ e.pts = max d.pts (r.spts.getD i 0) ∧
        (t.tm.ringAt q.val).st = r.st.set i .takenDrain ∧ (t.tm.ringAt q.val).queue = rest ∧
        (t.tm.ringAt q.val).drain.map Stream.next = some (d.next + 1) ∧ SameBytes s t ∧ t.gp = s.gp ∧ t.teams = s.teams) ∧
    (s.opById op = some o → o.waiting = false → s.opBlocked o = false → o.team = s.teamRef → o.ring = q.val →
      (∀ d k, o.kind = .fill → r.sub = some d → d.busy = [(k, o.slot, false)] → o.slot < r.st.length →
        ∃ t, exec (.ringFillComplete op) s = .next t ∧ s.opGone o t ∧ (t.tm.ringAt q.val).st = r.st.set o.slot .full ∧
          (t.tm.ringAt q.val).queue = r.queue ++ [o.slot] ∧
          (o.psp = 2 → ((viewOf o.view).nibs = 1 → (viewOf o.view).tw % 2 = 0) → TileLoaded s t o)) ∧
      (∀ d, o.kind = .drain → r.drain = some d →
        ∃ t, exec (.ringDrainWriteComplete op) s = .next t ∧ s.opGone o t ∧ (t.tm.ringAt q.val).st = r.st.set o.slot .free ∧
          (t.tm.ringAt q.val).queue = r.queue))

/-- R302 to R308, R323: `disp` draws the next index of the core's block, of the returned block whose first index is the lowest, or of a new block
of DBLK indices, and remembers it in the region; one in a region that holds an index begins a new region at itself; a region that is run again
takes the index that it held; `disp` pushes -1 when none is left; `task.get` takes the ready task of highest priority, marks it RUNNING and names its owner; `task.arm` and `task.done` are
posted to the pool.

R305, R307: at the home of its TCB a posted `task.arm` makes a NEW task ARMED, or READY where it waits for nothing; a `task.done`
makes a RUNNING task DONE and takes one from its successor's count, which readies an armed successor at 0. -/
def Obligations.DispenserAndTasksComplete : Prop :=
  (∀ (s : State) (g : Guard), s.Ready →
    let push := fun (w : Word) (f : FragRegs) => { f with sstk := w :: f.sstk }
    let pop := fun (f : FragRegs) => { f with sstk := f.sstk.tail }
    let k := s.ctx.tasks
    let x := (vals s.fr.sstk).headD 0
    let draws := fun (w : Word) (rest : List Nat) (f : LaunchCtx → LaunchCtx) => ∃ t, exec .disp s = .next t ∧
      Completes 4 s { t.setTm { t.tm with block := s.tm.block } with ctxs := s.ctxs } id (push w) ∧ t.tm.block = rest ∧
      t.fr.region.disp = some w ∧ t.fr.redisp = none ∧
      t.ctxs.map LaunchCtx.still = (s.ctxs.modify s.tm.ctx f).map LaunchCtx.still ∧
      t.fr.region.entryPc = if s.fr.region.disp.isSome then s.fr.pc else s.fr.region.entryPc
    (s.RoomOf true (.of 0 1) → s.fr.redisp = none →
      (∀ i rest, s.tm.block = i :: rest → draws (BitVec.ofNat 64 i) rest id) ∧
      (∀ i rest, s.tm.block = [] → (i :: rest) ∈ s.ctx.returned →
        (∀ b ∈ s.ctx.returned, b ≠ i :: rest → i < b.headD 0) →
        draws (BitVec.ofNat 64 i) rest fun k => { k with returned := k.returned.erase (i :: rest) }) ∧
      (s.tm.block = [] → s.ctx.returned = [] → s.ctx.dispC < s.ctx.lp.dcount → s.tm.ctx < s.ctxs.length →
        let first := s.ctx.dispC
        let hi := min (first + (if s.ctx.lp.dblk = 0 then 64 else s.ctx.lp.dblk)) s.ctx.lp.dcount
        draws (BitVec.ofNat 64 first) ((List.range (hi - first - 1)).map fun n => first + 1 + n) fun k => { k with dispC := hi }) ∧
      (s.tm.block = [] → s.ctx.returned = [] → s.ctx.lp.dcount ≤ s.ctx.dispC → ∃ t, exec .disp s = .next t ∧
        Completes 4 s t id (push (BitVec.allOnes 64)))) ∧
    (∀ w, s.RoomOf true (.of 0 1) → s.fr.redisp = some w → draws w s.tm.block id) ∧
    (s.RoomOf true (.of 0 1) → s.tm.lp.task = true → s.launchBefore (fun _ => true) (fun w => w == .task) = false →
      (∀ r pa, k.first = some r → s.tm.ctx < s.ctxs.length → s.physOf s.ctx.fn r.addr.toNat = some pa → s.flipHeld pa = false →
        ∃ t, exec .taskGet s = .next t ∧
          Completes 4 s { t.unwritten s with ctxs := s.ctxs } id (push r.addr) ∧ r.pts ≤ t.fr.pts ∧ t.gp.tcb = r.addr ∧
          t.byteAt 0 (pa + 25) = 3 ∧ t.natAt 0 (pa + 48) 4 = (agentOf s.fragRef).toNat ∧
          (∀ a, a ≠ pa + 25 → ¬ (pa + 48 ≤ a ∧ a < pa + 52) → t.byteAt 0 a = s.byteAt 0 a) ∧
          t.ctx.tasks.running = k.running ++ [(r.addr, s.teamRef)] ∧
          t.ctx.tasks.pool = k.pool.erase r ++ k.spillq.take 1) ∧
      (k.first = none → k.opened = 0 → (s.poolOps.any fun o => o.arm && o.ctx == s.tm.ctx) = false →
        ∃ t, exec .taskGet s = .next t ∧ Completes 4 s t id (push (BitVec.allOnes 64)))) ∧
    (s.OperandsOf true (.of 1 0) → s.tm.lp.task = true →
      (s.fr.guard g = false → (∃ t, exec (.taskArm g) s = .next t ∧ Completes 4 s t id pop) ∧
        (∃ t, exec (.taskDone g) s = .next t ∧ Completes 4 s t id pop)) ∧
      (∀ p y, s.fr.guard g = true → s.checkAddr .atomic .g 64 x.toNat = .good y → s.pageOf s.ctx.fn x.toNat = some p →
        p.region = 0 → ∀ arm : Bool, ∃ t o, exec (if arm then .taskArm g else .taskDone g) s = .next t ∧
          Completes 4 s { t with poolOps := s.poolOps } id pop ∧ t.poolOps = s.poolOps ++ [o] ∧ o.arm = arm ∧ o.tcb = x ∧
          o.pa = y.key ∧ o.pts = s.fr.pts ∧ o.team = s.teamRef ∧ ⟨o.id, .tl, s.gp.uid, s.fr.mask, 0, none⟩ ∈ t.tm.outs))) ∧
  (∀ (s : State) (op : Nat) (o : PoolOp), o.ctx < s.ctxs.length →
    let k := s.ctxs.getD o.ctx LaunchCtx.empty
    let after := fun (t : State) => t.ctxs.getD o.ctx LaunchCtx.empty
    let state := fun (u : State) (pa : Nat) => (u.byteAt 0 (pa + 25)).toNat
    (s.poolNext op true = some o → state s o.pa = 0 → (s.byteAt 0 (o.pa + 24)).toNat ≤ 7 →
      (s.natAt 0 (o.pa + 16) 4 ≠ 0 → ∃ t, exec (.taskArmApply op) s = .next t ∧ state t o.pa = 1 ∧
        (∀ a, a ≠ o.pa + 25 → t.byteAt 0 a = s.byteAt 0 a) ∧ (after t).tasks.opened = k.tasks.opened + 1 ∧
        (after t).tasks.pool = k.tasks.pool ∧ t.poolOps = s.poolOps.filter fun p => p.id != o.id) ∧
      (s.natAt 0 (o.pa + 16) 4 = 0 → k.tasks.pool.length < 4096 → ∃ t, exec (.taskArmApply op) s = .next t ∧
        state t o.pa = 2 ∧ t.natAt 0 (o.pa + 40) 8 = k.tasks.rseq % 2 ^ 64 ∧
        (after t).tasks.opened = k.tasks.opened + 1 ∧ (after t).tasks.rseq = k.tasks.rseq + 1 ∧
        (after t).tasks.pool.map ReadyTask.addr = k.tasks.pool.map ReadyTask.addr ++ [o.tcb])) ∧
    (s.poolNext op false = some o → state s o.pa = 3 →
      (s.natAt 0 (o.pa + 20) 4 = 0 → ∃ t, exec (.taskDoneApply op) s = .next t ∧ state t o.pa = 4 ∧
        (∀ a, a ≠ o.pa + 25 → t.byteAt 0 a = s.byteAt 0 a) ∧ (after t).tasks.opened = k.tasks.opened - 1 ∧
        (after t).tasks.running = k.tasks.running.filter fun x => x.1 != o.tcb) ∧
      (∀ l pa, s.natAt 0 (o.pa + 20) 4 = 1 → s.physOf k.fn (s.natAt 0 (o.pa + 32) 8) = some l →
        s.physOf k.fn (s.natAt 0 l 8) = some pa → (∀ i < 64, ∀ j < 64, o.pa + i ≠ pa + j) → state s pa = 1 →
        s.natAt 0 (pa + 16) 4 = 1 → k.tasks.pool.length < 4096 → ∃ t, exec (.taskDoneApply op) s = .next t ∧
          state t o.pa = 4 ∧ state t pa = 2 ∧ t.natAt 0 (pa + 16) 4 = 0 ∧
          (after t).tasks.pool.map ReadyTask.addr = k.tasks.pool.map ReadyTask.addr ++ [BitVec.ofNat 64 (s.natAt 0 l 8)])))

/-- R310, R311: a push appends the pairs of its lanes, the lowest first, and a pop takes the oldest items into its lanes; the try forms
move what fits and say in a predicate which lanes moved. -/
def Obligations.WorkQueuesComplete : Prop :=
  ∀ (s : State) (w : Fin 16) (g : Guard) (r : Fin 8) (q : WorkQueue), s.Ready → s.queueUnit w.val = some q →
    let m := s.guarded false g
    let some' := fun (n : Nat) => ((List.range 32).filter (inMask m)).take n
    let items := fun (t : State) (is : List (Word × Word × Nat)) =>
      t.wqs = s.wqs.map fun x => if x.die = q.die ∧ x.unit = q.unit then { x with items := is } else x
    let mark := fun (n : Nat) (l : LaneRegs) => setPred l.preds r.val ((some' n).contains l.ix)
    let taken := fun (n : Nat) (l : LaneRegs) => ((some' n).zip q.items).lookup l.ix
    let pushed := fun (n : Nat) => q.items ++ (some' n).map fun i => (arg (s.laneVals i) 1, arg (s.laneVals i) 0, s.fr.pts)
    (s.OperandsOf false (.of 2 0) →
      (q.items.length + countLanes m ≤ 4096 → s.queueAhead w.val true = false → ∃ t, exec (.wqPush w g) s = .next t ∧
        Completes 4 s { t with wqs := s.wqs } (fun l => { l with stk := l.stk.drop 2 }) id ∧ items t (pushed 32)) ∧
      (∃ t, exec (.wqPushTry w g r) s = .next t ∧ let n := 4096 - q.items.length
        Completes 4 s { t with wqs := s.wqs } (fun l => { l with stk := l.stk.drop 2, preds := mark n l }) id ∧
        items t (pushed n))) ∧
    (s.RoomOf false (.of 0 2) →
      (countLanes m ≤ q.items.length → s.queueAhead w.val false = false → ∃ t, exec (.wqPop w g) s = .next t ∧
        Completes 4 s { t with wqs := s.wqs } (fun l => { l with stk := match taken 32 l with
          | some x => x.2.1 :: x.1 :: l.stk
          | none => 0 :: 0 :: l.stk }) id ∧
        items t (q.items.drop (countLanes m)) ∧ ∀ x ∈ q.items.take (countLanes m), x.2.2 ≤ t.fr.pts) ∧
      (∃ t, exec (.wqPopTry w g r) s = .next t ∧ let n := q.items.length
        Completes 4 s { t with wqs := s.wqs } (fun l => { l with preds := mark n l, stk := match taken n l with
          | some x => x.2.1 :: x.1 :: l.stk
          | none => 0 :: 0 :: l.stk }) id ∧
        items t (q.items.drop (some' n).length)))

/-- R312, R314, R315, R316, R319: `spawn` and `spawn.try` put a child for each guarded lane into the entry's gathering line, which is formed
with its 32nd child, or into a new line, and count it in the lane's join counter, at one stamp that the fragment's pts reaches; where no line
can be had `spawn` raises SPAWNMEM and `spawn.try` says so in its guard predicate; an undeclared entry is ILLOP before all else, and a
join counter address of 0 SPACE. `spawn.flush` forms the entry's line, and so does its timer while the team's clock
runs; `cwait` forms all of them, goes on when the counters are 0 and waits before; that a fragment whose group stood in a deadlock set while it
was swapped out takes DLCK at its `cwait` is the model's choice (log entry 18). -/
def Obligations.SpawningCompletes : Prop :=
  ∀ (s : State) (e : Fin 64) (n : Fin 5) (g : Guard), s.Ready →
    let lanes := s.active.filter fun l => l.guard g
    let formed := fun (is : PocketLine → Bool) => s.tm.lines.map fun l => if !l.formed && is l then { l with formed := true } else l
    let kids := fun p => lanes.map fun l => ({ payload := ((vals l.stk).take n.val).reverse, jex := l.jcp, pts := p } : Kid)
    let mine := fun (l : LaneRegs) => lanes.any fun x => x.ix == l.ix
    let pas := lanes.filterMap fun l => (s.counterAt s.ctx.fn l.jcp).map Counter.pa
    let takes := fun (i : Instr) (fl : LaneRegs → LaneRegs) (lines : Nat → Nat → List PocketLine) => ∃ t p born, exec i s = .next t ∧
      Completes 4 s { (t.setTm { t.tm with lines := s.tm.lines }).unwritten s with ctxs := s.ctxs } fl id ∧
      t.tm.lines = lines p born ∧ s.fr.pts ≤ p ∧ p ≤ t.fr.pts ∧
      ((∀ a ∈ pas, ∀ b ∈ pas, a = b ∨ a + 4 ≤ b ∨ b + 4 ≤ a) →
        (∀ a ∈ pas, t.natAt 0 a 4 = (s.natAt 0 a 4 + pas.count a) % 2 ^ 32) ∧
        ∀ x, (∀ a ∈ pas, ¬ (a ≤ x ∧ x < a + 4)) → t.byteAt 0 x = s.byteAt 0 x) ∧
      ∀ k ∈ [2, 4, 5], ∀ x, t.byteAt k x = s.byteAt k x
    let spawns := fun (i : Instr) (try_ : Bool) (fl : LaneRegs → LaneRegs) =>
      (s.tm.lp.spawns.getD e.val 0 = 0 → exec i s = .next (s.issue.raise ⟨.illop, s.fr.mask, wordOf i⟩ s.fr.pc (s.fr.pc + 4))) ∧
      (s.tm.lp.spawns.getD e.val 0 ≠ 0 → s.Operands (if try_ then ⟨n.val, 0, 0⟩ else .of n.val 0) Use.none →
        ((lanes.filter fun l => l.jcp == 0) ≠ [] → exec i s = .next
          (s.issue.raise ⟨.space, maskOf fun j => (lanes.filter fun l => l.jcp == 0).any (·.ix == j), 0⟩ s.fr.pc (s.fr.pc + 4))) ∧
        ((∀ l ∈ lanes, l.jcp ≠ 0) → s.checkJoins .atomic lanes = .ok →
          (lanes = [] → takes i fl fun _ _ => s.tm.lines) ∧
          (∀ line, lanes ≠ [] → s.tm.lineOf e.val = some line → line.kids.length + lanes.length ≤ 32 →
            (try_ = true → s.tm.children ≤ s.tm.lp.cres) → (s.tm.lines.map PocketLine.born).Nodup →
            takes i fl fun p _ => s.tm.lines.map fun x => if x.born = line.born then
              { x with kids := x.kids ++ kids p, formed := decide (line.kids.length + lanes.length = 32) } else x) ∧
          (lanes ≠ [] → s.tm.lineOf e.val = none → 2048 ≤ s.spillFree → (s.pocketOf s.tm.core).length < 16 →
            (try_ = true → s.tm.children < s.tm.lp.cres) → (∀ x ∈ s.tm.lines, x.born ≤ s.seqNo) →
            takes i fl fun p born => s.tm.lines ++
              [{ entry := e.val, kids := kids p, formed := decide (lanes.length = 32), born := born, bornNs := s.now }]) ∧
          (lanes ≠ [] → s.tm.lineOf e.val = none → s.spillFree < 2048 → if try_ then ∃ t, exec i s = .next t ∧
              Completes 4 s { t with ctxs := s.ctxs } (fun l => if mine l then { l with preds := setPred l.preds g.p g.neg } else l) id
            else exec i s = .next (s.issue.raise ⟨.spawnmem, maskOf fun j => lanes.any (·.ix == j), s.spillFree % 2 ^ 32⟩
              s.fr.pc (s.fr.pc + 4)))))
    spawns (.spawn e n g) false (fun l => { l with stk := l.stk.drop n.val }) ∧
    spawns (.spawnTry e n g) true id ∧
    (∃ t, exec (.spawnFlush e) s = .next t ∧
      Completes 4 s { t.setTm { t.tm with lines := s.tm.lines } with ctxs := s.ctxs } id id ∧
      t.tm.lines = formed fun l => l.entry == e.val) ∧
    (s.checkJoins .load (s.active.filter fun l => l.jcp != 0) = .ok →
      (∀ n, s.fr.struck = some n →
        exec .cwait s = .next (s.issue.raise ⟨.dlck, s.fr.mask, n⟩ s.fr.pc (s.fr.pc + 4))) ∧
      (s.fr.struck = none → s.joinsDone s.tm s.gp s.fr = true → ∃ t, exec .cwait s = .next t ∧ s.fr.pts ≤ t.fr.pts ∧
        Completes 4 s { t.setTm { t.tm with lines := s.tm.lines } with ctxs := s.ctxs, stamps := s.stamps } id id ∧
        t.tm.lines = formed fun _ => true) ∧
      (s.fr.struck = none → s.joinsDone s.tm s.gp s.fr = false → ∃ t, exec .cwait s = .next t ∧ t.fr.wait = .cwait ∧ t.fr.pc = s.fr.pc ∧
        t.tm.lines = (formed fun _ => true) ∧ SameBytes s t)) ∧
    (s.pocketRuns s.teamRef = false → exec (.pocketTimerExpire s.teamRef e) s = .next s) ∧
    (s.tm.live = true → s.pocketRuns s.teamRef = true → ∃ t, exec (.pocketTimerExpire s.teamRef e) s = .next t ∧
      (t.tm.lines = formed fun l => l.entry == e.val) ∧ t.gp = s.gp ∧ SameBytes s t)

/-- R313, R315, R316, R317: a free reserve slot of lowest number goes to a swapped-out group whose counters are 0, then to the queued group
that is oldest, then to the oldest formed line, which becomes a child group of one lane for each child, standing at the entry with the
child's payload; with no slot free the line is queued; with every slot waiting in `cwait` and groups queued, the group that parked first
is swapped out, its region discarded; a pocket whose team is saved or whose clock stands does none of this (R346, R352). That swapping and queueing
leave every byte of the spill area as it was is the model's choice (log entry 28). -/
def Obligations.ChildGroupsStartAndAreSwapped : Prop :=
  ∀ (s : State), s.tm.live = true →
    (s.pocketRuns s.teamRef = false → exec (.childGroupStart s.teamRef) s = .next s ∧ exec (.swapOut s.teamRef) s = .next s) ∧
    (s.pocketRuns s.teamRef = true →
    let child := fun (g : Group) (r e : Nat) (kids : List Kid) => g.child = true ∧ g.gix = 32 + r ∧
      g.gslot = s.tm.resv.getD r 0 ∧ g.fr.pc = s.tm.lp.spawns.getD e 0 ∧ g.frs = [] ∧
      (∀ i, inMask g.fr.mask i = decide (i < 32 ∧ i < kids.length)) ∧
      ∀ i : Nat, ∀ k, i < 32 → kids[i]? = some k → ∃ l, g.lanes[i]? = some l ∧ l.live = true ∧ l.ix = i ∧
        vals l.stk = k.payload.reverse ∧ l.jex = some k.jex ∧ l.slots = List.replicate s.tm.lp.frame 0 ∧ k.pts ≤ g.fr.pts
    (∀ r rest, s.tm.freeReserve = r :: rest →
      (∀ g, s.tm.swapped.find? (fun g => s.swapReady s.tm g.2) = some g → ∃ t, exec (.childGroupStart s.teamRef) s = .next t ∧
        t.tm.gs = s.tm.gs ++ [{ g.2 with gslot := s.tm.resv.getD r 0 }] ∧ t.tm.swapped = s.tm.swapped.erase g ∧
        t.tm.queued = s.tm.queued ∧ t.tm.lines = s.tm.lines ∧ t.gp = s.gp ∧ SameBytes s t) ∧
      (s.tm.swapped.find? (fun g => s.swapReady s.tm g.2) = none →
        (∀ e kids more, s.tm.queued = (e, kids) :: more → ∃ t g, exec (.childGroupStart s.teamRef) s = .next t ∧
          t.tm.gs = s.tm.gs ++ [g] ∧ child g r e kids ∧ t.tm.queued = more ∧ t.tm.swapped = s.tm.swapped ∧
          t.tm.lines = s.tm.lines ∧ t.gp = s.gp ∧ SameBytes s t) ∧
        (∀ line, s.tm.queued = [] → s.tm.lines.find? (fun l => l.formed) = some line →
          ∃ t g, exec (.childGroupStart s.teamRef) s = .next t ∧ t.tm.gs = s.tm.gs ++ [g] ∧ child g r line.entry line.kids ∧
            t.tm.lines = s.tm.lines.erase line ∧ t.tm.queued = [] ∧ t.tm.swapped = s.tm.swapped ∧ t.gp = s.gp ∧ SameBytes s t))) ∧
    (∀ line, s.tm.freeReserve = [] → s.tm.lines.find? (fun l => l.formed) = some line →
      ∃ t, exec (.childGroupStart s.teamRef) s = .next t ∧ t.tm.queued = s.tm.queued ++ [(line.entry, line.kids)] ∧
        t.tm.lines = s.tm.lines.erase line ∧ t.tm.gs = s.tm.gs ∧ t.tm.swapped = s.tm.swapped ∧ t.gp = s.gp ∧ SameBytes s t) ∧
    (s.tm.freeReserve = [] → (s.tm.groups.filter Group.child) ≠ [] → (s.tm.groups.filter Group.child).all Group.inCwait = true →
      (s.tm.groups.map Group.gslot).Nodup → s.tm.queued ≠ [] → 4096 * Config.swapGranules s.ticks ≤ s.spillFree →
      ∃ t, ∃ old ∈ s.tm.groups, exec (.swapOut s.teamRef) s = .next t ∧ old.child = true ∧
        (∀ h ∈ s.tm.groups, h.child = true → old.parkedAt ≤ h.parkedAt) ∧
        t.tm.swapped = s.tm.swapped ++ [(Config.swapGranules s.ticks, old.rollback)] ∧
        (∀ h, h ∈ t.tm.groups ↔ h ∈ s.tm.groups ∧ h ≠ old) ∧ t.tm.queued = s.tm.queued ∧ SameBytes s t))

/-- R205, R206, R207, R235, R236: `acq` takes a GIVEN slot, has one that its group holds, and waits for any other; `rel` gives a held slot back;
`acc.ld` and `acc.st` move elements of a held slot and of no other: for a slot that the group does not hold, `rel`, `acc.ld` and `acc.st` raise
ACCTOK, for one outside the team's share `acq` too, and an element number of 4,096 or more raises SPACE; `mstart` starts a halted
sequencer. -/
def Obligations.AccumulatorsComplete : Prop :=
  ∀ (s : State) (a : Fin 16) (off : BitVec 14), s.Ready →
    let x := s.tm.acc.getD a.val AccSlot.empty
    let mine := x.tok = .lane s.gp.uid
    let back := fun (t : State) => t.setTm { t.tm with acc := s.tm.acc }
    let addr := fun (l : LaneRegs) k => (arg l.stk k).toNat
    let acctok := fun (i : Instr) => exec i s = .next (s.issue.raise ⟨.acctok, s.fr.mask, a.val⟩ s.fr.pc (s.fr.pc + 4))
    let tooFar := fun (k : Nat) => s.active.filter fun l => decide (4096 ≤ addr l.regs k)
    let space := fun (i : Instr) (k : Nat) => ∀ l ls, tooFar k = l :: ls → exec i s = .next
      (s.issue.raise ⟨.space, maskOf fun n => (tooFar k).any (·.ix == n), addr l.regs k⟩ s.fr.pc (s.fr.pc + 4))
    (s.tm.acc.length ≤ a.val ∨ ¬ mine → acctok (.rel a) ∧ (s.OperandsOf false (.of 1 1) → acctok (.accLd a)) ∧
      (s.OperandsOf false (.of 2 0) → acctok (.accSt a))) ∧
    (s.tm.acc.length ≤ a.val → acctok (.acq a)) ∧
    (a.val < s.tm.acc.length →
      (x.tok = .given → ∃ t, exec (.acq a) s = .next t ∧ Completes 4 s (back t) id id ∧
        t.tm.acc = s.tm.acc.set a.val { x with tok := .lane s.gp.uid } ∧ t.fr.pts = max s.fr.pts x.pts) ∧
      (mine → ∃ t, exec (.acq a) s = .next t ∧ Completes 4 s t id id) ∧
      (x.tok ≠ .given → ¬ mine → ∃ t, exec (.acq a) s = .next t ∧ t.fr.wait = .acq a.val ∧
        GoesTo s.fr.pc s (t.setFr { t.fr with wait := .none }) id id) ∧
      (mine → s.tm.seq.st ≠ .wtok a.val → ∃ t, exec (.rel a) s = .next t ∧ Completes 4 s (back t) id id ∧
        t.tm.acc = s.tm.acc.set a.val { x with tok := .back, pts := s.gp.maxPts }) ∧
      (mine → s.tm.seq.st = .wtok a.val → s.tm.seq.loops = [] → ∃ t, exec (.rel a) s = .next t ∧
        t.fr.pc = s.fr.pc + 4 ∧ t.tm.acc = s.tm.acc.set a.val { x with tok := .mat, pts := s.gp.maxPts } ∧ t.tm.seq.st = .run ∧
        t.tm.seq.mpc = s.tm.seq.mpc + 8 ∧ t.tm.seq.pts = max s.tm.seq.pts s.gp.maxPts) ∧
      (mine → s.OperandsOf false (.of 1 1) → space (.accLd a) 0 ∧ (s.underTest (s.accKey a.val) = false → tooFar 0 = [] →
        ∃ t, exec (.accLd a) s = .next t ∧
          Completes 4 s t (fun l => { l with stk := zx32 (x.tile.getD (addr l 0) 0) :: l.stk.tail }) id)) ∧
      (mine → s.OperandsOf false (.of 2 0) → space (.accSt a) 1 ∧ (s.underTest (s.accKey a.val) = false → tooFar 1 = [] →
        ∃ t, exec (.accSt a) s = .next t ∧ Completes 4 s (back t) (fun l => { l with stk := l.stk.drop 2 }) id ∧
          t.tm.acc = s.tm.acc.set a.val { x with
            tile := s.active.foldl (fun u l => u.set (addr l.regs 1) (lo32 (arg l.regs.stk 0))) x.tile }))) ∧
    (s.tm.seq.st = .halted → s.before (fun w => w == .mstart) = false → ∃ t, exec (.mstart off) s = .next t ∧
      Completes 4 s (t.setTm { t.tm with seq := s.tm.seq }) id id ∧
      t.tm.seq = { s.tm.seq with st := .run, mpc := ((s.fr.pc >>> 3) <<< 3) + (off.signExtend 64 <<< 3) }) ∧
    (s.tm.seq.st ≠ .halted → ∃ t, exec (.mstart off) s = .next t ∧ t.fr.wait = .mstart ∧
      GoesTo s.fr.pc s (t.setFr { t.fr with wait := .none }) id id)

/-! ### Traps, services, exit -/

/-- R208, R213, R214, R215: `trap` raises TRAPI and `brk` raises BRK. With a handler and outside it, taking the fault records the
interrupted registers, writes the trap registers, clears the loop registers, begins a region over the whole frame and goes to the
handler; operands, predicates, the C file's owner and all memory stay.

R83, R86, R173, R213: too few entries raise STKUNF, a pop below the region's entry depth REGUNF, a push without room STKOVF, in
this order, with no effect of the instruction. Where an instruction uses both stacks, as `perm` and `s2l` do, the lane stack comes before the
scalar one within each of the three (the model's choice, log entry 53). -/
def Obligations.FaultsEnterTheHandler : Prop :=
  (∀ (s : State) (k : Byte) (x : LaneFault) (pc next : Word), s.Awake → s.fr.trap = none → s.tm.lp.trap ≠ 0 →
    let enters := fun (t : State) (code : Nat) (mask : Mask) (info pc next : Word) =>
      GoesTo s.tm.lp.trap s (t.setFr { t.fr with trap := none }) id (fun r => { r with
        lc := 0, lb := 0, le := 0, rc := 0, fcode := BitVec.ofNat 32 code, fpc := pc, fmask := mask, finfo := info }) ∧
      t.fr.region.entryPc = s.tm.lp.trap ∧ t.fr.region.base = 0 ∧ t.fr.region.count = s.tm.lp.frame ∧
      ∃ r, t.fr.trap = some r ∧ r.pc = s.fr.pc ∧ r.next = next ∧ r.lc = s.fr.lc ∧ r.lb = s.fr.lb ∧ r.le = s.fr.le ∧
        r.rc = s.fr.rc ∧ r.cpreds = s.fr.cpreds ∧ r.ldepth = s.laneDepth ∧ r.sdepth = s.fr.sstk.length ∧
        r.region = s.fr.region
    ((x.code ≠ .brk → x.code ≠ .watch → enters (s.raise x pc next) (codeNum x.code) x.mask (BitVec.ofNat 64 x.info) pc next)) ∧
    (∃ t, exec (.trap k) s = .next t ∧ enters t 0x40 s.fr.mask (k.setWidth 64) s.fr.pc (s.fr.pc + 4)) ∧
    (s.ctx.attached = false → ∃ t, exec .brk s = .next t ∧ enters t 0x41 s.fr.mask 0 s.fr.pc (s.fr.pc + 2)) ∧
    (s.ctx.attached = true → ∃ t, exec .brk s = .next t ∧ t.fr.wait = .debug ∧ t.fr.fcode = 0x41 ∧ t.fr.pc = s.fr.pc ∧
      SameBytes s t)) ∧
  (∀ (s : State) (d : Bool), s.Awake → s.exempt = false →
    let depth := s.depthOf d
    let entry := s.entryDepth d
    let info := fun (n : Nat) => (if d then 1 else 0) + n * 2 ^ 16
    let faults := fun (i : Instr) (len : Nat) (x : LaneFault) =>
      exec i s = .next (s.issue.raise x s.fr.pc (s.fr.pc + BitVec.ofNat 64 len))
    (depth < 2 → faults (.swap d) 2 ⟨.stkunf, s.fr.mask, info depth⟩ ∧
      faults (.add .rne .i32 d) 2 ⟨.stkunf, s.fr.mask, info depth⟩) ∧
    (2 ≤ depth → depth - 2 < entry → faults (.swap d) 2 ⟨.regunf, s.fr.mask, info entry⟩ ∧
      faults (.add .rne .i32 d) 2 ⟨.regunf, s.fr.mask, info entry⟩) ∧
    (s.capOf d ≤ depth → faults (.lit d 0) 4 ⟨.stkovf, s.fr.mask, info depth⟩) ∧
    (1 ≤ depth → s.capOf d ≤ depth → faults (.dup d) 2 ⟨.stkovf, s.fr.mask, info depth⟩)) ∧
  (∀ (s : State) (ty : Ty), s.Awake → s.exempt = false →
    let l := s.laneDepth
    let n := s.fr.sstk.length
    let faults := fun (i : Instr) (len : Nat) (c : Code) (info : Nat) =>
      exec i s = .next (s.issue.raise ⟨c, s.fr.mask, info⟩ s.fr.pc (s.fr.pc + BitVec.ofNat 64 len))
    (l < 3 → faults (.perm ty) 4 .stkunf (l * 2 ^ 16)) ∧
    (3 ≤ l → n = 0 → faults (.perm ty) 4 .stkunf (1 + n * 2 ^ 16)) ∧
    (3 ≤ l → 1 ≤ n → l - 3 < s.entryDepth false → faults (.perm ty) 4 .regunf (s.entryDepth false * 2 ^ 16)) ∧
    (3 ≤ l → 1 ≤ n → s.entryDepth false ≤ l - 3 → n - 1 < s.entryDepth true →
      faults (.perm ty) 4 .regunf (1 + s.entryDepth true * 2 ^ 16)) ∧
    (n = 0 → faults .s2l 2 .stkunf (1 + n * 2 ^ 16)) ∧
    (1 ≤ n → n - 1 < s.entryDepth true → faults .s2l 2 .regunf (1 + s.entryDepth true * 2 ^ 16)) ∧
    (1 ≤ n → s.entryDepth true ≤ n - 1 → s.laneCap ≤ l → faults .s2l 2 .stkovf (l * 2 ^ 16)))

/-- R168, R172, R209, R217, R221: `tret` in a handler at the recorded depths brings the recorded registers and region back and continues
at the faulting instruction, or behind it with the repeat ended, where the loop check applies; behind a memory instruction that PAGE stopped
the finished lanes have their values and the others 0, and an atomic's region ends; at other depths it raises DEPTH, which no handler takes,
and outside a handler ILLOP.

R30, R213, R216: a fault that no handler takes, because the launch has none or the fragment is inside it, stops the fragment for
good, is logged with the identity of its unit, and ends the launch with the fault's code and the lane engine's identity, unless an earlier
fatal event stands. The layout of that log record (log entry 44), and that `tret 1` completes a memory instruction only while `%fcode` reads
0x10 (log entry 46), are the model's choice. -/
def Obligations.HandlersReturnAndUnhandledFaultsEndTheLaunch : Prop :=
  (∀ (s : State) (nx : Bool) (w : Nat), s.Awake → encode (.tret nx) = some (32, w) →
    (s.fr.trap = none → exec (.tret nx) s = .next (s.issue.raise ⟨.illop, s.fr.mask, w⟩ s.fr.pc (s.fr.pc + 4))) ∧
    (∀ r, s.fr.trap = some r → s.laneDepth = r.ldepth → s.fr.sstk.length = r.sdepth →
      let back := fun (f : FragRegs) => { f with lc := r.lc, lb := r.lb, le := r.le, cpreds := r.cpreds, trap := none }
      let after := fun (f : FragRegs) => { back f with rc := 0 }
      let paged := s.fr.fcode = 0x10 ∧ (r.replay.bind fun p => memOpOf p.ins) ≠ none
      let region := { r.region with breaks := false }
      let outer := ∃ lc lb le rest, s.fr.link = .loopTriple lc lb le :: rest
      (nx = false → ∃ t, exec (.tret nx) s = .next t ∧ GoesTo r.pc s t id (fun f => { back f with rc := r.rc }) ∧
        t.fr.region = r.region ∧ t.fr.pts = s.fr.pts) ∧
      (nx = true → ¬ paged →
        (r.lc = 0 ∨ r.next ≠ r.le → ∃ t, exec (.tret nx) s = .next t ∧ GoesTo r.next s t id after ∧ t.fr.region = region ∧
          t.fr.pts = s.fr.pts) ∧
        (1 < r.lc.toNat → r.next = r.le → ∃ t, exec (.tret nx) s = .next t ∧
          GoesTo r.lb s t id (fun f => { after f with lc := r.lc - 1 }) ∧ t.fr.region = region) ∧
        (r.lc = 1 → r.next = r.le → ¬ outer → ∃ t, exec (.tret nx) s = .next t ∧
          GoesTo r.next s t id (fun f => { after f with lc := 0, lb := 0, le := 0 }) ∧ t.fr.region = region) ∧
        (∀ lc lb le rest, r.lc = 1 → r.next = r.le → s.fr.link = .loopTriple lc lb le :: rest → lc = 0 ∨ le ≠ r.next →
          ∃ t, exec (.tret nx) s = .next t ∧
            GoesTo r.next s t id (fun f => { after f with lc := lc, lb := lb, le := le, link := rest }) ∧ t.fr.region = region)) ∧
      (∀ p m, nx = true → s.fr.fcode = 0x10 → r.replay = some p → memOpOf p.ins = some m → r.lc = 0 ∨ r.next ≠ r.le →
        let out := fun ix => if m.pushes = 0 then [] else [((p.vals.lookup ix).map Entry.val).getD 0]
        ∃ t, exec (.tret nx) s = .next t ∧
          GoesTo r.next s t (fun l => if m.d then l else { l with stk := out l.ix ++ l.stk.drop m.pops })
            (fun f => { after f with sstk := if m.d then out (lowestLane s.fr.mask) ++ f.sstk.drop m.pops else f.sstk }) ∧
          (m.acc ≠ .atomic → t.fr.region = region) ∧ (m.acc = .atomic → t.fr.region.entryPc = r.next))) ∧
    (∀ r, s.fr.trap = some r → s.laneDepth ≠ r.ldepth ∨ s.fr.sstk.length ≠ r.sdepth → exec (.tret nx) s =
      .next (s.issue.raise ⟨.depth, s.fr.mask, depthInfo 0 r.ldepth s.laneDepth r.sdepth s.fr.sstk.length true⟩ s.fr.pc (s.fr.pc + 4)))) ∧
  (∀ (s : State) (x : LaneFault) (pc next : Word), s.fr.trap ≠ none ∨ s.tm.lp.trap = 0 → x.code ≠ .brk → x.code ≠ .watch →
    s.tm.ctx < s.ctxs.length →
    let e := laneEngine s.tm.core
    let f : Fatal := { status := 1, code := codeNum x.code, engine := e, detail := 0, tick := s.ticks, place := lanePlace s.fragRef }
    (s.raise x pc next).fr.wait = .dead ∧ (s.raise x pc next).ctx.phase = .stopping ∧
    (s.raise x pc next).ctx.fatal = some (Fatal.first s.ctx.fatal f) ∧
    (s.raise x pc next).dbgLog = s.dbgLog ++
      [(s.tm.ctx, dumpHead e s.ctx s.gp.tcb ++ laneRecord x e pc)])

/-- R210, R211, R344: `mark` adds the number of active lanes to its counter; an unknown service returns all ones, and the others park
until Tison replies, in the order in which they reached it: echo gives the argument back, notice writes a record and posts a SERVICE
completion, read-progress gives a counter, and make-resident answers 0 for a mapped page. The offsets within the notice record are the model's
choice (log entry 27). -/
def Obligations.MarksAndServicesComplete : Prop :=
  ∀ (s : State) (k : Fin 16) (n : BitVec 14) (a : Word),
    (s.Ready → s.tm.ctx < s.ctxs.length → s.ctx.prog.length = 16 → ∃ t, exec (.mark k) s = .next t ∧
      Completes 4 s { t with ctxs := s.ctxs } id id ∧
      t.ctx.prog = s.ctx.prog.set k.val (s.ctx.prog.getD k.val 0 + BitVec.ofNat 64 (countLanes s.fr.mask))) ∧
    (s.Ready → s.OperandsOf true (.of 1 1) →
      (4 ≤ n.toNat → ∃ t, exec (.svc n) s = .next t ∧
        Completes 4 s t id (fun r => { r with sstk := BitVec.allOnes 64 :: r.sstk.tail })) ∧
      (n.toNat < 4 → ∃ t, exec (.svc n) s = .next t ∧ t.fr.wait = .svc n.toNat ((vals s.fr.sstk).headD 0) ∧
        GoesTo s.fr.pc s (t.setFr { t.fr with wait := .none }) id id)) ∧
    (∀ r, s.fr.wait = .reply r → s.fr.replay = none → s.fr.rc = 0 → s.fr.lc = 0 → s.LanesOk → s.OperandsOf true (.of 1 1) →
      ∃ t, exec (.svc n) s = .next t ∧ Completes 4 s t id (fun f => { f with sstk := r :: f.sstk.tail, wait := .none })) ∧
    (s.Placed → s.serviceBefore = true →
      exec (.svcEcho s.fragRef) s = .next s ∧ exec (.svcNotice s.fragRef) s = .next s ∧
        exec (.svcReadProgress s.fragRef) s = .next s ∧ exec (.svcMakeResident s.fragRef) s = .next s) ∧
    (s.Placed → s.serviceBefore = false →
      (s.fr.wait = .svc 0 a → exec (.svcEcho s.fragRef) s = .next (s.setFr { s.fr with wait := .reply a })) ∧
      (s.fr.wait = .svc 2 a → exec (.svcReadProgress s.fragRef) s =
        .next (s.setFr { s.fr with wait := .reply (s.ctx.prog.getD (a.toNat % 16) 0) })) ∧
      (s.fr.wait = .svc 3 a →
        (∀ p, s.pageOf s.ctx.fn a.toNat = some p → ∃ t, exec (.svcMakeResident s.fragRef) s = .next t ∧
          t.fr.wait = .reply 0 ∧ { p with resident := true, lost := false } ∈ t.pages ∧ SameBytes s t) ∧
        (s.pageOf s.ctx.fn a.toNat = none →
          exec (.svcMakeResident s.fragRef) s = .next (s.setFr { s.fr with wait := .reply 1 }))) ∧
      (∀ pa, s.fr.wait = .svc 1 a → s.tm.ctx < s.ctxs.length → s.ctx.queue < s.queues.length →
        s.physOf s.ctx.fn (s.ctx.svcArea.toNat + 64 * (s.ctx.svcNext % 64)) = some pa →
        ∃ t, exec (.svcNotice s.fragRef) s = .next t ∧ t.fr.wait = .reply (BitVec.ofNat 64 (s.ctx.svcNext % 64)) ∧
          t.natAt 0 pa 4 = (agentOf s.fragRef).toNat ∧ t.natAt 0 (pa + 8) 8 = a.toNat ∧
          t.natAt 0 (pa + 16) 8 = s.now % 2 ^ 64 ∧ (∀ b, ¬ (pa ≤ b ∧ b < pa + 64) → t.byteAt 0 b = s.byteAt 0 b) ∧
          t.ctx.svcNext = (s.ctx.svcNext % 64 + 1) % 64 ∧
          ∃ c, (t.queues.getD s.ctx.queue (HostQueue.reset 0)).comps =
            (s.queues.getD s.ctx.queue (HostQueue.reset 0)).comps ++ [c] ∧ c.status = 6 ∧ c.seq = s.ctx.seqno))

/-- R82, R185, R206, R313: the lanes of a fragment that exits are gone, and their seats are empty; the group's other lanes stay as
they are where no seam and no held cross-lane operation names the ones that leave; a child lane's counter goes down by 1.

R66, R313: each child lane that exits subtracts 1 from its parent's join counter; that a counter which cannot be reached yet, as one on a page
that is not resident, is awaited is the model's choice (log entry 54). -/
def Obligations.ExitEmptiesTheLanes : Prop :=
  (∀ (s : State), s.Awake → s.stepping = none → (∀ f ∈ s.gp.frs, ∀ m, f.wait ≠ .xlane m) → (∀ x ∈ s.gp.seams, x.st ≠ .part) →
    (∀ l ∈ s.active, l.jex = none) → ∃ t, exec .exit s = .next t ∧
      t.fr.mask = 0 ∧ (t.gp.lanes.map Lane.regs = s.gp.lanes.map fun l =>
        if inMask s.fr.mask l.ix then (Lane.empty l.ix).regs else l.regs) ∧
      SameBytes s t ∧ SameModule s { t with islands := s.islands } ∧ (t.tm.over = false → t.islands = s.islands) ∧
      (t.gp.alive = true ∨ ∀ n < t.tm.acc.length, (t.tm.acc.getD n AccSlot.empty).tok ≠ .lane s.gp.uid)) ∧
  (∀ (s : State), s.Awake → (∀ f ∈ s.gp.frs, ∀ m, f.wait ≠ .xlane m) →
    let joins := s.active.filterMap (·.jex)
    let pas := joins.filterMap fun a => (s.counterAt s.ctx.fn a).map Counter.pa
    (joins.length = pas.length → (∀ a ∈ pas, ∀ b ∈ pas, a = b ∨ a + 4 ≤ b ∨ b + 4 ≤ a) → ∃ t, exec .exit s = .next t ∧
      (∀ a ∈ pas, t.natAt 0 a 4 = (s.natAt 0 a 4 + pas.count a * (2 ^ 32 - 1)) % 2 ^ 32) ∧
      ∀ b, (∀ a ∈ pas, ¬ (a ≤ b ∧ b < a + 4)) → t.byteAt 0 b = s.byteAt 0 b) ∧
    (joins.length ≠ pas.length → ∃ t va, exec .exit s = .next t ∧ t.fr.wait = .page va ∧ SameBytes s t ∧
      t.gp.lanes.map Lane.regs = s.gp.lanes.map Lane.regs))

/-! ### The matrix stream -/

/-- R248, R252, R254, R258, R267, R270, R271: setup changes the sequencer alone and goes on at MPC + 8 or at the target, with the
check of the loop stack, which repeats a body while its count lasts.

R270: at the end of the innermost body the count falls by one and the body is entered again, until the last pass, after which the
entry goes and the loop outside is checked. Which labels lie in the code is the model's choice (log entry 24). -/
def Obligations.MatrixControlCompletes : Prop :=
  (∀ (s : State) (t : Fin 32) (sp : TSpace) (base off : BitVec 32) (rs : BitVec 12) (ty : Ty) (k : BitVec 16) (f : LinForm)
    (ac au : Fin 16),
    let q := s.tm.seq
    let on := fun (q : Seq) => q.goTo (q.mpc + 8)
    let label := q.mpc + (off.signExtend 64 <<< 3)
    let view := fun (g : TileView → TileView) => { q with tv := q.tv.modify t.val g }
    let w := fun (n : Fin 16) i => ((s.tm.views.getD n.val []).getD i 0).toNat
    (∃ u, exec .mnop s = .next u ∧ SeqDone s u (on q)) ∧
    (∃ u, exec .mhalt s = .next u ∧ SeqDone s u { q with st := .halted }) ∧
    (∃ u, exec (.mseed k) s = .next u ∧ SeqDone s u (on { q with gen := genSeed s.tm.seed (k.toNat + 65535) })) ∧
    (∃ u, exec (.mview t sp base rs ty) s = .next u ∧ SeqDone s u (on (view fun v =>
      { v with base := base.toNat, rs := rs.toNat, ty := codeOfTy ty, sp := Machine.tspaceCode sp }))) ∧
    (∃ u, exec (.mlin t f) s = .next u ∧ SeqDone s u (on (view fun v => match f with
      | .off => { v with lin := false }
      | .imm lsp lbase lsh => { v with lin := true, lbase := lbase.toNat, lshift := lsh.val + 3, lsp := Machine.tspaceCode lsp }
      | .view n => { v with lin := true, lbase := w n 10 + w n 11 * 2 ^ 32, lshift := w n 12 % 16, lsp := 0 }))) ∧
    (k ≠ 0 → q.loops.length < 4 → ∃ u, exec (.mloop k off) s = .next u ∧ SeqDone s u (on { q with
      loops := { count := k.toNat, body := q.mpc + 8, fin := label } :: q.loops })) ∧
    (k = 0 → s.inCode label = true → ∃ u, exec (.mloop k off) s = .next u ∧ SeqDone s u (q.goTo label)) ∧
    (s.inCode label = true → ∃ u, exec (.mjmp off) s = .next u ∧ SeqDone s u
      ({ q with loops := q.loops.filter fun l => decide (l.body ≤ label) && decide (label ≤ l.fin) }.goTo label)) ∧
    (ac.val < s.tm.acc.length → au.val < s.tm.acc.length → s.tm.lp.yoke = true → ac ≠ au → ∃ u, exec (.myoke ac au) s = .next u ∧
      SeqDone s u (on { q with yoke := some (ac.val, au.val), lp := 3 }))) ∧
  (∀ (s : State) (l : MLoop) (ls : List MLoop), s.tm.seq.loops = l :: ls →
    let q := s.tm.seq
    (l.fin = q.mpc + 8 → 2 ≤ l.count → ∃ u, exec .mnop s = .next u ∧
      SeqDone s u { q with loops := { l with count := l.count - 1 } :: ls, mpc := l.body, st := .run }) ∧
    (l.fin = q.mpc + 8 → l.count = 1 → (∀ k ∈ ls.head?, k.fin ≠ q.mpc + 8) → ∃ u, exec .mnop s = .next u ∧
      SeqDone s u { q with loops := ls, mpc := q.mpc + 8, st := .run }) ∧
    (∀ k ks, l.fin = q.mpc + 8 → l.count = 1 → ls = k :: ks → k.fin = q.mpc + 8 → 2 ≤ k.count → ∃ u, exec .mnop s = .next u ∧
      SeqDone s u { q with loops := { k with count := k.count - 1 } :: ks, mpc := k.body, st := .run }) ∧
    (l.fin ≠ q.mpc + 8 → ∃ u, exec .mnop s = .next u ∧ SeqDone s u { q with mpc := q.mpc + 8, st := .run }))

/-- R234, R235, R236, R269: the sequencer arrives at barriers and waits for their phases; it gives slots to the lanes and takes them
back. -/
def Obligations.MatrixMeetingsComplete : Prop :=
  ∀ (s : State) (b a : Fin 16),
    let q := s.tm.seq
    let on := q.goTo (q.mpc + 8)
    let x := s.tm.barAt b.val
    let y := { x with seqArr := true, seqLast := some x.phase, pts := max x.pts q.pts }
    let bars := fun (u : State) => u.setTm { u.tm with bars := s.tm.bars }
    let accs := fun (u : State) => u.setTm { u.tm with acc := s.tm.acc }
    let z := s.accSlot a.val
    (x.plusM = false → (∃ u, exec (.marv b) s = .next u ∧ SeqDone s u on) ∧ ∃ u, exec (.mwt b) s = .next u ∧ SeqDone s u on) ∧
    (x.plusM = true → x.seqArr = false → (List.range x.groups).all (s.tm.hasArrived x) = false →
      (∀ k, s.stepOf s.tm = some k → k.doneAt = none → (s.tm.barAt k.bar).phase ≤ k.phase) → ∃ u, exec (.marv b) s = .next u ∧ SeqDone s (bars u) on ∧ u.tm.bars = s.tm.bars.set b.val y) ∧
    (x.plusM = true → x.seqArr = false → (List.range x.groups).all (s.tm.hasArrived x) = true → b.val < s.tm.bars.length →
      s.stepping = none → q.st = .run → ∃ u, exec (.marv b) s = .next u ∧ (u.tm.barAt b.val).phase = x.phase + 1 ∧ (u.tm.barAt b.val).arr = [] ∧
        (u.tm.barAt b.val).seqArr = false ∧ u.tm.seq.pts = max q.pts x.pts ∧ u.tm.seq.mpc = on.mpc ∧ u.tm.seq.st = .run ∧
        u.tm.seq.cp = (if s.tm.lp.yoke then s.tm.presence x else q.cp) ∧
        u.tm.seq.lp = (if s.tm.lp.yoke then q.lp &&& s.tm.presence x else q.lp) ∧ SameBytes s u ∧ SameModule s u) ∧
    (x.plusM = true → x.seqArr = true → SeqWaits (.marv b) s (.wbar b.val x.phase true)) ∧
    (x.plusM = true → x.seqLast = none → ∃ u, exec (.mwt b) s = .next u ∧ SeqDone s u on) ∧
    (∀ p, x.plusM = true → x.seqLast = some p →
      (p < x.phase → ∃ u, exec (.mwt b) s = .next u ∧ SeqDone s u on) ∧
      (x.phase ≤ p → SeqWaits (.mwt b) s (.wbar b.val p false))) ∧
    (s.HasSlot a.val → s.tm.firstAcq a.val = none → ∃ u, exec (.mgive a) s = .next u ∧ SeqDone s (accs u) on ∧
      u.tm.acc = s.tm.acc.set a.val { z with tok := .given, pts := q.pts }) ∧
    (∀ g, s.HasSlot a.val → s.tm.firstAcq a.val = some g → ∃ u, exec (.mgive a) s = .next u ∧
      SeqDone s ((accs u).setTm { (accs u).tm with gp := s.tm.gp, gs := s.tm.gs }) on ∧
      u.tm.acc = s.tm.acc.set a.val { z with tok := .lane g.uid, pts := q.pts } ∧
      u.tm.gp.regs = s.tm.gp.regs ∧ u.tm.gs.map Group.regs = s.tm.gs.map Group.regs ∧
      ∀ h ∈ u.tm.gp :: u.tm.gs, h.uid = g.uid → ∀ f ∈ h.allFrags, q.pts ≤ f.pts) ∧
    (a.val < s.tm.acc.length → z.tok = .mat → ∃ u, exec (.mtake a) s = .next u ∧ SeqDone s u on) ∧
    (a.val < s.tm.acc.length → z.tok = .back → ∃ u, exec (.mtake a) s = .next u ∧
      SeqDone s (accs u) { on with pts := max q.pts z.pts } ∧ u.tm.acc = s.tm.acc.set a.val { z with tok := .mat }) ∧
    (a.val < s.tm.acc.length → z.tok ≠ .mat → z.tok ≠ .back → SeqWaits (.mtake a) s (.wtok a.val))

/-- R54, R55, R57, R232, R244, R253, R259, R260, R262: with slots held, operands there and the array free, a product is added into its
slot; B may be the head slot of a ring, which the matrix side takes, and frees with RD; `mmay` adds one product for each present
half. Lining is read through the core's scale cache (R238). That the class of zero grains only is taken from DCF where A is a slot, and for `mmay`
from the first present half's view, is the model's choice (log entry 68). -/
def Obligations.MatrixProductsComplete : Prop :=
  (∀ (s u : State) (x : MmaArgs) (m n : Nat) (vb : TileView) (slot : Option Nat) (c : Machine.Class),
    let sh := mmaShapeOf x
    let d := s.algDim x.alg.val
    let ty := dcfTy x.dcf
    let codes := sh.slotA (s.accSlot x.a.val).tile m d ty x.rm s.tm.seq.gen
    let xs := (if x.aa then [] else [sh.aTile (s.tileView x.a.val) m d]) ++ [sh.bTile vb n d]
    let a := if x.aa then codesA codes.1 (4 * sh.kq) d ty else (s.lined xs).viewA sh (s.tileView x.a.val) d
    let b := (s.lined xs).viewB sh vb d
    let r := s.tm.ringAt x.b.val
    let rs := (if x.aa then [x.a.val] else []) ++ if x.zero then [] else [x.c.val]
    let tile := (s.accSlot x.c.val).tile
    ((x.bq = false ∧ slot = none ∧ vb = s.tileView x.b.val ∧ u = s) ∨ (x.bq = true ∧ ∃ i, slot = some i ∧
      vb = { s.tileView x.x5.val with base := r.base + i * r.slotBytes, sp := 2 } ∧
      ((s.tm.seq.held.find? (fun h => h.1 == x.b.val) = some (x.b.val, i) ∧ u = s) ∨
        (s.tm.seq.held.find? (fun h => h.1 == x.b.val) = none ∧ r.slots ≠ 0 ∧ r.drain = none ∧ r.queue.head? = some i ∧
          u = s.setTm { s.tm with
            rings := s.tm.rings.set x.b.val { r.setSlot i .takenMat 0 with queue := r.queue.tail, taken := true }
            seq := { s.tm.seq with held := s.tm.seq.held ++ [(x.b.val, i)] } })))) →
    s.HasSlot x.c.val → (x.aa = true → s.HasSlot x.a.val) → sizeOf? x.mc = some m → sizeOf? x.nc = some n → x.kq ≠ 0 → n * d ≤ 64 →
    (if x.aa then 4 * sh.kq ≤ 64 ∧ (sh.aTile TileView.empty m d).cols ≤ 64 ∧ straddles d (grainNibs ty) = false
      else viewsBad d [sh.aTile (s.tileView x.a.val) m d] = false) → viewsBad d [sh.bTile vb n d] = false →
    s.TilesIn xs (x.c.val :: rs) rs →
    opClass (pairsOf m n (4 * sh.kq) a b) (if x.aa then ty else (s.tileView x.a.val).type) vb.type = .ok c →
    4 * sh.kq % c.chunk = 0 → m * n * (4 * sh.kq) * d * d ≤ 4096 * c.rate → s.ArrayFree c.units →
    ∃ t y, exec (.mma x) s = .next t ∧
      OpDone s t { u.tm.seq with
        gen := if x.aa then codes.2 else s.tm.seq.gen
        held := if x.rd && slot.isSome then u.tm.seq.held.filter (fun h => h.1 != x.b.val) else u.tm.seq.held } ∧
      Multiplied sh m n d c.chunk (s.tm.tabs.getD (x.alg.val - 1) AlgTable.empty) a b tile y ∧
      t.tm.acc = s.tm.acc.set x.c.val { s.accSlot x.c.val with
        tile := y, bad := (s.accSlot x.c.val).bad && !(x.zero && m * (n * d) == 4096) } ∧ t.tm.tabs = s.tm.tabs ∧ SameBytes s t ∧
      t.tm.rings = (match slot with
        | some i => if x.rd then u.tm.rings.modify x.b.val (fun r => { r.setSlot i .free t.tm.seq.pts with
            sub := r.sub.map fun d => { d with pts := max d.pts t.tm.seq.pts } }) else u.tm.rings
        | none => s.tm.rings)) ∧
  (∀ (s : State) (x : MmayArgs) (m n ac au : Nat) (c : Machine.Class),
    let sh := mmayShapeOf x
    let d := s.algDim x.alg.val
    let vb := s.tileView x.b.val
    let hs := (if s.tm.seq.cp.getLsbD 1 then [(ac, s.tileView x.a.val)] else []) ++
      (if s.tm.seq.cp.getLsbD 0 then [(au, s.tileView x.x5.val)] else [])
    let ts := hs.map (fun h => sh.aTile h.2 m d) ++ [sh.bTile vb n d]
    let b := (s.lined ts).viewB sh vb d
    let tab := s.tm.tabs.getD (x.alg.val - 1) AlgTable.empty
    s.tm.lp.yoke = true → s.tm.seq.yoke = some (ac, au) → ac ≠ au → s.HasSlot ac → s.HasSlot au → sizeOf? x.mc = some m →
    sizeOf? x.nc = some n → x.kq ≠ 0 → n * d ≤ 64 →
    (hs = [] → s.ArrayFree 0 → ∃ t, exec (.mmay x) s = .next t ∧ OpDone s t s.tm.seq ∧ t.tm.acc = s.tm.acc ∧ t.tm.tabs = s.tm.tabs ∧
      t.tm.rings = s.tm.rings ∧ SameBytes s t) ∧
    (hs ≠ [] → viewsBad d ts = false → s.TilesIn ts (hs.map (·.1)) (if x.zero then [] else hs.map (·.1)) →
      opClass (hs.flatMap fun h => pairsOf m n (4 * sh.kq) ((s.lined ts).viewA sh h.2 d) b) (hs.headD (0, TileView.empty)).2.type vb.type = .ok c →
      4 * sh.kq % c.chunk = 0 → m * n * (4 * sh.kq) * d * d * hs.length ≤ 4096 * c.rate → s.ArrayFree c.units →
      ∃ t, exec (.mmay x) s = .next t ∧ OpDone s t s.tm.seq ∧ t.tm.acc.length = s.tm.acc.length ∧
        (∀ k, (t.accSlot k).tok = (s.accSlot k).tok ∧ (t.accSlot k).pts = (s.accSlot k).pts) ∧
        (∀ k, (∀ h ∈ hs, h.1 ≠ k) → t.accSlot k = s.accSlot k) ∧
        (∀ h ∈ hs, Multiplied sh m n d c.chunk tab ((s.lined ts).viewA sh h.2 d) b (s.accSlot h.1).tile (t.accSlot h.1).tile) ∧
        t.tm.tabs = s.tm.tabs ∧ t.tm.rings = s.tm.rings ∧ SameBytes s t))

/-- R49, R52, R239, R244, R256, R257, R263, R264, R265, R266, R268: with its slots held, its operands there and the array free, each
operation that moves or makes a tile, a table or the scale completes; the bytes it writes are those of its tile's places and of
their lining entries.

R231, R232, R272, R273, R349: an operation whose array is busy or whose line is absent waits in WRES and changes nothing; the array
goes to a waiting context, which asks the collar; with both it starts, which takes the stamp and leaves slots and memory as they
are; its completion writes its results, gives array and units back, and lets the sequencer go on. What `mld` makes of an infinite element, and that
an error of a slot that `mguide` reads goes with its result (log entry 68), that operations without class take 0 units (log entry 52), and that
an operation may complete in a later step than the one that starts it (log entry 19) are the model's choice. -/
def Obligations.MatrixTilesComplete : Prop :=
  (∀ (s : State) (c : Fin 16) (a b : Fin 32) (nc mc g : Fin 4) (ta zero : Bool) (dcf : Dcf) (rm : Rm) (m n ac au : Nat)
    (bs : List Byte),
    let q := s.tm.seq
    let tile := (s.accSlot c.val).tile
    let setAcc := fun (y : List Half) (whole : Bool) =>
      s.tm.acc.set c.val { s.accSlot c.val with tile := y, bad := (s.accSlot c.val).bad && !whole }
    let v := s.tileView a.val
    let w := s.tileView b.val
    let ty := dcfTy dcf
    let rest := fun (t : State) => t.tm.tabs = s.tm.tabs ∧ t.tm.rings = s.tm.rings
    (s.HasSlot c.val → s.slotsWait [c.val] = false → s.ArrayFree 0 → ∃ t, exec (.mzero c) s = .next t ∧ OpDone s t q ∧
      t.tm.acc = setAcc (List.replicate 4096 0) true ∧ rest t ∧ SameBytes s t) ∧
    (s.HasSlot c.val → s.ArrayFree 0 → sizeOf? mc = some m → sizeOf? nc = some n →
      (moveTileOf v m n ta false).tooWide = false → s.TilesIn [moveTileOf v m n ta false] [c.val] [] →
      let x := s.lined [moveTileOf v m n ta false]
      let r := roundAll rm (fun e u => convertTo fmtF32 rm u (if ta then x.elemVal v e.2 e.1 else x.elemVal v e.1 e.2))
        (cellsOf m n) q.gen
      ∃ t, exec (.mld c a nc mc ta zero rm) s = .next t ∧ OpDone s t { q with gen := r.2 } ∧
        t.tm.acc = setAcc (r.1.foldl (fun y x => setCell y x.1.1 x.1.2 x.2) (if zero then List.replicate 4096 0 else tile)) (zero || m * n == 4096) ∧
        rest t ∧ SameBytes s t) ∧
    (s.HasSlot c.val → s.ArrayFree 0 → sizeOf? mc = some m → sizeOf? nc = some n →
      (moveTileOf v m n ta true).tooWide = false → s.TilesIn [moveTileOf v m n ta true] [c.val] [c.val] → v.type = ty → (v.lin = true → v.shiftOk = true) →
      let r := roundAll (stepMode ty rm) (fun e u => downConvert ty rm u (cell tile e.1 e.2)) (cellsOf m n) q.gen
      ∃ t, exec (.mst a c nc mc ta dcf rm) s = .next t ∧ OpDone s t { q with gen := r.2 } ∧ t.tm.acc = s.tm.acc ∧ rest t ∧
        PutAll s t (s.tileWrites v (r.1.map fun x => (if ta then (x.1.2, x.1.1) else x.1, x.2)) ++
          (moveTileOf v m n ta true).entries.flatMap fun e => s.entryWrite v e (liningCode ty) 0x7F)) ∧
    (s.HasSlot c.val → s.ArrayFree 0 → sizeOf? mc = some m → sizeOf? nc = some n →
      let ra : Tile := { v := v, rows := m, cols := n, wr := true }
      let rb : Tile := { v := w, rows := n, cols := m, wr := true }
      ra.tooWide = false → rb.tooWide = false → ra.blockBad = false → rb.blockBad = false → s.TilesIn [ra, rb] [c.val] [c.val] →
      v.lin = true → v.shiftOk = true → v.type = ty → w.lin = true → w.shiftOk = true → w.type = ty →
      let val := fun r k => decodeF fmtF32 (cell tile r k)
      ∃ t, exec (.mqdual a b c nc mc dcf) s = .next t ∧ OpDone s t q ∧ t.tm.acc = s.tm.acc ∧ rest t ∧
        PutAll s t (s.quantWrites ra ty val ++ s.quantWrites rb ty fun r k => val k r)) ∧
    (s.HasSlot c.val → s.HasSlot ac → s.HasSlot au → s.tm.lp.yoke = true → q.yoke = some (ac, au) → s.ArrayFree 0 →
      s.slotsWait [c.val, ac, au] = false →
      let x := (s.accSlot ac).tile
      let y := (s.accSlot au).tile
      let bad := (s.slotsBad ((if q.lp.getLsbD 1 then [ac] else []) ++ if q.lp.getLsbD 0 then [au] else [])).isSome
      let setG := fun (z : List Half) => s.tm.acc.set c.val { s.accSlot c.val with tile := z, bad := bad }
      ∃ t, exec (.mguide c) s = .next t ∧ OpDone s t { q with lp := 3 } ∧ rest t ∧ SameBytes s t ∧
        (q.lp = 3 → t.tm.acc = setG (x.zipWith (fun c u => BitVec.ofNat 32 (guideElem q.gs.toNat c.toNat u.toNat)) y)) ∧
        (q.lp = 1 → t.tm.acc = setG y) ∧ (q.lp = 2 → t.tm.acc = setG x) ∧ (q.lp = 0 → t.tm.acc = s.tm.acc)) ∧
    (s.BaseIn v 72 bs → tableFault bs (2 ^ nc.val) = none → ∃ t, exec (.malg g a nc) s = .next t ∧
      OpDone s t q ∧
      t.tm.tabs = s.tm.tabs.set g.val { bytes := bs, dim := 2 ^ nc.val } ∧ t.tm.acc = s.tm.acc ∧ t.tm.rings = s.tm.rings ∧
      SameBytes s t) ∧
    (s.BaseIn v 4 bs → ∃ t, exec (.mscale a) s = .next t ∧ OpDone s t { q with gs := BitVec.ofNat 32 (ofBytes bs) } ∧
      t.tm.acc = s.tm.acc ∧ rest t ∧ SameBytes s t)) ∧
  (∀ (s : State) (c : Fin 16) (a : Fin 32) (nc mc : Fin 4) (rm : Rm) (m n units : Nat) (f : Flight) (rd : List Touch)
    (hits : List ScaleBlock),
    let q := s.tm.seq
    let isl := islandOf s.tm.core
    let tile := moveTileOf (s.tileView a.val) m n false false
    (s.HasSlot c.val → s.arrayBusy = true → SeqWaits (.mzero c) s (.wres (.mzero c))) ∧
    (s.HasSlot c.val → sizeOf? mc = some m → sizeOf? nc = some n → tile.tooWide = false → s.tileFault [tile] = none →
      s.linesWait (linesOf ((s.lined [tile]).readPlaces [tile])) [] = true →
      SeqWaits (.mld c a nc mc false false rm) s (.wres (.mld c a nc mc false false rm))) ∧
    (s.tm.live = true → s.teamRuns s.tm = true → s.seqHeld s.tm = false →
      (s.teams.all fun u => u.core != s.tm.core) = true → q.st = .wres (.mzero c) → s.HasSlot c.val → s.slotsWait [c.val] = false →
      (q.array = false → q.flight = none → ∃ t, exec (.arrayGrant s.tm.core) s = .next t ∧
        t = s.setSeq { q with array := true }) ∧
      (q.array = true → q.units = 0 → ∃ t, exec (.matrixOpStart s.teamRef) s = .next t ∧ t.tm.seq.st = .run ∧
        t.tm.seq.flight.isSome = true ∧ t.tm.acc = s.tm.acc ∧ SameBytes s t)) ∧
    (s.tm.live = true → s.teamRuns s.tm = true → s.seqHeld s.tm = false →
      (s.teams.all fun u => u.core != s.tm.core) = true → s.readyUnits s.tm = some units → units ≠ 0 →
      q.array = false → q.flight = none →
      ∃ t, exec (.arrayGrant s.tm.core) s = .next t ∧ t.tm.seq.array = true ∧
        (((s.islandAt isl).cq = [] ∧ (s.islandAt isl).fits units = true ∧ t.tm.seq = { q with array := true, units := units } ∧
            t.islands = s.islands.modify isl fun x => { x with used := x.used + units }) ∨
          (¬((s.islandAt isl).cq = [] ∧ (s.islandAt isl).fits units = true) ∧ t.tm.seq = { q with array := true } ∧
            t.islands = s.islands.modify isl fun x => { x with
              cq := x.cq ++ [{ team := s.teamRef, op := none, burst := false, units := units, prio := s.tm.lp.prio }] }))) ∧
    (s.tm.live = true → s.teamRuns s.tm = true → s.seqHeld s.tm = false →
      (∃ i, s.prepWres = some (i, true, s, .go units f rd hits)) → q.array = true → q.units = units →
      ∃ t, exec (.matrixOpStart s.teamRef) s = .next t ∧
        t.tm.seq = { q with st := .run, pts := t.tm.seq.pts, lp := f.lp.getD q.lp, took := none,
                            flight := some { f with reads := linesOf rd } } ∧
        q.pts ≤ t.tm.seq.pts ∧ { t with tm := { t.tm with seq := q }, stamps := s.stamps, scales := s.scales } = s) ∧
    (s.tm.live = true → q.flight = some f → s.tm.over = false →
      ∃ t, exec (.matrixOpComplete s.teamRef) s = .next t ∧ PutAll s t f.writes ∧
        t.tm.acc = f.tiles.foldl (fun (y : List AccSlot) x => y.modify x.slot fun z =>
          { z with tile := x.tile, bad := x.bad || (z.bad && !x.whole) }) s.tm.acc ∧
        t.tm.tabs = (match f.table with
          | some x => s.tm.tabs.set x.1 x.2
          | none => s.tm.tabs) ∧
        t.tm.rings = (match f.free with
          | some x => s.tm.rings.modify x.1 fun r => { r.setSlot x.2 .free q.pts with
              sub := r.sub.map fun d => { d with pts := max d.pts q.pts } }
          | none => s.tm.rings) ∧
        t.tm.seq = { ({ q with gen := f.gen, gs := f.gs.getD q.gs }).goTo (q.mpc + 8) with
          flight := none, array := false, units := 0, waitNs := s.now
          held := (match f.free with
            | some x => q.held.filter fun h => h.1 != x.1
            | none => q.held) } ∧
        t.islands = s.islands.modify isl (fun x => { x with used := x.used - q.units }) ∧
        { t.opBack s with islands := s.islands } = s))

/-- R235, R242, R245, R249, R268, R270, R271, R275, R276: what the sequencer refuses; each fault ends the launch, and nothing of the
instruction takes effect. The identity before the dump's record, where the dump goes in the debug area, and that only resident pages take it, are
the model's choice (log entry 44). -/
def Obligations.SequencerFaultsEndTheLaunch : Prop :=
  ∀ (s : State) (a ac au : Fin 16) (x : MmaArgs) (y : MmayArgs) (v : Fin 32) (nc mc g dim : Fin 4) (k : BitVec 16)
    (off : BitVec 32) (bs : List Byte) (i : Nat),
    let q := s.tm.seq
    let label := q.mpc + (off.signExtend 64 <<< 3)
    let code := fun (n : Fin 16) => n.val + tokenCode (s.accSlot n.val).tok * 16
    (s.tm.acc.length ≤ a.val → SeqFaults (.mgive a) s .mtok (a.val + 64) ∧ SeqFaults (.mtake a) s .mtok (a.val + 64) ∧
      SeqFaults (.mzero a) s .mtok (a.val + 64)) ∧
    (a.val < s.tm.acc.length → (s.accSlot a.val).tok ≠ .mat → SeqFaults (.mgive a) s .mtok (code a) ∧
      SeqFaults (.mzero a) s .mtok (code a) ∧ SeqFaults (.mma { x with c := a }) s .mtok (code a) ∧
      SeqFaults (.mguide a) s .mtok (code a)) ∧
    (ac.val < s.tm.acc.length → au.val < s.tm.acc.length →
      (s.tm.lp.yoke = false → SeqFaults (.myoke ac au) s .yoke 0) ∧ (s.tm.lp.yoke = true → ac = au → SeqFaults (.myoke ac au) s .yoke 1)) ∧
    (s.tm.lp.yoke = true → q.yoke = none → SeqFaults (.mmay y) s .yoke 2 ∧ (s.HasSlot a.val → SeqFaults (.mguide a) s .yoke 2)) ∧
    (s.HasSlot x.c.val → (x.aa = true → s.HasSlot x.a.val) → (x.mc = 3 ∨ x.nc = 3 ∨ x.kq = 0) →
      SeqFaults (.mma x) s .mshape (4 + x.kq.toNat * 256)) ∧
    (s.HasSlot a.val → (mc = 3 ∨ nc = 3) → SeqFaults (.mld a v nc mc false false .rne) s .mshape 4 ∧
      SeqFaults (.mst v a nc mc false .f32 .rne) s .mshape 4 ∧ SeqFaults (.mqdual v v a nc mc .e4m3) s .mshape 4) ∧
    (s.BaseIn (s.tileView v.val) 72 bs → tableFault bs (2 ^ dim.val) = some i → SeqFaults (.malg g v dim) s .algt i) ∧
    (s.tm.tileSpace (s.tileView v.val).sp (s.tileView v.val).base 4 = false →
      SeqFaults (.mscale v) s .space (s.tileView v.val).base) ∧
    (k ≠ 0 → 4 ≤ q.loops.length → SeqFaults (.mloop k off) s .stkovf 4) ∧
    (s.inCode label = false → SeqFaults (.mjmp off) s .space label.toNat ∧ SeqFaults (.mloop 0 off) s .space label.toNat)

/-! ### Tison and launches -/

/-- R335, R336, R337: the four instructions of a Tison core: the next command of a queue, a bit field, a signal, a launch; each one's
exception; and the end of a wait. The order in which the cores of a mask are numbered, that a record which no command names claims a free context,
and the exception where none is free (log entry 21), the causes of an access that reaches no memory (log entry 63), and that a ring lies in host
memory (log entry 31) are the model's choice. -/
def Obligations.TisonInstructionsComplete : Prop :=
  ∀ (s : State) (rd rs1 rs2 : Fin 32) (q n m : Fin 64) (time : BitVec 12) (core : Fin 4),
    let c := s.curTison
    let x := s.tison.getD c Tison.reset
    let done := fun v => s.withTison c fun x => x.done rd.val v
    let trap := fun (i : Instr) cause => s.withTison c fun x => x.trapped cause (wordOf i)
    let h := s.queueAt q.val
    let sig := (x.reg rs1.val).toNat
    let heard := s.signals.getLsbD sig = true ∧ (s.waiters.any fun w => w.sig == sig) = false
    c < s.tison.length →
    exec (.tnBfx rd rs1 n m) s = .next (done ((x.reg rs1.val >>> n.val) &&& BitVec.ofNat 64 (2 ^ (m.val + 1) - 1))) ∧
    (h.en = false → exec (.tnRingf rd q) s = .next (trap (.tnRingf rd q) 25)) ∧
    (h.en = true → h.unfetched = 0 ∨ s.stopReq = true ∨ s.stopped = true → exec (.tnRingf rd q) s = .next (done 0)) ∧
    (h.en = true → h.unfetched ≠ 0 → s.stopReq = false → s.stopped = false →
      let pa := 2 ^ 51 + h.cbase.toNat % 2 ^ 51 + 64 * (h.head.toNat % 2 ^ h.log2.toNat)
      exec (.tnRingf rd q) s = .next { done (BitVec.ofNat 64 (2 ^ 63 + pa)) with queues := s.queues.modify q.val fun h => { h with
        fetched := h.fetched ++ [(List.range 64).map fun i => s.seenByte 4 0 (pa + i)], head := BitVec.ofNat 12 ((h.head.toNat % 2 ^ h.log2.toNat + 1) % 2 ^ h.log2.toNat) } }) ∧
    (1024 ≤ sig → exec (.tnSigw rd rs1 time) s = .next (trap (.tnSigw rd rs1 time) 26)) ∧
    (sig < 1024 → heard → exec (.tnSigw rd rs1 time) s = .next { done 1 with signals := s.signals &&& ~~~BitVec.twoPow 1024 sig }) ∧
    (sig < 1024 → ¬ heard → time = 0 → exec (.tnSigw rd rs1 time) s = .next (done 0)) ∧
    (sig < 1024 → ¬ heard → time ≠ 0 → exec (.tnSigw rd rs1 time) s = .next { s.withTison c (fun x => { x with asleep := true }) with
      waiters := s.waiters ++ [.core c sig rd.val (some (s.now + time.toNat * 1000))] }) ∧
    (∀ d sg r, s.waiters.find? (fun w => match w with
        | .core c _ _ (some d) => c == core.val && decide (d ≤ s.now)
        | _ => false) = some (.core core.val sg r (some d)) → exec (.tnSigwTimeout core) s =
      .next { s.withTison core.val (fun x => x.done r 0) with waiters := s.waiters.erase (.core core.val sg r (some d)) }) ∧
    (s.tisonRange c (x.reg rs1.val) 128 = none →
      exec (.tnDisp rs1 rs2) s = .next (s.withTison c fun x => x.trapped 5 (x.reg rs1.val).toNat)) ∧
    (∀ p m, s.tisonRange c (x.reg rs1.val) 128 = some p → s.tisonRange c (x.reg rs2.val) 72 = some m →
      let cores := (List.range 576).filter fun n => (s.seenNat 4 m.1 m.2 72).testBit n
      let k := s.launchAt p.1 p.2
      let own := s.recordCtx p.1 p.2
      (cores.all (s.coreFits k.lp) = false → exec (.tnDisp rs1 rs2) s = .next (trap (.tnDisp rs1 rs2) 27)) ∧
      (cores.all (s.coreFits k.lp) = true → s.admits = false → exec (.tnDisp rs1 rs2) s = .next s) ∧
      (cores.all (s.coreFits k.lp) = true → s.admits = true →
        (own = none → s.freeCtx = none → exec (.tnDisp rs1 rs2) s = .next (trap (.tnDisp rs1 rs2) 27)) ∧
        (∀ z, own = some z ∨ (own = none ∧ s.freeCtx = some z) → z < s.ctxs.length → 1 ≤ k.lp.team →
          ∃ t, exec (.tnDisp rs1 rs2) s = .next t ∧ t.admitted k z (dispOrder k.lp cores) ∧
            (t.tison.getD c Tison.reset).pc = x.pc + 4)))

/-- R28, R299, R339, R341, R368: a LAUNCH is checked, and rejected with the first field that fails; else it claims the lowest free context,
or waits in its queue for one; an operation that no command has is rejected, and so is every command in RECOVERY; a launch whose
place is free is admitted. Tison's reads of the record and its tables are events (R66). The order in which the fields are checked, and that the
LAUNCH row rejects an operation that no command has, are the model's choice (log entry 56). -/
def Obligations.LaunchesAreCheckedAndAdmitted : Prop :=
  ∀ (s : State) (q : Fin 64) (cmd : List Byte) (place : List Rect) (lanes : Mask) (c : Nat),
    let ask := (s.launchOf q.val cmd).1
    let has := fun (t : State) (k : LaunchCtx) =>
      { t with ctxs := s.ctxs } = s ∧ (t.ctxs.getD c LaunchCtx.empty).phase = .waiting ∧ (t.ctxs.getD c LaunchCtx.empty).lp = k.lp ∧
        (t.ctxs.getD c LaunchCtx.empty).queue = k.queue ∧ (t.ctxs.getD c LaunchCtx.empty).seqno = k.seqno ∧
        ∀ d, d ≠ c → t.ctxs.getD d LaunchCtx.empty = s.ctxs.getD d LaunchCtx.empty
    (s.headCmd q.val (fun op => op == 0 || decide (8 ≤ op)) = some cmd → ∃ t, exec (.launch q) s = .next t ∧
      t.untraced s = s.ended q.val (completion cmd 3 0 0)) ∧
    (∀ r, s.headCmd q.val (fun op => op == 1) = some cmd → s.headerBad cmd = some r → ∃ t, exec (.launch q) s = .next t ∧
      t.untraced s = s.ended q.val (completion cmd 3 r.code r.detail)) ∧
    (∀ r, s.CommandAt q.val 1 cmd → firstBad (s.launchChecks q.val cmd) = some r → ∃ t, exec (.launch q) s = .next t ∧
      (t.unread s).untraced s = s.ended q.val (completion cmd 3 r.code r.detail) ∧ SameCores s t) ∧
    (s.CommandAt q.val 1 cmd → firstBad (s.launchChecks q.val cmd) = none →
      (s.freeCtx = none → ∃ t, exec (.launch q) s = .next t ∧ t.unread s = { s with
        queues := s.queues.modify q.val fun h => { h with pendL := some ask } } ∧ SameCores s t) ∧
      (s.freeCtx = some c → c < s.ctxs.length → ∃ t, exec (.launch q) s = .next t ∧ has (t.unread s) ask ∧ SameCores s t)) ∧
    (∀ k, (s.queueAt q.val).pendL = some k → s.stopReq = false → s.stopped = false → s.freeCtx = some c → c < s.ctxs.length →
      ∃ t, exec (.launch q) s = .next t ∧
        has { t with queues := s.queues } k ∧ t.queues = s.queues.modify q.val fun h => { h with pendL := none }) ∧
    (let k := s.ctxs.getD c LaunchCtx.empty
     let cores := place.flatMap (rectCores k.lp.cw k.lp.ch)
     s.waitingCtx q.val = some c → s.admits = true → lanes ≠ 0 → place.length = k.lp.nclus →
      (place.all fun p => rectFits k.lp.cw k.lp.ch p && k.lp.dieList.contains p.die) = true → s.placeable k.lp cores = true →
      1 ≤ k.lp.team → ∃ t, exec (.launchAdmit q place lanes) s = .next t ∧ t.admitted k c cores ∧
        t.queues = s.queues.modify q.val fun h => { h with fetched := h.fetched.drop 1, order := h.order.drop 1, blocked := false })

/-- R28, R30, R225, R342, R350: a team that is over retires; with the last one gone the launch completes, with its first fatal event, with
TASK where tasks are open, or OK, and its context is free; a launch that ends by a fault loses each team as soon as it can be pre-empted,
and until then the team issues nothing new.

R320, R321, R322: a check of a launch that runs: with no deadlock set nothing happens; with one, its record is written and every
parked fragment of a member receives DLCK. The record's layout, and that a group that is swapped out takes DLCK once it runs again, are the model's
choice (log entry 18), and so are that a killed launch's operations end at once (log entry 14) and how its teams stop one by one (log entry
57). -/
def Obligations.TeamsRetireAndLaunchesEnd : Prop :=
  (∀ (s : State) (ctx : Fin 8),
    let r := s.teamRef
    let k := s.ctxs.getD ctx.val LaunchCtx.empty
    let x := match k.fatal with
      | some x => x
      | none => if k.tasks.opened = 0 then ⟨0, 0, 0, 0, 0, 0⟩ else ⟨1, 0x32, 3 * 2 ^ 13 + 4 * 2 ^ 10, k.tasks.oldest, 0, 0⟩
    (s.tm.live = true → s.tm.over = true → s.tm.seq.st = .halted → s.tm.seq.flight = none → s.opsOf r = false →
      s.ctx.copy = none → ∃ t, exec (.teamRetire r) s = .next t ∧ t.tm = Team.empty ∧ { t.untraced s with tm := s.tm, ctxs := s.ctxs } = s ∧
        t.ctxs = s.ctxs.modify s.tm.ctx fun k => { k with
          returned := if s.tm.block.isEmpty then k.returned else k.returned ++ [s.tm.block]
          gangGone := k.gangGone ++ s.tm.gangRecord }) ∧
    (k.phase = .running ∨ k.phase = .stopping → (s.allTeams.any fun t => t.ctx == ctx.val) = false →
      (s.ops.any fun o => o.team.ctx == ctx.val) = false → (s.poolOps.any fun o => o.ctx == ctx.val) = false →
      ((s.stopped = false ∧ (s.stopReq = false ∨ s.commandsOver = false)) ∨ k.fatal = none ∨ k.copy ≠ none) →
      ∃ t, exec (.launchComplete ctx) s = .next t ∧
        { t.untraced s with ctxs := s.ctxs, queues := s.queues, wqs := s.wqs, seqNo := s.seqNo, l1 := s.l1, scales := s.scales } = s ∧
        t.queues = s.queues.modify k.queue (fun h => { h with comps := h.comps ++
          [{ seq := k.seqno, status := x.status, code := x.code, engine := x.engine, detail := x.detail, sig := k.sig }] }) ∧
        (ctx.val < s.ctxs.length → (t.ctxs.getD ctx.val LaunchCtx.empty).phase = .free ∧
          (t.ctxs.getD ctx.val LaunchCtx.empty).bps = k.bps) ∧
        t.l1 = s.l1.filter (fun c => !(c.shared && k.map.any fun m => m.2 == c.core)) ∧
        t.scales = s.scales.filter (fun c => !(c.shared && k.map.any fun m => m.2 == c.core)) ∧
        t.wqs = s.wqs.filter fun w => w.ctx != some ctx.val) ∧
    (k.phase = .stopping → (∀ f ∈ k.fatal, f.status ≠ 2) →
      ((∀ u ∈ s.allTeams, u.ctx = ctx.val → s.canPreempt u = true) → ∃ t, exec (.launchStop ctx) s = .next t ∧
        (t.allTeams = s.allTeams.filter fun u => u.ctx != ctx.val) ∧
        { t with tm := s.tm, teams := s.teams, islands := s.islands, ctxs := s.ctxs } = s) ∧
      ((∀ u ∈ s.allTeams, u.ctx = ctx.val → s.canPreempt u = false) → ∃ t, exec (.launchStop ctx) s = .next t ∧
        (t.allTeams = s.allTeams.map fun u => if u.ctx = ctx.val then { u with halting := true } else u) ∧
        { t with tm := s.tm, teams := s.teams } = s)) ∧
    (∀ f, k.phase = .stopping → k.fatal = some f → f.status = 2 → ∃ t, exec (.launchStop ctx) s = .next t ∧
      (∀ u ∈ t.allTeams, u.ctx ≠ ctx.val) ∧ (∀ o ∈ t.ops, o.team.ctx ≠ ctx.val) ∧ (∀ o ∈ t.poolOps, o.ctx ≠ ctx.val) ∧
      SameBytes s t)) ∧
  (∀ (s : State) (ctx : Fin 8),
    let as := (s.deadSet ctx.val).mergeSort fun a b => decide ((s.memberOf a).1 ≤ (s.memberOf b).1)
    let k := s.ctxs.getD ctx.val LaunchCtx.empty
    let rec_ := s.deadRecord ctx.val as
    let dumped := (s.dump ctx.val (deadUnit as) 0 rec_).modCtx ctx.val fun k => { k with deadN := k.deadN + 1 }
    (s.ctxs.getD ctx.val LaunchCtx.empty).phase = .running → s.stopped = false →
    (as = [] → exec (.deadlockCheck ctx) s = .next s) ∧
    (as ≠ [] → ∃ t, exec (.deadlockCheck ctx) s = .next t ∧ s.dbgLog ++ [(ctx.val, dumpHead (deadUnit as) k 0 ++ rec_)] <+: t.dbgLog) ∧
    (s.Placed → as = [.group s.teamRef s.gp.uid] → as.flatMap s.deadFrags = [s.fragRef] →
      exec (.deadlockCheck ctx) s =
        .next (let u := dumped.unmend; u.raise ⟨.dlck, s.fr.mask, k.deadN⟩ s.fr.pc u.parkedNext)) ∧
    (∀ n g, s.Placed → (s.allTeams.map Team.ref).Nodup → .swapped s.teamRef n ∈ as → s.tm.swapped[n]? = some g → s.tm.lp.trap ≠ 0 →
      (∀ f ∈ g.2.allFrags, f.trap = none) → ∃ t u h, exec (.deadlockCheck ctx) s = .next t ∧ u ∈ t.allTeams ∧ u.ref = s.teamRef ∧
        u.swapped[n]? = some h ∧ h.2.uid = g.2.uid ∧ ∀ f ∈ h.2.allFrags, f.struck = some k.deadN))

/-! ### Queues and commands -/

/-- R325, R338, R340, R342: a doorbell by the function that owns the queue makes commands available; it reports what it has consumed; the
writes of another function have no effect (the model's choice, log entries 4 and 77); a completion entry is written to
the ring while there is room, and its signal set afterwards. Which Tison core writes it is free (log entry 29), a ring lies in
host memory (log entry 31), and in RECOVERY, where no firmware runs, the boot ROM fetches the commands (log entry 65).

R336, R340, R341: SIGNAL sets its bit, or wakes the oldest waiter alone; WAIT observes a bit that is set, blocks its queue, and times
out. -/
def Obligations.HostQueuesAndSignalsComplete : Prop :=
  (∀ (s : State) (w : Writer) (q : Fin 64) (tail : BitVec 12) (v : BitVec 32) (c : Completion) (rest : List Completion),
    let h := s.queueAt q.val
    let n := 2 ^ h.log2.toNat
    let pa := 2 ^ 51 + h.rbase.toNat % 2 ^ 51 + 16 * (h.rtail.toNat % n)
    (h.ownedBy w = true → s.recovery = true → h.en = true → q.val < s.queues.length → 4 ≤ h.log2.toNat → h.log2.toNat ≤ 12 →
      ∃ t, exec (.doorbell (w, q) tail) s = .next t ∧
        (t.queueAt q.val).fetched = h.fetched ++ (List.range (HostQueue.unfetched { h with tail := tail })).map (fun j =>
          (List.range 64).map fun i => s.seenByte 4 0 (2 ^ 51 + h.cbase.toNat % 2 ^ 51 + 64 * ((h.head.toNat + j) % n) + i)) ∧
        (t.queueAt q.val).head.toNat = tail.toNat % n ∧ (t.queueAt q.val).tail = tail ∧ SameBytes s t) ∧
    (h.ownedBy w = true →
      (s.recovery = false ∨ h.en = false → exec (.doorbell (w, q) tail) s = .next { s with seqNo := s.seqNo + 1, queues := s.queues.modify q.val fun h =>
        let want := h.fetched.length + HostQueue.unfetched { h with tail := tail }
        { h with tail := tail, order := (h.order ++ List.replicate (want - h.order.length) (s.seqNo + 1)).take want } }) ∧
      exec (.rheadWrite (w, q) v) s = .next { s with queues := s.queues.modify q.val fun h => { h with
        rhead := BitVec.ofNat 12 (v.toNat / 2 ^ 16 % 2 ^ 12), ovr := h.ovr && !v.getLsbD 0 } }) ∧
    (h.ownedBy w = false → exec (.doorbell (w, q) tail) s = .next s ∧ exec (.rheadWrite (w, q) v) s = .next s) ∧
    (h.comps = c :: rest → h.en = true → (h.rtail.toNat % n + 1) % n = h.rhead.toNat % n →
      exec (.completionEntryWrite q) s = .next { s with queues := s.queues.modify q.val fun h => { h with ovr := true } }) ∧
    (h.comps = c :: rest → h.en = true → (h.rtail.toNat % n + 1) % n ≠ h.rhead.toNat % n → s.hostDead (0, pa) = false →
      (∀ k ∈ c.sig, (s.waiters.any fun w => w.sig == k) = false) →
      ∃ t, exec (.completionEntryWrite q) s = .next t ∧
        t.bytesAt 0 pa 16 = toBytes 4 c.seq.toNat ++ toBytes 1 c.status ++ toBytes 1 c.code ++
          toBytes 2 (if c.status = 1 ∨ c.status = 2 then c.engine else 5 * 2 ^ 13 + 4 * 2 ^ 10 + (Config.writerCore s.ticks).val) ++
          toBytes 8 c.detail.toNat ∧
        (∀ a, ¬(pa ≤ a ∧ a < pa + 16) → t.byteAt 0 a = s.byteAt 0 a) ∧
        { t with mem := s.mem } = { s with
          queues := s.queues.modify q.val fun h => { h with
            comps := rest, rtail := BitVec.ofNat 12 ((h.rtail.toNat % 2 ^ h.log2.toNat + 1) % 2 ^ h.log2.toNat) }
          signals := match c.sig with
            | some k => s.signals ||| BitVec.twoPow 1024 k
            | none => s.signals })) ∧
  (∀ (s : State) (q : Fin 64) (cmd : List Byte),
    let n := cmdNat cmd 16 4
    let time := cmdNat cmd 20 4
    let ok := s.ended q.val (completion cmd 0 0 0)
    let first := s.waiters.find? fun w => w.sig == n
    (s.CommandAt q.val 2 cmd → 1024 ≤ n → ∃ t, exec (.signal q) s = .next t ∧
      t.untraced s = s.ended q.val (completion cmd 3 0 16)) ∧
    (s.CommandAt q.val 2 cmd → n < 1024 → (s.waiters.any fun w => w.sig == n) = false → ∃ t, exec (.signal q) s = .next t ∧
      t.untraced s = { ok with signals := s.signals ||| BitVec.twoPow 1024 n }) ∧
    (∀ c rd d, s.CommandAt q.val 2 cmd → n < 1024 → first = some (.core c n rd d) → ∃ t, exec (.signal q) s = .next t ∧
      t.untraced s = { ok with waiters := s.waiters.erase (.core c n rd d), tison := s.tison.modify c fun x => x.done rd 1 }) ∧
    (∀ r d a, s.CommandAt q.val 2 cmd → n < 1024 → r ≠ q.val → first = some (.queue r n d) →
      (s.queueAt r).fetched.head? = some a → ∃ t, exec (.signal q) s = .next t ∧
      t.untraced s = State.ended { ok with waiters := s.waiters.erase (.queue r n d) } r (completion a 0 0 0)) ∧
    (s.CommandAt q.val 3 cmd → n < 1024 → s.signals.getLsbD n = true → ∃ t, exec (.waitCommand q) s = .next t ∧
      t.untraced s = { ok with signals := s.signals &&& ~~~BitVec.twoPow 1024 n }) ∧
    (s.CommandAt q.val 3 cmd → n < 1024 → s.signals.getLsbD n = false → exec (.waitCommand q) s = .next { s with
      waiters := s.waiters ++ [.queue q.val n (if time = 0 then none else some (s.now + time * 1000))]
      queues := s.queues.modify q.val fun h => { h with blocked := true } }) ∧
    (∀ k d a, s.waiters.find? (fun w => match w with
        | .queue r _ (some d) => r == q.val && decide (d ≤ s.now)
        | _ => false) = some (.queue q.val k (some d)) → (s.queueAt q.val).fetched.head? = some a →
      ∃ t, exec (.waitCommandTimeout q) s = .next t ∧
        t.untraced s = State.ended { s with waiters := s.waiters.erase (.queue q.val k (some d)) } q.val (completion a 4 0 0)))

/-- R30, R31, R225, R227, R300, R340, R341, R351, R354: SHRINK starts when it is fetched, pre-empts a launch's teams as soon as each can be,
moves them onto the dies that it names and gates those left without a team; POWER writes a target, a cap or the safe cap, and gates
and ungates a die, whose teams are held and restored; COPY becomes a launch with a context of its own, whose core copies 16 bytes at a
time, or faults as a launch does (log entry 20). A SHRINK of a launch that still waits (log entry 74), and how teams come to be pre-empted
(log entry 57), are the model's choice. -/
def Obligations.PlacementPowerAndCopyCommandsComplete : Prop :=
  ∀ (s : State) (q : Fin 64) (cmd : List Byte) (place : List Rect),
    let b := fun off => cmdNat cmd off 1
    let value := cmdNat cmd 20 8
    let ok := completion cmd 0 0 0
    let isl := fun i => decide (i / 12 = b 17) && (b 18 == 255 || decide (i % 12 = b 18))
    let set := fun (f : Island → Island) => { s with islands := s.islands.mapIdx fun i x => if isl i then f x else x }
    let k := s.ctxs.getD (b 16) LaunchCtx.empty
    let cores := place.flatMap (rectCores k.lp.cw k.lp.ch)
    let power := s.serialTurn q.val = true ∧ s.CommandAt q.val 6 cmd
    let rejects := fun (i : Instr) (field : Nat) => ∃ t, exec i s = .next t ∧ t.untraced s = s.ended q.val (completion cmd 3 0 field)
    let noIsland := 11 < b 18 ∧ b 18 ≠ 255
    (s.serialTurn q.val = true → s.CommandAt q.val 5 cmd →
      (7 < b 16 ∨ (k.phase = .free ∧ k.lastDone ≤ (s.queueAt q.val).order.headD 0) → rejects (.shrink q place) 16) ∧
      (b 16 ≤ 7 → k.phase ≠ .free → 15 < b 17 ∨ s.liveDies (b 17) = [] → rejects (.shrink q place) 17)) ∧
    (power → (3 < b 16 → rejects (.powerTarget q) 16) ∧
      (b 16 = 0 → (3 < b 17 → rejects (.powerTarget q) 17) ∧ (b 17 ≤ 3 → noIsland → rejects (.powerTarget q) 18) ∧
        (b 17 ≤ 3 → ¬ noIsland → 24 ≤ b 19 → rejects (.powerTarget q) 19)) ∧
      (b 16 = 1 → (3 < b 17 → rejects (.powerCollarCap q) 17) ∧ (b 17 ≤ 3 → noIsland → rejects (.powerCollarCap q) 18) ∧
        (b 17 ≤ 3 → ¬ noIsland → value = 0 ∨ 65535 < value → rejects (.powerCollarCap q) 20)) ∧
      (b 16 = 2 → (3 < b 17 → rejects (.dieUngate q) 17) ∧ (b 17 ≤ 3 → 1 < b 19 → rejects (.dieUngate q) 19) ∧
        (3 < b 17 → rejects (.dieGate q) 17) ∧ (b 17 ≤ 3 → 1 < b 19 → rejects (.dieGate q) 19))) ∧
    (s.serialTurn q.val = true → s.CommandAt q.val 5 cmd → b 16 ≤ 7 → b 17 ≤ 15 → s.liveDies (b 17) ≠ [] → k.phase = .running →
      (∀ u ∈ s.allTeams, u.ctx = b 16 → s.canPreempt u = true) → place.length = k.lp.nclus →
      (place.all fun p => rectFits k.lp.cw k.lp.ch p && (s.liveDies (b 17)).contains p.die) = true →
      s.placeableMoved (b 16) k.lp cores = true → (∀ u ∈ s.allTeams, u.ctx = b 16 → u.vcore < cores.length) →
      ∃ t, exec (.shrink q place) s = .next t ∧ (t.queueAt q.val).fetched = (s.queueAt q.val).fetched.drop 1 ∧
        (q.val < s.queues.length → ok ∈ (t.queueAt q.val).comps) ∧
        (∀ u ∈ t.allTeams, u.ctx = b 16 → u.held = false ∧ cores[u.vcore]? = some u.core ∧ dieOf u.core ∉ t.gated) ∧
        (∀ u ∈ s.allTeams, u.ctx = b 16 → (∃ x ∈ t.allTeams, dieOf x.core = dieOf u.core) ∨ dieOf u.core ∈ t.gated)) ∧
    (s.serialTurn q.val = true → s.CommandAt q.val 5 cmd → b 16 ≤ 7 → b 17 ≤ 15 → s.liveDies (b 17) ≠ [] → k.phase = .free →
      (s.queueAt q.val).order.headD 0 < k.lastDone → ∃ t, exec (.shrink q place) s = .next t ∧ t.untraced s = s.ended q.val ok) ∧
    (s.serialTurn q.val = true → s.CommandAt q.val 5 cmd → b 16 ≤ 7 → b 17 ≤ 15 → s.liveDies (b 17) ≠ [] → k.phase = .waiting →
      ∃ t, exec (.shrink q place) s = .next t ∧ t.untraced s = { s.ended q.val ok with
        ctxs := s.ctxs.modify (b 16) fun k => { k with lp := { k.lp with dies := b 17 } } }) ∧
    (s.serialTurn q.val = true → s.CommandAt q.val 5 cmd → b 16 ≤ 7 → b 17 ≤ 15 → s.liveDies (b 17) ≠ [] → k.phase = .running →
      (s.allTeams.map Team.ref).Nodup → (∃ u ∈ s.allTeams, u.ctx = b 16 ∧ s.canPreempt u = false) →
      ∃ t, exec (.shrink q place) s = .next t ∧ t.jobs = [{ q := q.val, cmd := cmd, place := place }] ∧
        (t.queueAt q.val).fetched = (s.queueAt q.val).fetched.drop 1 ∧
        ∀ u ∈ t.allTeams, u.ctx = b 16 → u.held = true ∨ u.halting = true) ∧
    (power → b 16 = 0 → b 17 ≤ 3 → b 18 ≤ 11 ∨ b 18 = 255 → b 19 < 24 → s.islands.length = 48 →
      ∃ t, exec (.powerTarget q) s = .next t ∧ t.untraced s = State.ended
        (set fun x => { x with target := BitVec.ofNat 5 (b 19), pend := true }) q.val ok) ∧
    (power → b 16 = 1 → b 17 ≤ 3 → b 18 ≤ 11 ∨ b 18 = 255 → 1 ≤ value → value ≤ 65535 → s.islands.length = 48 →
      ∃ t, exec (.powerCollarCap q) s = .next t ∧ t.untraced s = State.ended
        (set fun x => { x with cap := BitVec.ofNat 16 value }) q.val ok) ∧
    (power → b 16 = 2 → b 17 ≤ 3 → b 19 = 1 → s.gated.contains (b 17) = false → (s.allTeams.map Team.ref).Nodup →
      (∀ u ∈ s.allTeams, dieOf u.core = b 17 → s.canPreempt u = true) → s.islands.length = 48 → ∃ t, exec (.dieGate q) s = .next t ∧ b 17 ∈ t.gated ∧
        (q.val < s.queues.length → ok ∈ (t.queueAt q.val).comps) ∧
        (∀ i < 12, ((t.islandAt (b 17 * 12 + i)).pstate = .off)) ∧ (∀ u ∈ t.allTeams, dieOf u.core = b 17 → u.held = true) ∧
        SameBytes s t) ∧
    (power → b 16 = 2 → b 17 ≤ 3 → b 19 = 0 → s.gated.contains (b 17) = true → (s.allTeams.map Team.ref).Nodup →
      s.islands.length = 48 → ∃ t, exec (.dieUngate q) s = .next t ∧ b 17 ∉ t.gated ∧ (q.val < s.queues.length → ok ∈ (t.queueAt q.val).comps) ∧
        (∀ i < 12, ((t.islandAt (b 17 * 12 + i)).pstate = .on)) ∧ (∀ u ∈ t.allTeams, dieOf u.core = b 17 → u.held = false)) ∧
    (power → b 16 = 2 → b 17 ≤ 3 → b 19 ≤ 1 → s.gated.contains (b 17) = (b 19 == 1) →
      ∃ t, exec (if b 19 = 1 then .dieGate q else .dieUngate q) s = .next t ∧ t.untraced s = s.ended q.val ok) ∧
    (power → b 16 = 3 → 600 ≤ value → value ≤ 2800 → ∃ t, exec (.powerSafeCap q) s = .next t ∧
      t.untraced s = State.ended { s with rack := { s.rack with safe := value } } q.val ok) ∧
    (power → b 16 = 3 → value < 600 ∨ 2800 < value → ∃ t, exec (.powerSafeCap q) s = .next t ∧
      t.untraced s = s.ended q.val (completion cmd 3 0 20)) ∧
    (s.CommandAt q.val 7 cmd → cmdNat cmd 32 8 % 16 = 0 →
      (∀ c < 8, (s.ctxs.getD c LaunchCtx.empty).queue = q.val → (s.ctxs.getD c LaunchCtx.empty).copy = none) →
      (s.freeCtx = none → ∃ t, exec (.copy q) s = .next t ∧ t.untraced s = { s with
        copies := s.copies ++ [s.copyOf q.val cmd]
        queues := s.queues.modify q.val fun h => { h with fetched := h.fetched.drop 1, order := h.order.drop 1, blocked := false } }) ∧
      (∀ z, s.copies = [] → s.freeCtx = some z → z < s.ctxs.length → ∃ t, exec (.copy q) s = .next t ∧
        (t.queueAt q.val).fetched = (s.queueAt q.val).fetched.drop 1 ∧ t.copies = [] ∧
        (let y := t.ctxs.getD z LaunchCtx.empty
         y.copy = some { src := cmdNat cmd 16 8, dst := cmdNat cmd 24 8, n := cmdNat cmd 32 8, pts := 0 } ∧ y.queue = q.val ∧
          (y.phase = .waiting ∨ (y.phase = .running ∧ ∃ u ∈ t.allTeams, u.ctx = z))) ∧
        ∀ a, t.byteAt 0 a = s.byteAt 0 a)) ∧
    (∀ (f g : Nat → Spot) (c : Nat) (j : CopyJob) (u : Team), c < 8 → c < s.ctxs.length →
      (s.ctxs.getD c LaunchCtx.empty).phase = .running → (s.ctxs.getD c LaunchCtx.empty).copy = some j →
      (s.ctxs.getD c LaunchCtx.empty).queue = q.val → s.headCmd q.val (fun op => op == 7) = none → s.copies = [] →
      (∀ d < 8, d ≠ c → (s.ctxs.getD d LaunchCtx.empty).queue = q.val → (s.ctxs.getD d LaunchCtx.empty).copy = none) →
      s.allTeams.find? (fun t => t.ctx == c) = some u → u.held = false → u.halting = false → s.stopped = false →
      s.islandOn u.core = true →
      let fn := (s.ctxs.getD c LaunchCtx.empty).fn
      let n := min 16 j.n
      (j.n = 0 → exec (.copy q) s = .next { s with ctxs := s.ctxs.modify c fun k => { k with copy := none } }) ∧
      (j.n ≠ 0 → (∀ i < n, s.copyCheck u fn (j.src + i) false = .good (f i) ∧ s.copyCheck u fn (j.dst + i) true = .good (g i) ∧
          s.poison.contains (0, lineOf (f i).key) = false ∧ s.hostDead (0, (f i).key) = false ∧ s.hostDead (0, (g i).key) = false) →
        (∀ i < n, ∀ l < n, (f i).key ≠ (g l).key ∧ ((g i).key = (g l).key → i = l)) → ∃ t p, exec (.copy q) s = .next t ∧
          (∀ i < n, t.byteAt 0 (g i).key = s.seenByte (dieOf u.core) 0 (f i).key) ∧
          (∀ a, (∀ i < n, (g i).key ≠ a) → t.byteAt 0 a = s.byteAt 0 a) ∧ j.pts ≤ p ∧
          { t with mem := s.mem, stamps := s.stamps } = { s with ctxs := s.ctxs.modify c fun k => { k with
            copy := some { src := j.src + n, dst := j.dst + n, n := j.n - n, pts := p } } }) ∧
      (∀ code, j.n ≠ 0 → s.copyCheck u fn j.src false = .bad code → ∃ t, exec (.copy q) s = .next t ∧ SameBytes s t ∧
        (t.ctxs.getD c LaunchCtx.empty).phase = .stopping ∧
        (t.ctxs.getD c LaunchCtx.empty).fatal = some (Fatal.first (s.ctxs.getD c LaunchCtx.empty).fatal
          ⟨1, codeNum code, laneEngine u.core, 0, s.ticks, u.core * 2 ^ 20⟩)))

/-! ### Host links, fabric and reductions -/

/-- R79, R325, R326, R327, R368: a link that trains is up in its mode; when link 0 trains as PCIe, a bias flip under way ends with LINK and
every page in host bias comes back to the device; in RECOVERY only link 0 trains, as PCIe. A link that goes down, or whose host does not
acknowledge in time, drops and logs its posted stores, which count as done, poisons the loads that wait for it and ends the bias flip under
way with LINK, its command's pages in device bias (log entry 35).

A host link trains first once the fabric links have, or their time is over (R366). What the log records of dropped posted stores hold is the
model's choice (log entry 44).

R329, R366, R368, R371, R374: a fabric link trains, retries while it is down, and loses training; none trains in RECOVERY; a flit that
fails its CRC counts, saturating, and leaves an error record of 32 bytes in the ring (its place is log entry 37). -/
def Obligations.LinksTrainAndFail : Prop :=
  (∀ (s : State) (link : Fin 2) (m : LinkMode) (i : Instr),
    let flipEnds := fun (t : State) => ∀ j rest, s.biasJobs = j :: rest → t.biasJobs = rest ∧ t.flipping = [] ∧
      t.queues = s.queues.modify j.q (fun h => { h with comps := h.comps ++ [{ j.done with status := 5 }] }) ∧
      ∀ f ∈ s.framesOf j.q j.first ((j.va - j.first) / 4096 + j.n), f ∉ t.hostBias
    let may := s.recovery = true ∨ s.opened = true ∨ (∀ x ∈ s.flinks, x.up = true) ∨ s.fabricBy ≤ s.now
    (¬ may → exec (.hostLinkTrain link m) s = .next s) ∧
    (may → s.recovery = false → ¬(link = 0 ∧ m = .pcie) →
      exec (.hostLinkTrain link m) s = .next { s with hlinks := s.hlinks.set link.val { up := true, mode := m }, opened := true }) ∧
    (may → link = 0 → ∃ t, exec (.hostLinkTrain link .pcie) s = .next t ∧ t.hostBias = [] ∧ flipEnds t ∧
      (s.biasJobs = [] → t.biasJobs = [] ∧ t.flipping = s.flipping ∧ t.queues = s.queues) ∧
      { t.untraced s with hostBias := s.hostBias, stamps := s.stamps, biasJobs := s.biasJobs, flipping := s.flipping, queues := s.queues } =
        { s with hlinks := s.hlinks.set 0 { up := true, mode := .pcie }, opened := true }) ∧
    (s.recovery = true → ¬(link = 0 ∧ m = .pcie) → exec (.hostLinkTrain link m) s = .next s) ∧
    (i = .hostLinkDown link ∨ i = .hostAckTimeout link → ∃ t, exec i s = .next t ∧ SameBytes s t ∧
      t.hlinks = s.hlinks.modify link.val (fun x => { x with up := false }) ∧
      t.posted = s.posted.filter (fun p => p.link != link.val) ∧
      t.dbgLog = s.dbgLog ++ (s.posted.filter fun p => p.link == link.val).map (fun p => (p.team.ctx, p.bytes.map (·.2))) ∧
      t.tm.regs = s.tm.regs ∧ t.tm.gp.regs = s.tm.gp.regs ∧
      t.tm.outs = s.tm.outs.filter (fun o => !(o.cls == .st && (s.posted.any fun p => p.id == o.id && p.link == link.val) &&
        !(s.posted.any fun p => p.id == o.id && p.link != link.val))) ∧
      (∀ l ∈ t.tm.gp.lanes, ∀ e ∈ l.stk, e.pend ≠ none → ∀ pa ∈ e.via, linkOf pa = link.val → e.pois = some pa) ∧
      (link = 0 → flipEnds t) ∧
      (link ≠ 0 ∨ s.biasJobs = [] → t.biasJobs = s.biasJobs ∧ t.flipping = s.flipping ∧ t.queues = s.queues ∧
        t.hostBias = s.hostBias ∧ t.stamps = s.stamps))) ∧
  (∀ (s : State) (l : Fin 16) (w : Fin 4) (peer : Byte) (rec_ : Bool),
    let link := fun (f : FabricLink → FabricLink) => { s with flinks := s.flinks.modify l.val f }
    let trained := fun (x : FabricLink) => { x with up := true, width := BitVec.ofNat 2 w.val, peer := peer }
    let down := fun (x : FabricLink) => { x with up := false, width := 0 }
    (s.recovery = false → w ≠ 0 → exec (.fabricLinkTrain l w peer) s = .next (link trained) ∧
      exec (.fabricLinkRetryTimer l w peer) s = .next (link fun x => if x.up then x else trained x)) ∧
    (s.recovery = false → w = 0 → exec (.fabricLinkTrain l w peer) s = .next (link down) ∧
      exec (.fabricLinkRetryTimer l w peer) s = .next (link fun x => if x.up then x else down x)) ∧
    (s.recovery = true → exec (.fabricLinkTrain l w peer) s = .next s ∧ exec (.fabricLinkRetryTimer l w peer) s = .next s) ∧
    exec (.fabricLinkDown l) s = .next (link down) ∧
    (∃ t, exec (.flitCrcError l rec_) s = .next t ∧ t.flinks = s.flinks.modify l.val (fun x => { x with
        retry := if x.retry = 255 then 255 else x.retry + 1, crcerr := x.crcerr || !rec_ }) ∧
      ErrorAdded s t 0 (4 * 2 ^ 13 + 4 * 2 ^ 10 + (1 + l.val)) 3 3 ∧
      { t with flinks := s.flinks, tcm := s.tcm, errCount := s.errCount, drops := s.drops } = s))

/-- R62, R64, R79, R80, R199, R325, R326, R373: the host's own accesses to device memory are served at the home; a request for a page that
is going back to the device, or for a line under test, waits at the port; a write to a read-shared page is dropped and logged; BAR2 reaches
the parts of the die scratchpads that belong to the launches of its function, outside the global order (their order in the window is log
entry 34).

R79, R327, R340, R341: BIAS flips its pages one after another, in ascending address; a page is done once the accesses of the side that
loses it are complete, and the command completes after the last, or with LINK where link 0 is down. The lines of a page that comes back to
the device carry the largest stamp that their home slice has issued; the device's copies of a page that goes to the host are dropped. That dropped writes are
logged under number 8 (log entry 44), how a BIAS ends that begins while the link is down (log entry 35), and how held requests are listed (log
entry 67) are the model's choice. -/
def Obligations.HostAccessesAndBiasFlipsComplete : Prop :=
  (∀ (s : State) (link : Fin 2) (pa len : Nat) (bytes : List Byte) (op : AtomOp) (w64 : Bool) (cmp v : Word),
    let n := if w64 then 8 else 4
    let old := s.natAt 0 pa n
    let a := v.toNat % 2 ^ (8 * n)
    let new := if op = .cas then (if old = cmp.toNat % 2 ^ (8 * n) then a else old) else atomResult op (8 * n) old a 0
    let held := fun (i : Instr) => { s with held := s.held ++ [i], heldAt := s.heldAt ++ [s.seqNo + 1], seqNo := s.seqNo + 1 }
    (s.hostReach link.val pa len = true →
      (s.portHeld pa len = true → exec (.hostCxlMemRead link pa len) s = .next (held (.hostCxlMemRead link pa len))) ∧
      (s.portHeld pa len = false → ∃ t, exec (.hostCxlMemRead link pa len) s = .next t ∧ t.hostRead = s.bytesAt 0 pa len ∧
        { t with hostRead := s.hostRead, stamps := s.stamps } = s)) ∧
    (s.hostReach link.val pa bytes.length = true →
      (s.portHeld pa bytes.length = true → exec (.hostCxlMemWrite link pa bytes) s = .next (held (.hostCxlMemWrite link pa bytes))) ∧
      (s.portHeld pa bytes.length = false → s.readShared pa bytes.length = true → exec (.hostCxlMemWrite link pa bytes) s =
        .next { s with dbgLog := s.dbgLog ++ [(8, bytes)] }) ∧
      (s.portHeld pa bytes.length = false → s.readShared pa bytes.length = false →
        ∃ t, exec (.hostCxlMemWrite link pa bytes) s = .next t ∧
          t.bytesAt 0 pa bytes.length = bytes ∧ (∀ b, ¬(pa ≤ b ∧ b < pa + bytes.length) → t.byteAt 0 b = s.byteAt 0 b) ∧
          { t with mem := s.mem, stamps := s.stamps } = s)) ∧
    (s.hostReach link.val pa n = true → pa % n = 0 →
      (s.portHeld pa n = true → exec (.hostAtomic link pa op w64 cmp v) s = .next (held (.hostAtomic link pa op w64 cmp v))) ∧
      (s.portHeld pa n = false → s.readShared pa n = true → exec (.hostAtomic link pa op w64 cmp v) s =
        .next { s with dbgLog := s.dbgLog ++ [(8, toBytes n v.toNat)] }) ∧
      (s.portHeld pa n = false → s.readShared pa n = false →
        ∃ t, exec (.hostAtomic link pa op w64 cmp v) s = .next t ∧ t.natAt 0 pa n = new % 2 ^ (8 * n) ∧ t.hostRead = toBytes n old ∧
          (∀ b, ¬(pa ≤ b ∧ b < pa + n) → t.byteAt 0 b = s.byteAt 0 b) ∧
          { t with mem := s.mem, stamps := s.stamps, hostRead := s.hostRead } = s)) ∧
    (s.hostReach link.val pa len = false → exec (.hostCxlMemRead link pa len) s = .next s) ∧
    (s.hostReach link.val pa bytes.length = false → exec (.hostCxlMemWrite link pa bytes) s = .next s) ∧
    (s.hostReach link.val pa n = false ∨ pa % n ≠ 0 → exec (.hostAtomic link pa op w64 cmp v) s = .next s)) ∧
  (∀ (s : State) (w : Writer) (off len fn : Nat) (bytes : List Byte) (key : Nat → Nat), bytes.length = len →
    (writerFn w = some fn → (∀ i < len, off + i < 2 ^ 26 ∧ barKey (s.barShares fn) (off + i) = some (key i)) →
      ((∀ i < len, s.underTest (4, lineOf (key i)) = false) →
        exec (.bar2Access w off none len) s = .next { s with hostRead := (List.range len).map fun i => s.byteAt 4 (key i) } ∧
        ((∀ i < len, ∀ l < len, key i = key l → i = l) → ∃ t, exec (.bar2Access w off (some bytes) len) s = .next t ∧
          (∀ i < len, t.byteAt 4 (key i) = bytes.getD i 0) ∧ (∀ b, (∀ i < len, key i ≠ b) → t.byteAt 4 b = s.byteAt 4 b) ∧
          { t with dsp := s.dsp } = s)) ∧
      ((∃ i < len, s.underTest (4, lineOf (key i)) = true) →
        exec (.bar2Access w off none len) s = .next { s with
          held := s.held ++ [.bar2Access w off none len], heldAt := s.heldAt ++ [s.seqNo + 1], seqNo := s.seqNo + 1 })) ∧
    ((∃ i < len, 2 ^ 26 ≤ off + i ∨ ∀ f, writerFn w = some f → barKey (s.barShares f) (off + i) = none) →
      exec (.bar2Access w off none len) s = .next s ∧ exec (.bar2Access w off (some bytes) len) s = .next s)) ∧
  (∀ (s : State) (q : Fin 64) (cmd : List Byte),
    let va := cmdNat cmd 16 8
    let n := cmdNat cmd 24 4
    let host := cmdNat cmd 28 1 == 1
    let up := (s.hlinks.getD 0 { up := true, mode := .cxl }).up
    (s.serialTurn q.val = true → s.CommandAt q.val 4 cmd →
      (∀ r, firstBad (s.biasChecks q.val cmd) = some r → ∃ t, exec (.bias q) s = .next t ∧
        t.untraced s = s.ended q.val (completion cmd 3 r.code r.detail)) ∧
      (firstBad (s.biasChecks q.val cmd) = none → up = true → ∃ t, exec (.bias q) s = .next t ∧
        t.untraced s = { s with
          queues := s.queues.modify q.val fun h => { h with fetched := h.fetched.drop 1, order := h.order.drop 1, blocked := false }
          biasJobs := [{ first := va, va := va, n := n, host := host, q := q.val, done := completion cmd 0 0 0 }]
          flipping := [(s.frameOf q.val va, host)] }) ∧
      (firstBad (s.biasChecks q.val cmd) = none → up = false → ∃ t, exec (.bias q) s = .next t ∧
        (∀ f ∈ s.framesOf q.val va n, f ∉ t.hostBias) ∧
        { t.untraced s with hostBias := s.hostBias, stamps := s.stamps } = s.ended q.val (completion cmd 5 0 0))) ∧
    (∀ (j : BiasJob) (rest : List BiasJob),
      let f := s.frameOf j.q j.va
      let done := fun (t : State) => { t.untraced s with hostBias := s.hostBias, stamps := s.stamps, l1 := s.l1, scales := s.scales }
      s.biasJobs = j :: rest →
      (s.flipReady f j.host = false → exec .biasFlipComplete s = .next s) ∧
      (s.flipReady f j.host = true → ∃ t, exec .biasFlipComplete s = .next t ∧
        (j.host = true → f ∈ t.hostBias ∧ t.stamps = s.stamps ∧ (∀ g ∈ s.hostBias, g ∈ t.hostBias) ∧
          t.l1 = s.l1.filter (fun c => c.line / 32 != f) ∧ t.scales = s.scales.filter fun c => c.block / 64 != f) ∧
        (j.host = false → t.l1 = s.l1 ∧ t.scales = s.scales ∧ t.hostBias = s.hostBias.filter (fun x => x != f) ∧
          (f ∈ s.hostBias → ∀ i < 32, t.stampOf (0, f * 32 + i) =
            { sp := 0, key := f * 32 + i, wts := s.sliceMax (f * 32 + i), rts := s.sliceMax (f * 32 + i) }) ∧
          (f ∉ s.hostBias → t.stamps = s.stamps)) ∧
        (j.n ≤ 1 → done t = { s with
          biasJobs := rest, flipping := [], queues := s.queues.modify j.q fun h => { h with comps := h.comps ++ [j.done] } }) ∧
        (1 < j.n → done t = { s with
          biasJobs := { j with va := j.va + 4096, n := j.n - 1 } :: rest, flipping := [(s.frameOf j.q (j.va + 4096), j.host)] }))))

/-- R330, R331, R332, R333, R334: `fred` contributes a tile; a contribution, or the partial sum of a round below, adds its fixed-point
values to the round; with the last one the root gives the rounded sum to every contribution and sends it back on the links, and another
module sends the exact sum on its uplink, whose result comes back the same way. A result is written, and the operation leaves the tables. A
round that lacks contributions or its uplink's result in time, or that a write of SCTL ends (log entry 22), gives NaN; a fault in a source
page ends the launch. How a round below sends its sums and from when a round's time runs (log entry 60), how two 16-bit values share an element (log
entry 33), and who may write the register (log entry 77) are the model's choice. -/
def Obligations.ReductionsComplete : Prop :=
  ∀ (s : State) (v : Fin 16) (n : Fin 64) (val : BitVec 32) (op : Nat) (o : EngineOp) (round : BitVec 16) (res : List Half) (w : Writer),
    let img := s.viewImage v.val
    let vw := viewOf img
    let d := ((vals s.fr.sstk).headD 0).toNat
    let x := s.session n.val
    let given := fun (t : State) (ops : List EngineOp) (ids : List Nat) (r : List Half) => ∃ p,
      (∀ e ∈ ops, ids.contains e.id = true → e.pts ≤ p) ∧ (p = 0 ∨ ∃ e ∈ ops, ids.contains e.id = true ∧ e.pts = p) ∧
      t.ops = ops.map fun e => if ids.contains e.id then { e with result := some r, pts := p } else e
    let next := fun (z : Session) =>
      { z with round := z.round + 1, got := [], links := [], count := 0, sums := [], bad := [], began := none }
    let down := fun (z : Session) (links : List Nat) (k : BitVec 16) (r : List Half) =>
      { z with down := z.down ++ links.map fun l => (l, k, r) }
    let sumOf := fun (z : Session) => packValues z.width ((List.range z.sums.length).map fun i =>
      sumTo ((z.ty.map (·.2)).getD fmtF32) z.exp (z.sums.getD i 0) (z.bad.getD i false))
    let rest := fun (t : State) => { t with ops := s.ops, sessions := s.sessions } = s
    -- session `i` has become `z` by an arrival, the operations being `ops`
    let joins := fun (t : State) (ops : List EngineOp) (i : Nat) (z : Session) => rest t ∧
      (z.count < z.ncon → t.ops = ops ∧ t.sessions = s.sessions.set i z) ∧
      (z.ncon ≤ z.count → z.uplinkNo = 0 → given t ops z.got (sumOf z) ∧
        t.sessions = s.sessions.set i (next (down z z.links z.round (sumOf z)))) ∧
      (z.ncon ≤ z.count → z.uplinkNo ≠ 0 → t.ops = ops ∧ t.sessions = s.sessions.set i { next z with
        uplink := z.uplink ++ [{ round := z.round, got := z.got, links := z.links, sums := z.sums, bad := z.bad
                                 began := z.began.getD s.now }] })
    (s.Ready → s.Operands Use.none (.of 1 0) → s.viewFault vw (wordOf (.fred v n)) [0] = none →
      x.servesCtx s.tm.ctx = true → x.ty.map (·.1) = some vw.ty → vw.tw * vw.th = x.elements → d % 128 = 0 →
      s.tm.inSpace 2 d vw.tileBytes = true → s.checkPages s.tm (vw.globals [0]) [] = .ok → s.tm.cpBusy < 32 → s.TablesOpen →
      ∃ t e, exec (.fred v n) s = .next t ∧ Completes 4 s (t.unregistered s) id (fun r => { r with sstk := r.sstk.tail }) ∧
        t.ops = s.ops ++ [e] ∧ e.kind = .fred ∧ e.view = img ∧ e.tile = 0 ∧ e.paddr = d ∧ e.session = n.val ∧ e.joined = false ∧
        e.team = s.teamRef ∧ ⟨e.id, .cp, s.gp.uid, s.fr.mask, 0, none⟩ ∈ t.tm.outs) ∧
    (∀ (y : Session) (u : State), s.opById op = some o → o.kind = .fred → o.joined = false → o.waiting = false → s.opBlocked o = false →
      o.session < s.sessions.length → y = s.session o.session → u = s.focusRun o.team →
      let vs := s.contribution o
      let fs := vs.map fun q => fixedOf y.exp q.1
      let marked := s.ops.map fun e => if e.id = op then { e with joined := true } else e
      let pages := u.checkPages u.tm ((viewOf o.view).globals [o.tile]) []
      (y.isOpen = true → pages = .ok → ∃ t, exec (.reductionContributionArrive (.own op)) s = .next t ∧ joins t marked o.session { y with
        got := y.got ++ [op]
        count := y.count + 1
        sums := (List.range vs.length).map fun i => y.sums.getD i 0 + (fs.getD i (0, false, false, false)).1
        bad := (List.range vs.length).map fun i => y.bad.getD i false || ((vs.getD i (.nan false, false)).2 ||
          (fs.getD i (0, false, false, false)).2.1)
        began := some (y.began.getD s.now)
        nan := y.nan || fs.any (·.2.1)
        sat := y.sat || fs.any (·.2.2.1)
        trunc := y.trunc || fs.any (·.2.2.2) }) ∧
      (y.isOpen = false → ∃ t, exec (.reductionContributionArrive (.own op)) s = .next t ∧ given t marked [op] y.nans ∧
        { t with ops := s.ops } = s) ∧
      (∀ b, y.isOpen = true → pages = .bad b → u.tm.ctx < s.ctxs.length → ∃ t, exec (.reductionContributionArrive (.own op)) s = .next t ∧
        (∀ e ∈ t.ops, e.id ≠ op) ∧ (t.ctxs.getD u.tm.ctx LaunchCtx.empty).phase = .stopping) ∧
      (∀ a, y.isOpen = true → pages = .miss a → u.pageFails u.ctx.fn a = true → u.tm.ctx < s.ctxs.length →
        ∃ t, exec (.reductionContributionArrive (.own op)) s = .next t ∧
          (∀ e ∈ t.ops, e.id ≠ op) ∧ (t.ctxs.getD u.tm.ctx LaunchCtx.empty).phase = .stopping) ∧
      (∀ a, y.isOpen = true → pages = .miss a → u.pageFails u.ctx.fn a = false →
        exec (.reductionContributionArrive (.own op)) s = .next (u.pageIn u.ctx.fn a))) ∧
    (∀ (link : Fin 16) (count : Nat) (sums : List Int) (bad : List Bool),
      x.isOpen = true → 0 < count → sums.length = x.values → bad.length = x.values →
      ∃ t, exec (.reductionContributionArrive (.below n link count sums bad)) s = .next t ∧ joins t s.ops n.val { x with
        links := x.links ++ [link.val]
        count := x.count + count
        sums := (List.range x.values).map fun i => x.sums.getD i 0 + sums.getD i 0
        bad := (List.range x.values).map fun i => x.bad.getD i false || bad.getD i false
        began := some (x.began.getD s.now) }) ∧
    (∀ u, x.uplink.find? (fun z => z.round == round) = some u → ∃ t, exec (.reductionUplinkResult n round res) s = .next t ∧
      given t s.ops u.got res ∧ rest t ∧ t.sessions = s.sessions.modify n.val fun x => { down x u.links round res with
        uplink := x.uplink.erase u }) ∧
    (∀ r, s.opById op = some o → o.kind = .fred → o.result = some r →
      (∀ e ∈ s.ops, e.id < o.id → ∀ p ∈ o.dst, ∀ z ∈ e.src ++ e.dst, p.meets z = false) →
      let key := scrKey o.team.core o.team.ctx o.paddr
      let size := (viewOf o.view).size
      1 ≤ size → size ≤ 4 → (viewOf o.view).nibs ≠ 1 → ∃ t, exec (.fredComplete op) s = .next t ∧ s.opGone o t ∧
        (∀ i < r.length, t.natAt 2 (key + i * size) size = (r.getD i 0).toNat % 2 ^ (8 * size)) ∧
        (∀ a, ¬(key ≤ a ∧ a < key + r.length * size) → t.byteAt 2 a = s.byteAt 2 a) ∧
        ∀ k ∈ [0, 4, 5], ∀ a, t.byteAt k a = s.byteAt k a) ∧
    (let time := (if x.stime = 0 then 1000 else x.stime.toNat) * 1000
     (∀ began, x.began = some began → began + time ≤ s.now → ∃ t, exec (.reductionRoundTimeout n) s = .next t ∧ given t s.ops x.got x.nans ∧
        rest t ∧ t.sessions = s.sessions.modify n.val fun x => { next (down x x.links x.round x.nans) with abort := true }) ∧
     (∀ u, (∀ began, x.began = some began → s.now < began + time) → x.uplink.find? (fun z => decide (z.began + time ≤ s.now)) = some u →
        ∃ t, exec (.reductionRoundTimeout n) s = .next t ∧ given t s.ops u.got x.nans ∧ rest t ∧
          t.sessions = s.sessions.modify n.val fun x => { down x u.links u.round x.nans with
            abort := true, uplink := x.uplink.erase u })) ∧
    (reachesSessions w = false → exec (.sctlWrite (w, n) val) s = .next s) ∧
    (reachesSessions w = true → ∃ t, exec (.sctlWrite (w, n) val) s = .next t ∧ given t s.ops x.got x.nans ∧ rest t ∧
      t.sessions = s.sessions.modify n.val fun x => { next (down x x.links x.round x.nans) with
        sctl := val &&& 0x8DFFFFFF, round := if val.getLsbD 31 then 0 else x.round })

/-! ### Power -/

/-- R345 to R351, R353: the control interval applies a rack message and sets each island's point to the lowest of its request and its
limits; the rack cap lowers the running islands in the order of R351 until their watts meet it, as far as C0 (how many watts a point draws
is free, log entry 72); a move stops the clock and completes; the collar's head receives its units; a current of more than 0.625 A for each
unit of CAP kills the launches of lowest priority, or, with one priority, moves the island to entry 0 of its ratio; registers, caps and
their expiry.

R197, R346, R352, R353, R355: an island goes from ON through QUIET, SAVED and CLKOFF to RETAIN or OFF and back; each request is taken in its
states alone and sets SEQERR in every other; a core that quiesces drops its cached lines; from OFF the island's memories come back wiped. That a killed launch's operations end at once (log
entry 14), and that a burst's reservation may end at any time, the oldest first (log entry 52), are the model's choice. -/
def Obligations.PowerControlCompletes : Prop :=
  (∀ (s : State) (lims : List Limits),
    let now' := s.rack.interval
    let cap := now'.cap.getD now'.safe
    let w := Config.watts s.ticks
    let lr := fun i => ((s.rackLimits lims cap).lookup i).getD none
    let run := (List.range s.islands.length).filter fun i => (s.islandAt i).runs
    let req := fun (y : Island) => if y.pend = true ∧ y.pstate = .on then y.target else y.req
    let want := fun i => underLimit (underLimit (req (s.islandAt i)) (sensed lims i).1) (sensed lims i).2
    (∃ t, exec (.controlInterval lims) s = .next t ∧ { t with islands := s.islands, rack := s.rack } = s ∧
      (s.rack.next = none → t.rack = s.rack) ∧
      (∀ q a e, s.rack.next = some (q, a, e) → t.rack = { s.rack with seq := q, cap := some a, ends := e, next := none }) ∧
      ∀ i y, s.islands[i]? = some y → ∃ z, t.islands[i]? = some z ∧
        (y.runs = false ∨ y.moveTo ≠ none → z = y) ∧
        (y.runs = true → y.moveTo = none →
          let l : Caps := { li := (sensed lims i).1, lt := (sensed lims i).2, lr := lr i }
          let p := appliedPoint (req y) l
          z = { y with
            req := req y, pend := y.pend && y.pstate != .on, limit := limitCode l p now'.cap.isNone
            moveTo := if p = y.applied then none else some p
            pace := if p = y.applied then y.pace else (s.now, 0) :: y.pace } ∧
          pointRank p ≤ pointRank (req y) ∧ (∀ b, some b ∈ l.list → pointRank p ≤ pointRank b) ∧
          (p = req y ∨ some p ∈ l.list ∨ p = 3))) ∧
    (cap < (run.map fun i => w i 16).sum → ∀ i ∈ run, lr i = some 16) ∧
    ((run.map fun i => w i 16).sum ≤ cap → (run.map fun i => w i ((lr i).getD (want i))).sum ≤ cap) ∧
    (∀ i ∈ run, ∀ j ∈ run, rankLt (s.lowerKey i) (s.lowerKey j) = true → lr j ≠ none → lr i = some 16)) ∧
  (∀ (s : State) (isl : Fin 48) (v : BitVec 5) (cap : BitVec 16) (milliamps seq watts valid : Nat),
    let x := s.islandAt isl.val
    let isle := fun (f : Island → Island) => { s with islands := s.islands.modify isl.val f }
    let d := (seq + 2 ^ 32 - s.rack.seq % 2 ^ 32) % 2 ^ 32
    let ranged := 600 ≤ watts ∧ watts ≤ 2800 ∧ 1 ≤ valid ∧ valid ≤ 65535 ∧ seq < 2 ^ 32
    let excess := 625 * x.cap.toNat < milliamps
    exec (.ictlWrite isl v) s = .next (isle fun x =>
      if v.toNat / 8 = 3 then { x with seqerr := true } else { x with target := v, pend := true }) ∧
    (∀ p, x.moveTo = some p → ∃ t, exec (.moveComplete isl) s = .next t ∧ t.untraced s = isle fun x => { x with
      applied := p, moveTo := none, pace := (s.now, if x.runs then pointMhz p else 0) :: x.pace }) ∧
    (x.moveTo = none → exec (.moveComplete isl) s = .next s) ∧
    (∀ r, x.head = some r →
      (x.fits r.units = false → exec (.collarGrant isl) s = .next s) ∧
      (x.fits r.units = true → ∃ t, exec (.collarGrant isl) s = .next t ∧
        t.islands = s.islands.modify isl.val (fun x => { x with
          used := x.used + r.units, cq := x.cq.erase r, bursts := if r.burst then x.bursts ++ [r.team.core] else x.bursts }) ∧
        (r.burst = true → { t with islands := s.islands } = s) ∧
        (∀ i, r.burst = false → r.op = some i → { t with islands := s.islands } =
          { s with ops := s.ops.map fun o => if o.id = i then { o with got := true } else o }) ∧
        (r.burst = false → r.op = none → r.team = s.teamRef → s.tm.live = true →
          t.tm = { s.tm with seq := { s.tm.seq with units := r.units } }))) ∧
    exec (.icollarWrite isl cap) s = .next (isle fun x => if cap = 0 then x else { x with cap := cap }) ∧
    exec (.burstReservationRelease isl) s =
      .next (isle fun x => if x.bursts = [] then x else { x with bursts := x.bursts.tail, used := x.used - 2 }) ∧
    (¬ excess → exec (.overCurrentCheck isl milliamps) s = .next s) ∧
    (excess → (∀ a ∈ s.islandCtxs isl.val, ∀ b ∈ s.islandCtxs isl.val, a.2 = b.2) → (∀ a ∈ s.islandCtxs isl.val, a.2 ≤ 7) →
      (x.moveTo = none → x.runs = true → x.applied &&& 0x18 ≠ x.applied → exec (.overCurrentCheck isl milliamps) s =
        .next (isle fun x => { x with moveTo := some (x.applied &&& 0x18), pace := (s.now, 0) :: x.pace })) ∧
      (x.moveTo ≠ none ∨ x.runs = false ∨ x.applied &&& 0x18 = x.applied → exec (.overCurrentCheck isl milliamps) s = .next s)) ∧
    (∀ a b, excess → a ∈ s.islandCtxs isl.val → b ∈ s.islandCtxs isl.val → a.2 < b.2 → a.2 ≤ 7 →
      (∀ c ∈ s.islandCtxs isl.val, a.2 ≤ c.2) →
      a.1 < s.ctxs.length → ∃ t, exec (.overCurrentCheck isl milliamps) s = .next t ∧ (∀ u ∈ t.allTeams, u.ctx ≠ a.1) ∧
        (∀ o ∈ t.ops, o.team.ctx ≠ a.1) ∧ (t.ctxs.getD a.1 LaunchCtx.empty).phase = .stopping ∧
        (t.ctxs.getD a.1 LaunchCtx.empty).fatal = some ⟨2, 0x50, 5 * 2 ^ 13 + isl.val / 12 * 2 ^ 10 + (16 + isl.val % 12),
          BitVec.ofNat 64 (isl.val % 12), s.ticks, 0⟩ ∧
        (isl.val < s.islands.length → (t.islandAt isl.val).ockill = true) ∧ (b.1 ≠ a.1 → (∀ c ∈ s.islandCtxs isl.val, c.1 = b.1 → c.2 = b.2) →
          t.ctxs.getD b.1 LaunchCtx.empty = s.ctxs.getD b.1 LaunchCtx.empty)) ∧
    (ranged → d ≠ 0 → d < 2 ^ 31 → exec (.rackCapMessage seq watts valid) s =
      .next { s with rack := { s.rack with next := some (seq, watts, s.now + valid * 1000000) } }) ∧
    (ranged → d = 0 ∨ 2 ^ 31 ≤ d → exec (.rackCapMessage seq watts valid) s = .next s) ∧
    (¬ ranged → ∃ t, exec (.rackCapMessage seq watts valid) s = .next t ∧ t.dbgLog.length = s.dbgLog.length + 1 ∧
      { t with dbgLog := s.dbgLog } = s) ∧
    (s.rack.cap ≠ none → s.rack.ends ≤ s.now → exec .capExpiry s = .next { s with rack := { s.rack with cap := none } }) ∧
    (s.rack.cap = none ∨ s.now < s.rack.ends → exec .capExpiry s = .next s)) ∧
  (∀ (s : State) (isl : Fin 48) (c : Fin 12),
    let x := s.islandAt isl.val
    let set := fun (y : Island) => { s with islands := s.islands.set isl.val y }
    let core := isl.val / 12 * 144 + ((isl.val % 12 / 4) * 4 + c.val / 3) * 12 + isl.val % 4 * 3 + c.val % 3
    let ack := x.iqack ||| BitVec.twoPow 12 c.val
    let on := { x with pstate := .on, iqreq := false, iqack := 0, done := false, coreSaved := 0, gate := false, mode := 0 }
    let others := s.frozen.filter fun f => f.1 != isl.val
    let takes := fun (i : Instr) (ok : Prop) (t : State) => (ok → exec i s = .next t) ∧
      (¬ ok → exec i s = .next (set { x with seqerr := true }))
    s.islands.length = 48 →
    takes (.quiesceRequest isl) (x.pstate = .on)
      (set { x with pstate := .quiescing, iqreq := true, iqack := 0, restored := false, edge := s.seqNo }) ∧
    takes (.quiesceCancel isl) (x.pstate = .quiescing ∨ (x.pstate = .quiet ∧ x.saving = false)) (set on) ∧
    takes (.retentionSave isl) (x.pstate = .quiet ∧ x.saving = false) (set { x with saving := true, done := false, coreSaved := 0 }) ∧
    takes (.clockGate isl) (x.pstate = .saved) { set { x with pstate := .clkoff, gate := true, pace := (s.now, 0) :: x.pace } with
      frozen := (isl.val, { x with iqack := x.iqack ||| s.disabledBits isl.val, coreSaved := x.coreSaved ||| s.disabledBits isl.val }) ::
        others } ∧
    takes (.clockUngate isl) (x.pstate = .clkoff) { set { x with
      pstate := .saved, gate := false, pace := (s.now, pointMhz x.applied) :: x.pace } with frozen := others } ∧
    takes (.railRetain isl) (x.pstate = .clkoff) { set { x with pstate := .retain, mode := 1 } with
      scales := s.scales.filter fun b => islandOf b.core != isl.val } ∧
    takes (.railOff isl) (x.pstate = .clkoff ∧ ∀ t ∈ s.allTeams, islandOf t.core = isl.val → t.held = true)
      (set { x with pstate := .off, mode := 2 }) ∧
    takes (.wake isl) (x.pstate = .clkoff ∨ x.pstate = .retain ∨ x.pstate = .off)
      (set { x with fromOff := x.pstate == .off, pstate := .waking }) ∧
    (x.pstate = .quiescing → s.coreQuiet core = true → exec (.coreQuiesced isl c) s = .next { set { x with
        iqack := ack, pstate := if (ack ||| s.disabledBits isl.val) = BitVec.allOnes 12 then .quiet else .quiescing } with
      l1 := s.l1.filter fun y => y.core != core, icache := s.icache.filter fun y => y.core != core }) ∧
    (x.pstate ≠ .quiescing ∨ s.coreQuiet core = false → exec (.coreQuiesced isl c) s = .next s) ∧
    (x.pstate = .quiet → x.saving = true → exec (.retentionSaveComplete isl) s = .next (set { x with
      saving := false, done := true, coreSaved := BitVec.allOnes 12, pstate := .saved })) ∧
    (x.pstate ≠ .quiet ∨ x.saving = false → exec (.retentionSaveComplete isl) s = .next s) ∧
    (x.pstate ≠ .waking → exec (.wakeComplete isl) s = .next s) ∧
    (x.pstate = .waking → ∃ t, exec (.wakeComplete isl) s = .next t ∧ t.frozen = others ∧
      t.islands = s.islands.set isl.val { on with restored := !x.fromOff, pace := (s.now, pointMhz x.applied) :: x.pace } ∧
      (x.fromOff = false → { t with islands := s.islands, frozen := s.frozen } = s) ∧
      (x.fromOff = true → t.tlb = s.tlb.filter (fun y => islandOf y.1 != isl.val) ∧
        t.scales = s.scales.filter (fun y => islandOf y.core != isl.val) ∧
        (∀ k a, islandOf k = isl.val → (∀ u ∈ s.allTeams, u.core = k → u.held = false) → a < 2 ^ 23 →
          t.byteAt 2 (k * 2 ^ 23 + a) = 0) ∧ ∀ k a, islandOf k ≠ isl.val → a < 2 ^ 23 →
          t.byteAt 2 (k * 2 ^ 23 + a) = s.byteAt 2 (k * 2 ^ 23 + a))))

/-! ### Debug, trace and bring-up -/

/-- R5, R6, R329, R330, R338, R343, R353, R356, R357, R362: writes to the registers that only hold what is written, by a writer that reaches
them: reserved bits stay 0, a 1 clears a W1C bit, an invalid ring size keeps its unit disabled, and a physical function grants a session
only to launches of its own link's functions; the writes of a virtual function have no effect. The queues' registers and the sessions' lie in
BAR0, which opens with the host links. How a queue's owner, the attachment of the debugger and the snapshot's sources are set (log entries 4 and 36),
and which writers reach a register and where in its window a session's registers stand (log entry 77), are the model's choice.

R77, R327, R356, R357, R358, R364, R365, R373: a trace record is written while its KIND is enabled and the ring has room (log entry 40 says when it
has, which is the model's choice), on a page in host bias as a posted store, which WPTR passes when it reaches the host; it is counted as lost
without room, dropped and logged behind a link that is down, and waits for a test of its place and, bound for a page in device bias, for the
records before it; a snapshot latches every status register at the first tick after its trigger; a causal
experiment starts with no debt, delays a core whose debt has reached 256 by one cycle, and ends with its debts cleared. -/
def Obligations.RegisterWritesTracesAndExperimentsComplete : Prop :=
  (∀ (s : State) (wr : Writer) (v : Word) (q n : Fin 64) (l : Fin 16) (isl : Fin 48) (c : Fin 8) (k : Fin 4) (r : RegId),
    let w := fun (r : RegId) (t : State) => exec (.registerWrite (wr, r) v) s = .next t
    let queue := fun (f : HostQueue → HostQueue) => { s with queues := s.queues.modify q.val f }
    let session := fun (f : Session → Session) => { s with sessions := s.sessions.modify n.val f }
    let ctx := fun (f : LaunchCtx → LaunchCtx) => { s with ctxs := s.ctxs.modify c.val f }
    let trace := fun (x : Trace) => { s with trace := x }
    let log2 := v.toNat % 16
    let size := v.toNat % 32
    let t := s.trace
    let k' := s.ctxs.getD (v.toNat / 2 ^ 5 % 8) LaunchCtx.empty
    let granted := v.getLsbD 8 = false ∨ (k'.phase ≠ .free ∧ ∀ l, wr = .pf l → s.linkOfFn k'.fn = l.val)
    let full := 34 ≤ v.toNat ∨ 2 ≤ (s.queues.zipIdx.filter fun x => x.2 != q.val && x.1.fn == v.toNat).length
    (∀ m, wr = .vf m → (∀ off, r ≠ .bar0 off) → w r s) ∧
    (∀ m, wr = .pf m → w (.istat isl) s) ∧
    (s.opened = false → ∀ off, w (.bar0 off) s) ∧
    (s.opened = true →
      let page := 4096 * q.val
      let window := 0x40000 + 64 * n.val
      let same := fun (off : Nat) (i : Instr) => exec (.registerWrite (wr, .bar0 off) v) s = exec i s
      same page (.registerWrite (wr, .queueCbase q) v) ∧ same (page + 0x08) (.registerWrite (wr, .queueRbase q) v) ∧
      same (page + 0x10) (.registerWrite (wr, .queueCtl q) v) ∧ same (page + 0x18) (.doorbell (wr, q) (v.setWidth 12)) ∧
      w (.bar0 (page + 0x1C)) s ∧ w (.bar0 (page + 0x20)) s ∧ same (page + 0x24) (.rheadWrite (wr, q) (v.setWidth 32)) ∧
      same window (.sctlWrite (wr, n) (v.setWidth 32)) ∧ same (window + 4) (.registerWrite (wr, .scnt n) v) ∧
      same (window + 8) (.registerWrite (wr, .sroute n) v) ∧ same (window + 12) (.registerWrite (wr, .stime n) v) ∧
      same (window + 16) (.registerWrite (wr, .sstat n) v)) ∧
    ((wr = .tison ∨ ∃ m, wr = .pf m) →
      (full → w (.queueFn q) s) ∧
      (¬ full → w (.queueFn q) (queue fun h => if h.en then h else { h with fn := v.toNat })) ∧
      w (.queueCbase q) (queue fun h => { h with cbase := v &&& ~~~0xFFF }) ∧
      w (.queueRbase q) (queue fun h => { h with rbase := v &&& ~~~0xFFF }) ∧
      w (.queueCtl q) (queue fun h =>
        let en := v.getLsbD 4 && decide (4 ≤ log2 ∧ log2 ≤ 12)
        { h with log2 := BitVec.ofNat 4 log2, en := en, rhead := if en = true ∧ h.en = false then 0 else h.rhead }) ∧
      w (.scnt n) (session fun x => { x with scnt := BitVec.ofNat 32 (v.toNat % 2 ^ 17) }) ∧
      (granted → w (.sroute n) (session fun x => { x with sroute := BitVec.ofNat 32 (v.toNat % 2 ^ 9) })) ∧
      (¬ granted → w (.sroute n) s) ∧
      w (.stime n) (session fun x => { x with stime := BitVec.ofNat 32 (v.toNat % 2 ^ 32) }) ∧
      w (.sstat n) (session fun x => { x with
        sat := x.sat && !v.getLsbD 0, trunc := x.trunc && !v.getLsbD 1, nan := x.nan && !v.getLsbD 2, abort := x.abort && !v.getLsbD 3 }) ∧
      w (.fabricStatus l) { s with flinks := s.flinks.modify l.val fun x => { x with
        retry := x.retry &&& ~~~BitVec.ofNat 8 (v.toNat / 2 ^ 16), crcerr := x.crcerr && !v.getLsbD 3 } } ∧
      (wr = .tison → w (.istat isl) { s with islands := s.islands.modify isl.val fun x => { x with
        seqerr := x.seqerr && !v.getLsbD 10, ockill := x.ockill && !v.getLsbD 9 } }) ∧
      w .tctl (trace { t with
        kinds := BitVec.ofNat 20 (v.toNat / 2 ^ 12) &&& 0x7FF00, en := v.getLsbD 0 && decide (12 ≤ t.log2.toNat ∧ t.log2.toNat ≤ 30) }) ∧
      w .tbase (trace { t with base := v &&& ~~~0xFFF }) ∧
      w .tsize (trace { t with log2 := BitVec.ofNat 5 size, en := t.en && decide (12 ≤ size ∧ size ≤ 30) }) ∧
      w .trd (trace { t with rptr := BitVec.ofNat 32 (v.toNat % 2 ^ 32) }) ∧
      w .tlost (trace { t with lost := t.lost &&& ~~~BitVec.ofNat 32 (v.toNat % 2 ^ 32) }) ∧
      w (.bp c k) (ctx fun x => { x with bps := x.bps.set k.val v }) ∧
      w (.wbase c k) (ctx fun x => { x with wbase := x.wbase.set k.val v }) ∧
      w (.wctl c k) (ctx fun x => { x with wctl := x.wctl.set k.val (BitVec.ofNat 32 (v.toNat % 2 ^ 32) &&& 0x1F73) }) ∧
      w (.attach c) (ctx fun x => { x with attached := v.getLsbD 0 }) ∧
      w .snapSource { s with snapSource := v.getLsbD 0 } ∧
      w .snapTime { s with snapTime := some v.toNat })) ∧
  (∀ (s : State) (r : TraceRec) (time : Nat) (c : Fin 8) (core f : Nat) (lo hi : Word),
    let t := s.trace
    let size := 2 ^ t.log2.toNat
    let onWay := s.posted.countP Posted.isRecord
    let place := (t.wptr.toNat + 32 * onWay) % size % 2 ^ 32
    let gap := (t.rptr.toNat % size + size - place % size) % size
    let room := gap = 0 ∨ 32 < gap
    let taken := t.en = true ∧ 1 ≤ r.kind.toNat ∧ r.kind.toNat ≤ 11 ∧ t.kinds.getLsbD (r.kind.toNat + 7) = true
    let pa := t.base.toNat % 2 ^ 52 + place
    let bs := toBytes 8 time ++ toBytes 2 r.engine.toNat ++ [r.kind, r.queue] ++ toBytes 4 r.seq.toNat ++
      toBytes 8 r.tcb.toNat ++ toBytes 8 r.data.toNat
    let due := if s.snapSource = true ∧ r.kind ≠ 11 then some (s.snapDue.getD ((s.now / 10 + 1) * 10)) else s.snapDue
    let host := s.hostBias.contains (pa / 4096)
    let up := (s.hlinks.getD 0 { up := true, mode := .cxl }).up
    let gone := { s with traceq := s.traceq.tail, snapDue := due }
    let wait := s.underTest (0, pa / 128) = true ∨ (host = false ∧ onWay ≠ 0)
    let ctx := fun (g : Causal → Causal) => { s with ctxs := s.ctxs.modify c.val fun k => { k with causal := k.causal.map g } }
    let at_ := fun (l : List (Nat × Nat)) => (l.lookup core).getD 0
    let reached := ∃ a ∈ s.snapTime, a ≤ s.now
    (s.traceq.head? = some (time, r) → wait → exec (.traceRecordWrite r) s = .next s) ∧
    (s.traceq.head? = some (time, r) → ¬ wait →
      (¬ taken → exec (.traceRecordWrite r) s = .next { s with traceq := s.traceq.tail }) ∧
      (taken → ¬ room → exec (.traceRecordWrite r) s = .next { s with
        traceq := s.traceq.tail, snapDue := due
        trace := { t with lost := if t.lost = BitVec.allOnes 32 then t.lost else t.lost + 1 } }) ∧
      (taken → room → host = false → ∃ u, exec (.traceRecordWrite r) s = .next u ∧ u.bytesAt 0 pa 32 = bs ∧
        (∀ a, ¬(pa ≤ a ∧ a < pa + 32) → u.byteAt 0 a = s.byteAt 0 a) ∧
        { u with mem := s.mem } = { gone with trace := { t with wptr := BitVec.ofNat 32 ((t.wptr.toNat + 32) % size) } }) ∧
      (taken → room → host = true → up = true → ∃ u p, exec (.traceRecordWrite r) s = .next u ∧ u.posted = s.posted ++ [p] ∧ p.link = 0 ∧
        p.isRecord = true ∧ p.id = s.seqNo + 1 ∧ p.bytes = bs.mapIdx (fun i b => (pa + i, b)) ∧
        { u with posted := s.posted, seqNo := s.seqNo } = gone) ∧
      (taken → room → host = true → up = false → exec (.traceRecordWrite r) s = .next { gone with dbgLog := s.dbgLog ++ [(8, bs)] })) ∧
    (∀ p rest, s.posted = p :: rest → p.isRecord = true → p.passed = 2 → (∀ q ∈ rest, q.id ≠ p.id) → ∃ u,
      exec (.storeAcknowledged p.id) s = .next u ∧ u.posted = rest ∧
        u.trace = { t with wptr := BitVec.ofNat 32 ((t.wptr.toNat + 32) % size) }) ∧
    (∀ tick, s.snapDue = some tick → tick ≤ s.now → ∃ u p, exec .snapshotTrigger s = .next u ∧ u.snap = some p ∧ u.snapDue = none ∧
      { u.untraced s with snap := s.snap, snapDue := s.snapDue } = s ∧ p.time = tick ∧ p.links = s.flinks ∧ p.trace = s.trace ∧
      p.islands.length = s.islands.length ∧
      (∀ i < s.islands.length, p.islands[i]? = some (
        let x := s.islandAt i
        let shown := { x with iqack := x.iqack ||| s.disabledBits i, coreSaved := x.coreSaved ||| s.disabledBits i }
        if x.pstate = .on then shown else (s.frozen.lookup i).getD shown)) ∧
      p.queues = s.queues.map (fun (q : HostQueue) => (q.head, q.tail, q.rtail)) ∧
      p.sessions = s.sessions.map (fun (x : Session) => (x.round, x.abort, x.nan, x.trunc, x.sat)) ∧
      (∀ d < 8, ∀ y ∈ (s.ctxs.getD d LaunchCtx.empty).pcnts, (⟨y.1, d⟩, y.2) ∈ p.pockets) ∧
      p.blocked = s.allTeams.flatMap fun t => (t.groups.map fun g => (t.core, g.gslot, s.blockedReg t g)) ++
        [(t.core, 96 + t.ctx, s.seqReg t)]) ∧
    (∀ tick, s.snapDue = some tick → s.now < tick →
      (reached → exec .snapshotTrigger s = .next { s with snapTime := none }) ∧ (¬ reached → exec .snapshotTrigger s = .next s)) ∧
    (s.snapDue = none →
      (∀ a, s.snapTime = some a → a ≤ s.now →
        exec .snapshotTrigger s = .next { s with snapDue := some ((a / 10 + 1) * 10), snapTime := none }) ∧
      (¬ reached → exec .snapshotTrigger s = .next { s with snapDue := some ((s.now / 10 + 1) * 10) })) ∧
    (f ≤ 256 → exec (.causalExperimentStart c lo hi f) s = .next { s with ctxs := s.ctxs.modify c.val fun k => { k with
      causal := some { lo := lo, hi := hi, f := f, cycles := [], debts := [], cdly := [] } } }) ∧
    (256 < f → exec (.causalExperimentStart c lo hi f) s = .next s) ∧
    exec (.causalExperimentEnd c) s = .next (ctx fun x => { x with lo := 0, hi := 0, f := 0, cycles := [], debts := [] }) ∧
    (∀ x, (s.ctxs.getD c.val LaunchCtx.empty).causal = some x →
      (at_ x.debts < 256 → exec (.causalDelay c core) s = .next s) ∧
      (256 ≤ at_ x.debts → ∃ u y,
        exec (.causalDelay c core) s = .next u ∧ u = ctx (fun _ => y) ∧ at_ y.debts = at_ x.debts - 256 ∧ at_ y.cdly = at_ x.cdly + 1 ∧
        (∀ k, k ≠ core → (y.debts.lookup k).getD 0 = (x.debts.lookup k).getD 0 ∧ (y.cdly.lookup k).getD 0 = (x.cdly.lookup k).getD 0) ∧
        y.lo = x.lo ∧ y.hi = x.hi ∧ y.f = x.f ∧ y.cycles = x.cycles)))

/-- R225, R354, R359, R360, R361, R362, R363: a system stop closes fetch, lets the commands that have started complete, and saves every team
as soon as it can be pre-empted; a resume restores those of the dies that are not gated; a stopped team steps to a barrier phase and is
saved again, and one whose phase is already past stops where it is restored; the debugger reads a slot that the sequencer does not use, or
whose stream has stopped; an enabled breakpoint raises BRK before its instruction issues, which stops the fragment where the debugger is
attached and is a fault as any other where it is not; a stopped fragment resumes at its instruction, once past the breakpoint, or behind it. A step
to a phase that is already past (log entry 64), and how teams come to be stopped (log entry 57), are the model's choice. -/
def Obligations.StopsStepsAndBreakpointsComplete : Prop :=
  ∀ (s : State) (b a : Fin 16) (p : Nat),
    let r := s.teamRef
    let slot := s.accSlot a.val
    let all := s.allTeams.map Team.ref
    let step := fun (done : Option Nat) (h : Bool) => some { team := r, bar := b.val, phase := p, doneAt := done, seqHeld := h }
    let seqStopped := s.tm.seq.flight = none ∧ (s.tm.seq.st = .halted ∨ s.tm.seq.st = .fault ∨ (s.tm.held = true ∧ s.stopped = true) ∨
      ∃ k ∈ s.stepping, k.team = r ∧ k.seqHeld = true)
    (s.stopped = true → s.stepping = none → exec .systemStop s = .next s) ∧
    (¬(s.stopped = true ∧ s.stepping = none) → s.commandsOver = false → exec .systemStop s = .next { s with stopReq := true }) ∧
    (¬(s.stopped = true ∧ s.stepping = none) → s.commandsOver = true → all.Nodup →
      ((∀ u ∈ s.allTeams, s.canPreempt u = true) → ∃ t,
        exec .systemStop s = .next t ∧ t.stopped = true ∧ t.stopReq = false ∧ t.stepping = none ∧ (∀ u ∈ t.allTeams, u.held = true) ∧
        t.allTeams.map Team.ref = all ∧ SameBytes s t) ∧
      ((∃ u ∈ s.allTeams, s.canPreempt u = false) → ∃ t,
        exec .systemStop s = .next t ∧ t.stopped = s.stopped ∧ t.stopReq = true ∧ (∀ u ∈ t.allTeams, u.held = true ∨ u.halting = true) ∧
        t.allTeams.map Team.ref = all ∧ SameBytes s t)) ∧
    (s.stopped = true → s.stepping = none → s.stopReq = false → all.Nodup → ∃ t, exec .systemResume s = .next t ∧ t.stopped = false ∧
      (∀ u ∈ t.allTeams, s.gated.contains (dieOf u.core) = false → u.held = false ∧ u.halting = false) ∧
      t.allTeams.map Team.ref = all ∧ SameBytes s t) ∧
    (s.tm.live = true → s.stopped = true → s.stepping = none → s.tm.held = true → s.gated.contains (dieOf s.tm.core) = false →
      ∃ t, exec (.singleStep r b p) s = .next t ∧ t.tm.held = false ∧ { t with tm := s.tm, teams := s.teams, ctxs := s.ctxs, stepping := none } = s ∧
        ((s.tm.barAt b.val).phase ≤ p → t.stepping = step none false) ∧
        (p < (s.tm.barAt b.val).phase → t.stepping = step (some s.seqNo) s.tm.seq.stopped ∧
          ∀ g ∈ t.tm.gp :: t.tm.gs, ∀ f ∈ g.fr :: g.frs, f.held = true)) ∧
    (∀ k, s.stepping = some k → k.team = r → s.tm.live = true →
      (s.tm.held = false → s.stepOver k s.tm = true → ∃ t,
        exec .stepComplete s = .next t ∧ t.stepping = none ∧ t.tm.held = true ∧ SameBytes s t) ∧
      (s.stepOver k s.tm = false → exec .stepComplete s = .next s)) ∧
    (s.tm.live = true → a.val < s.tm.acc.length → slot.tok ≠ .mat ∨ seqStopped →
      exec (.debugAccRead r a) s = .next { s with dbgReply := .tile slot.tile }) ∧
    (s.tm.live = true → s.tm.acc.length ≤ a.val ∨ (slot.tok = .mat ∧ ¬ seqStopped) →
      exec (.debugAccRead r a) s = .next { s with dbgReply := .busy }) ∧
    (s.Placed → s.fr.skipBp = false → s.fr.wait = .none → s.fr.replay = none →
      (∃ x ∈ s.ctx.bps, x.getLsbD 0 = true ∧ x >>> 1 = s.fr.pc >>> 1) → s.ctx.attached = true →
      ∃ t, exec (.breakpoint s.fragRef) s = .next t ∧ t.fr.wait = .debug ∧ t.fr.fcode = 0x41 ∧ t.fr.fpc = s.fr.pc ∧
        GoesTo s.fr.pc s (t.setFr { t.fr with
          wait := .none, fcode := s.fr.fcode, fpc := s.fr.fpc, fmask := s.fr.fmask, finfo := s.fr.finfo }) id id) ∧
    (s.Placed → s.fr.wait = .debug →
      exec (.debugResume s.fragRef false) s = .next (s.setFr { s.fr with
        wait := .none, region := { s.fr.region with breaks := false }, replay := (s.fr.replay.filter Replay.entry).map Replay.rerun
        skipBp := s.fr.fcode == 0x41 })) ∧
    (s.Placed → s.fr.skipBp = false → s.fr.wait = .none → s.fr.replay = none →
      (∃ x ∈ s.ctx.bps, x.getLsbD 0 = true ∧ x >>> 1 = s.fr.pc >>> 1) → s.ctx.attached = false →
      (s.fr.trap = none → s.tm.lp.trap ≠ 0 → ∃ t r, exec (.breakpoint s.fragRef) s = .next t ∧ t.fr.trap = some r ∧ r.pc = s.fr.pc ∧
        r.next = s.parkedNext ∧ GoesTo s.tm.lp.trap s (t.setFr { t.fr with trap := none }) id (fun f => { f with
          lc := 0, lb := 0, le := 0, rc := 0, fcode := 0x41, fpc := s.fr.pc, fmask := s.fr.mask, finfo := 0 })) ∧
      (s.fr.trap ≠ none ∨ s.tm.lp.trap = 0 → s.tm.ctx < s.ctxs.length → ∃ t, exec (.breakpoint s.fragRef) s = .next t ∧ t.fr.wait = .dead ∧
        t.fr.fcode = 0x41 ∧ t.ctx.phase = .stopping)) ∧
    (s.Placed → s.fr.wait = .debug → s.fr.lc = 0 → s.fr.replay = none → ∃ t, exec (.debugResume s.fragRef true) s = .next t ∧
      GoesTo s.parkedNext s t id (fun r => { r with wait := .none, rc := 0 }))

/-- R366 to R375: a reset wipes the module and brings it up on the image that the ROM accepts, without the memories and islands that fail, or
goes to RECOVERY, or stays dark; the loss of power and a thermal trip leave only what fuses keep; images, the mailbox, tokens and nonces; an
uncorrected error poisons its data until its test ends, which leaves a record in the error ring and retires a frame that no spare replaces;
an error in a line that is under test adds a record. What the ROM, its keys and its tests decide is free (log entries 3, 9, 37, 71); what a reset, a loss of power and RECOVERY
leave (log entry 65), and the log record of a memory unit that fails (log entry 44), are the model's choice. -/
def Obligations.BringUpAndReliabilityComplete : Prop :=
  (∀ (s : State) (image nonce token : List Byte) (target : LifeCycle),
    let fuses := match s.fuses.nextLife with
      | some l => { s.fuses with
        life := l, nextLife := none
        keyGen := if l = .returned ∧ s.fuses.life ≠ .returned then s.fuses.keyGen + 1 else s.fuses.keyGen }
      | none => s.fuses
    let accepts := fun (x : List Byte) => Config.signatureValid x = true ∧ s.fuses.minVer ≤ Config.imageVersion x
    let boot := s.fuses.staged.getD s.fuses.running
    let wiped := { State.reset with
      agenda := s.agenda, seqNo := s.seqNo, ticks := s.ticks, mem := s.mem.filter (fun c => decide (2 ^ 51 ≤ c.1))
      fuses := s.fuses, disabled := s.disabled, retired := s.retired, gone := s.gone, fnLink := s.fnLink, held := s.held.filter isDoorbell
      heldAt := ((s.held.zip s.heldAt).filter fun (h : Instr × Nat) => isDoorbell h.1).map Prod.snd }
    let dark := { wiped with powered := false, opened := false, hlinks := s.hlinks.map fun x => { x with up := false } }
    let off := { Island.reset with pstate := .off, gate := true, mode := 2 }
    let recovery := fun (t : State) => { t with
      recovery := true, opened := true, islands := List.replicate 48 off, hlinks := [{ up := true, mode := .pcie }, { up := false, mode := .pcie }] }
    let dead := (List.range 48).filter (Config.memFails s.ticks)
    let failed := (List.range 48).filter (Config.islandFails s.ticks)
    let booted := { wiped with
      fuses := { fuses with running := boot, staged := none }, deadMem := dead, dbgLog := dead.map fun u => (8, [BitVec.ofNat 8 u]) }
    let up := (s.hlinks.getD 0 { up := false, mode := .pcie }).up
    let staged := fun (t : State) => { t with fuses := { t.fuses with staged := some image } }
    let valid := Config.signatureValid token = true ∧ Config.tokenTarget token = (lifeCode target).toNat
    (Config.powerFails s.ticks = true → exec .moduleReset s = .next dark) ∧
    (Config.powerFails s.ticks = false →
      (¬ accepts boot → exec .moduleReset s = .next (recovery { wiped with fuses := fuses })) ∧
      (accepts boot → Config.wipeFails s.ticks = true → exec .moduleReset s = .next (recovery booted)) ∧
      (accepts boot → Config.wipeFails s.ticks = false → exec .moduleReset s = .next { booted with
        failed := failed, tcm := firmwareMem boot, opened := false, fabricBy := wiped.now + 500000000
        hlinks := [{ up := false, mode := .pcie }, { up := false, mode := .pcie }]
        tison := (List.range 4).map fun c => { Tison.reset with run := c == 0 || Config.coreStarts s.ticks c }
        islands := (List.range 48).map fun i => if failed.contains i then off else Island.reset })) ∧
    exec .powerLoss s = .next dark ∧ exec .thermalTrip s = .next dark ∧
    (s.recovery = false → accepts image → exec (.firmwareStage image) s = .next (staged s)) ∧
    (s.recovery = true ∨ ¬ accepts image → exec (.firmwareStage image) s = .next s) ∧
    (s.recovery = true → up = true → image.length ≤ 65536 →
      (accepts image → exec (.recoveryImageStage image) s = .next (staged { s with mailbox := image })) ∧
      (¬ accepts image → exec (.recoveryImageStage image) s = .next { s with mailbox := image })) ∧
    (s.recovery = false ∨ up = false ∨ 65536 < image.length → exec (.recoveryImageStage image) s = .next s) ∧
    (valid → exec (.lifeCycleToken target token) s = .next { s with fuses := { s.fuses with nextLife := some target } }) ∧
    (¬ valid → exec (.lifeCycleToken target token) s = .next s) ∧
    (nonce.length = 32 → ∃ t r, exec (.attestationRequest nonce) s = .next t ∧ t = { s with report := some r } ∧ r.nonce = nonce ∧
      r.rom = Config.romDigest ∧ r.firmware = Config.digest s.fuses.running ∧ r.fused = Config.fusedDigest ∧ r.life = s.fuses.life ∧
      r.sig = Config.signReport s.fuses.keyGen (nonce ++ r.rom ++ r.firmware ++ r.fused ++ [lifeCode r.life] ++
        r.masks.flatMap fun m => toBytes 18 m.toNat) ∧
      r.masks.length = 4 ∧ ∀ d < 4, ∀ c < 144, (r.masks.getD d 0).getLsbD c =
        (!s.disabled.contains (d * 144 + c) && !s.failed.contains (islandOf (d * 144 + c)))) ∧
    (nonce.length ≠ 32 → exec (.attestationRequest nonce) s = .next s)) ∧
  (∀ (s : State) (sp line : Nat) (unc pass spare : Bool),
    let tested := s.tests.any fun t => t.1 == sp && t.2.1 == line
    let copy := line % 2 ^ 47
    let pa := if sp = 0 ∨ sp = 9 then 128 * line else if sp = 8 ∨ sp = 10 then 128 * copy else if sp = 11 then 64 * copy else 0
    let poisoned := fun (x : LineId) => { s with poison := if s.poison.contains x then s.poison else s.poison ++ [x] }
    let of := fun (core key : Nat) => core == line / 2 ^ 47 && key == copy
    let unit := (Config.errorUnit s.ticks).toNat
    let bank := line / 2 ^ 16
    let lane := line % 2 ^ 16 / 2048
    let slot := line % 2048
    (s.ownMemory sp line = false → exec (.selfTest sp line unc) s = .next s) ∧
    (s.ownMemory sp line = true → ∃ t, exec (.selfTest sp line unc) s = .next t ∧
      (tested = false → t.tests = s.tests ++ [(sp, line, unc)] ∧ t.tcm = s.tcm ∧ t.errCount = s.errCount ∧ t.drops = s.drops) ∧
      (tested = true → t.tests = s.tests ∧ ErrorAdded s t pa unit (if unc then 2 else 1) 3) ∧
      (let v := { t with tests := s.tests, tcm := s.tcm, errCount := s.errCount, drops := s.drops }
       (unc = false → v = s) ∧
       (unc = true →
        (sp ∈ [0, 2, 4, 5] → v = poisoned (sp, line)) ∧
        (sp = 9 → v = poisoned (0, line)) ∧
        (sp = 8 → v = { s with l1 := s.l1.map fun c => if of c.core c.line then { c with bad := true } else c }) ∧
        (sp = 10 → v = { s with icache := s.icache.filter fun c => !of c.core c.line }) ∧
        (sp = 11 → v = { s with scales := s.scales.map fun b => if of b.core b.block then { b with bad := true } else b }) ∧
        (sp = 3 → { v with tm := s.tm, teams := s.teams } = s ∧
          v.tm = if s.tm.live = true ∧ s.tm.held = false ∧ s.tm.core = line / 16 ∧ line % 16 ∈ s.tm.phys then
            { s.tm with acc := s.tm.acc.modify (s.tm.phys.idxOf (line % 16)) fun a => { a with bad := true } } else s.tm) ∧
        (sp ∈ [1, 6, 7, 12] → { v with tm := s.tm, teams := s.teams } = s ∧
          (s.tm.live = true → s.tm.held = false → s.tm.core = bank / 96 → s.gp.gslot = bank % 96 →
            (sp = 1 ∨ sp = 12 → v.gp = { s.gp with lanes := s.gp.lanes.map fun l =>
              if l.ix = lane ∧ l.live = true then { l with bad := slot :: l.bad.filter fun j => j != slot } else l }) ∧
            (sp = 6 → v.gp = { s.gp with lanes := s.gp.lanes.map fun l =>
              if l.ix = lane ∧ l.live = true then { l with stk := poisonEntry slot line l.stk } else l }) ∧
            (sp = 7 → v.gp = s.gp.mapFrags fun f =>
              if inMask f.mask lane then { f with sstk := poisonEntry slot line f.sstk } else f)))))) ∧
    (∀ u, s.tests.head? = some (sp, line, u) →
      let result := if pass then 0 else if sp ≠ 0 ∨ (spare = true ∧ 128 * line < 0x60_0000_0000) then 1 else 2
      ∃ t, exec (.selfTestComplete sp line pass spare) s = .next t ∧ t.tests = s.tests.tail ∧
        ErrorAdded s t pa unit (if u then 2 else 1) result ∧ t.retired = (if result = 2 then s.retired ++ [line / 32] else s.retired) ∧
        { t with tests := s.tests, tcm := s.tcm, errCount := s.errCount, drops := s.drops, retired := s.retired } = s) ∧
    (tested = false → exec (.selfTestComplete sp line pass spare) s = .next s))

/-! ### Decoding, steps and the whole machine -/

/-- R113, R115, R118, R119, R120, R121, R122, R169, R170, R201, R249, R335: some words that the spec writes out decode to the
instructions they stand for, and one whose guard its format does not use to none. -/
def Obligations.WrittenWordsDecode : Prop :=
  decodeTableWord 16 0x0240 = some (.add .rne .i32 false) ∧ decodeTableWord 16 0xA640 = some (.add .rsr .f32 false) ∧
  decodeTableWord 32 0x00144C8D = some (.cmp false .lt .f32 1 2 .unc ⟨0, false⟩) ∧
  decodeTableWord 32 0x0041D051 = some (.st false .g .b32 .far ⟨3, false⟩ 8) ∧
  decodeTableWord 32 0x0041D011 = none ∧
  decodeTableWord 32 0xFFFFFFC5 = some (.lit false (-1)) ∧
  decodeTableWord 32 0xFFFFA249 = some (.bru ⟨2, false⟩ (-6)) ∧
  decodeTableWord 32 0x000030A9 = some (.rep ⟨0, false⟩ 3) ∧
  decodeTableWord 32 0x003C0579 = some (.mend 2 (-2)) ∧
  decodeTableWord 32 0xF87FFC1D = some (.wait 63 63 1 31) ∧
  decodeTableWord 64 0x0000000000000137 = some (.mwt 1) ∧
  decodeTableWord 32 0x0030050B = some (.tnRingf 10 3) ∧ decodeTableWord 32 0x1C85158B = some (.tnBfx 11 10 8 7)

/-- R111 to R128, R248 to R271, R335: the decoder reads back every word that the encoder gives: no operand of any well-formed
instruction is dropped. -/
def Obligations.EncodedInstructionsDecodeBack : Prop :=
  ∀ (i : Instr) (n w : Nat), i.wf = true → encode i = some (n, w) → decodeTableWord n w = some i

/-- R5, R111, R112, R248, R249, R335: what the decoder accepts is a well-formed instruction, and its encoding is the word read: a word
with a reserved encoding, or with a bit that its format does not use, is refused. -/
def Obligations.AcceptedWordsAreEncodings : Prop :=
  ∀ (k : Stream3) (bs : List Byte) (i : Instr), maxBytes k ≤ bs.length → decodeBytes k bs = .ok i →
    i.wf = true ∧ ∃ n, n ≤ maxBytes k ∧ encode i = some (8 * n, ofBytes (bs.take n))

/-- R91, R92, R112, R219, R232, R248, R301, R335, R337, R349, R362, R364, R366, R373: a step runs the instruction at the place where the part whose turn it
is fetches: the fragment that issues next, the sequencer that issues next, a Tison core, whose other words are the base set's; or the event
that is due, or that the agenda names. A breakpoint comes before the instruction, and a fetch that misses or fails, and a word that decodes to
nothing, end the step in its own way. A fragment that issues passes over the others of its port that were ready; one that does not, as it parks
or goes on with what it has issued, passes over none. Then time passes, and a snapshot whose tick has come is latched. Requests that wait at a
port, doorbells before the links have trained among them, are held in the order in which they came; without power only a reset goes on. Whose turn
it is and how long a step takes (log entries 1 and 7), the cause of a Tison core's fetch fault (log entry 63), and what is held without power (log
entry 65) are the model's choice. -/
def Obligations.StepRunsTheDecodedInstruction : Prop :=
  ∀ (s : State) (i : Instr),
    let then_ := fun (o : Host.Outcome State Fault Refusal) => match o with
      | .next t => Host.Outcome.next (State.snapAtTick { t with now := t.now + Config.stepNs t.ticks, ticks := t.ticks + 1 })
      | .fault f => .fault f
      | .refused r => .refused r
    let held := fun (rest : List Instr) =>
      { s with agenda := rest, held := s.held ++ [i], heldAt := s.heldAt ++ [s.seqNo + 1], seqNo := s.seqNo + 1 }
    let waits := (isDoorbell i = true ∧ (s.powered = false ∨ s.opened = false)) ∨ (s.powered = true ∧ ∃ h ∈ s.held, inOrder i h = true)
    (s.powered = true →
      (∀ c, s.agenda = [] → s.turn = .lane → s.pick = some c →
        let u := { s.focusCand c with cur := .lane, turn := .matrix }
        let over_ := u.passOver u.readyPeers (isYield i)
        (u.atBreakpoint = true → step s = then_ (exec (.breakpoint u.fragRef) u)) ∧
        (u.atBreakpoint = false →
          (∀ bs, u.fetchLane u.fr.pc.toNat = .bytes bs →
            (decodeBytes .lane bs = .ok i →
              (∀ t, exec i (over_.portIssue i) = .next t → t.issueNo = u.issueNo → step s = then_ (exec i u)) ∧
              (∀ t, exec i (over_.portIssue i) = .next t → t.issueNo ≠ u.issueNo → step s = then_ (.next t))) ∧
            (∀ r, decodeBytes .lane bs = .error r → step s = then_ (.next ((u.passOver u.readyPeers false).decodeFault r bs)))) ∧
          (∀ va, u.fetchLane u.fr.pc.toNat = .miss va → step s = then_ (.next (u.fetchMiss va))) ∧
          (∀ line, u.fetchLane u.fr.pc.toNat = .fill line → step s = then_ (.next (u.fetchLost line))) ∧
          (∀ k va, u.fetchLane u.fr.pc.toNat = .bad k va → step s = then_ (.next (u.fetchFault k va))))) ∧
      (∀ r, s.agenda = [] → s.turn = .matrix → s.pickSeq = some r →
        let u := { s.focusTeam r.core r.ctx with cur := .matrix, turn := .event }
        (∀ bs, u.fetchMatrixWord = .bytes bs →
          (decodeBytes .matrix bs = .ok i → step s = then_ (exec i u)) ∧
          (∀ r, decodeBytes .matrix bs = .error r → step s = then_ (.next (u.seqFault (rejectCode r) 0 (ofBytes bs))))) ∧
        (∀ va, u.fetchMatrixWord = .miss va → step s = then_ (.next (u.seqMiss va))) ∧
        (∀ line, u.fetchMatrixWord = .fill line → step s = then_ (.next (u.seqFill line))) ∧
        (∀ k va, u.fetchMatrixWord = .bad k va → step s = then_ (.next (u.seqFault k va 0)))) ∧
      (s.agenda = [] → s.turn = .event → s.nextDue = some i → step s = then_ (exec i { s with
        held := s.held.erase i, heldAt := s.heldAt.eraseIdx (s.held.idxOf i), cur := .none, turn := .tison })) ∧
      (∀ c, s.agenda = [] → s.turn = .tison → s.pickTison = some c →
        let u := { s with cur := .tison c, turn := .lane }
        let pc := (u.tisonCore c).pc
        (∀ w len, u.fetchTison c = some (w, len) →
          (w % 128 = 0x0B → decodeBytes .tison (toBytes 4 w) = .ok i → step s = then_ (exec i u)) ∧
          (∀ r, w % 128 = 0x0B → decodeBytes .tison (toBytes 4 w) = .error r → step s = then_ (.next (u.tisonTrap c 24 pc w))) ∧
          (w % 128 ≠ 0x0B → step s = then_ (.next (u.rvStep c w len)))) ∧
        (u.fetchTison c = none → step s = then_ (.next (u.tisonTrap c 1 pc pc.toNat)))) ∧
      (s.agenda = [] → takeTurn s.turn s = none → step s = then_ (firstTurn 3 s.turn.next s))) ∧
    (s.powered = false → s.agenda = [] → step s = .fault .noPower) ∧
    (∀ rest, s.agenda = i :: rest →
      (i.encoded = true → step s = then_ (.next { s with agenda := rest })) ∧
      (i.encoded = false → waits → step s = then_ (.next (held rest))) ∧
      (i.encoded = false → ¬ waits → s.powered = true ∨ isReset i = true →
        step s = then_ (exec i { s with agenda := rest, cur := .none })) ∧
      (i.encoded = false → ¬ waits → s.powered = false → isReset i = false → step s = then_ (.next { s with agenda := rest })))

/-- R196, R335, R370: the memories keep their canonical form in every step. -/
def Obligations.StepsKeepMemoryCanonical : Prop :=
  ∀ (s t : State), s.MemOk → step s = .next t → t.MemOk

/-- R5, R330, R338, R345, R353, R357, R362: whatever the module does, reserved bits of the registers that the host, the firmware and
the debugger write read 0, no ring of a size outside its range is enabled, CAP is not 0 and no request names the reserved ratio. -/
def Obligations.StepsKeepRegistersInRange : Prop :=
  ∀ (s t : State), s.RegsOk → step s = .next t → t.RegsOk

/-- R329, R330, R338, R345, R353, R357, R362, R370: reset leaves memory at zero and every register at the Reset value of its table, with
islands ON at A3, and meets the invariants. The safe cap, and what the tables do not hold, are log entries 3 and 4. -/
def Obligations.ResetHoldsTheResetValues : Prop :=
  let s := State.reset
  s.MemOk ∧ s.RegsOk ∧ (∀ sp a, s.byteAt sp a = 0) ∧
  s.queues.length = 64 ∧ (∀ q ∈ s.queues, q.cbase = 0 ∧ q.rbase = 0 ∧ q.en = false ∧ q.log2 = 0 ∧ q.tail = 0 ∧ q.head = 0 ∧
    q.rtail = 0 ∧ q.rhead = 0 ∧ q.ovr = false) ∧
  s.sessions.length = 64 ∧ (∀ x ∈ s.sessions, x.sctl = 0 ∧ x.scnt = 0 ∧ x.sroute = 0 ∧ x.stime = 0 ∧ x.round = 0 ∧ x.abort = false ∧
    x.nan = false ∧ x.trunc = false ∧ x.sat = false) ∧
  (∀ x ∈ s.flinks, x.retry = 0 ∧ x.peer = 0 ∧ x.crcerr = false ∧ x.width = 0 ∧ x.up = false) ∧
  s.islands.length = 48 ∧ (∀ x ∈ s.islands, x.target = 3 ∧ x.applied = 3 ∧ x.limit = 0 ∧ x.pend = false ∧ x.moveTo = none ∧
    x.pstate = .on ∧ x.seqerr = false ∧ x.ockill = false ∧ x.iqreq = false ∧ x.iqack = 0 ∧ x.restored = false ∧ x.done = false ∧
    x.coreSaved = 0 ∧ x.gate = false ∧ x.mode = 0 ∧ x.used = 0 ∧ x.cap = 96) ∧
  s.trace = { kinds := 0, en := false, base := 0, log2 := 12, wptr := 0, rptr := 0, lost := 0 } ∧
  s.ctxs.length = 8 ∧ ∀ k ∈ s.ctxs, k.phase = .free ∧ k.bps = [0, 0, 0, 0] ∧ k.wbase = [0, 0, 0, 0] ∧ k.wctl = [0, 0, 0, 0]
end

