-- ==== Sys2Proof/Laws/State.lean ====
section
/-!
SUPPORT. What each replacement of the focus and of a launch context leaves alone: one lemma for each field and each update.
-/
namespace Sys2Proof.Machine

@[simp] theorem State.setTm_agenda (s : State) (t : Team) : (s.setTm t).agenda = s.agenda := rfl
@[simp] theorem State.setTm_turn (s : State) (t : Team) : (s.setTm t).turn = s.turn := rfl
@[simp] theorem State.setTm_cur (s : State) (t : Team) : (s.setTm t).cur = s.cur := rfl
@[simp] theorem State.setTm_held (s : State) (t : Team) : (s.setTm t).held = s.held := rfl
@[simp] theorem State.setTm_heldAt (s : State) (t : Team) : (s.setTm t).heldAt = s.heldAt := rfl
@[simp] theorem State.setTm_issueNo (s : State) (t : Team) : (s.setTm t).issueNo = s.issueNo := rfl
@[simp] theorem State.setTm_seqNo (s : State) (t : Team) : (s.setTm t).seqNo = s.seqNo := rfl
@[simp] theorem State.setTm_ticks (s : State) (t : Team) : (s.setTm t).ticks = s.ticks := rfl
@[simp] theorem State.setTm_now (s : State) (t : Team) : (s.setTm t).now = s.now := rfl
@[simp] theorem State.setTm_powered (s : State) (t : Team) : (s.setTm t).powered = s.powered := rfl
@[simp] theorem State.setTm_recovery (s : State) (t : Team) : (s.setTm t).recovery = s.recovery := rfl
@[simp] theorem State.setTm_fabricBy (s : State) (t : Team) : (s.setTm t).fabricBy = s.fabricBy := rfl
@[simp] theorem State.setTm_opened (s : State) (t : Team) : (s.setTm t).opened = s.opened := rfl
@[simp] theorem State.setTm_tm (s : State) (t : Team) : (s.setTm t).tm = t := rfl
@[simp] theorem State.setTm_teams (s : State) (t : Team) : (s.setTm t).teams = s.teams := rfl
@[simp] theorem State.setTm_ctxs (s : State) (t : Team) : (s.setTm t).ctxs = s.ctxs := rfl
@[simp] theorem State.setTm_queues (s : State) (t : Team) : (s.setTm t).queues = s.queues := rfl
@[simp] theorem State.setTm_signals (s : State) (t : Team) : (s.setTm t).signals = s.signals := rfl
@[simp] theorem State.setTm_waiters (s : State) (t : Team) : (s.setTm t).waiters = s.waiters := rfl
@[simp] theorem State.setTm_tison (s : State) (t : Team) : (s.setTm t).tison = s.tison := rfl
@[simp] theorem State.setTm_disabled (s : State) (t : Team) : (s.setTm t).disabled = s.disabled := rfl
@[simp] theorem State.setTm_failed (s : State) (t : Team) : (s.setTm t).failed = s.failed := rfl
@[simp] theorem State.setTm_gated (s : State) (t : Team) : (s.setTm t).gated = s.gated := rfl
@[simp] theorem State.setTm_stopReq (s : State) (t : Team) : (s.setTm t).stopReq = s.stopReq := rfl
@[simp] theorem State.setTm_stopped (s : State) (t : Team) : (s.setTm t).stopped = s.stopped := rfl
@[simp] theorem State.setTm_stepping (s : State) (t : Team) : (s.setTm t).stepping = s.stepping := rfl
@[simp] theorem State.setTm_jobs (s : State) (t : Team) : (s.setTm t).jobs = s.jobs := rfl
@[simp] theorem State.setTm_copies (s : State) (t : Team) : (s.setTm t).copies = s.copies := rfl
@[simp] theorem State.setTm_fnLink (s : State) (t : Team) : (s.setTm t).fnLink = s.fnLink := rfl
@[simp] theorem State.setTm_mem (s : State) (t : Team) : (s.setTm t).mem = s.mem := rfl
@[simp] theorem State.setTm_scr (s : State) (t : Team) : (s.setTm t).scr = s.scr := rfl
@[simp] theorem State.setTm_dsp (s : State) (t : Team) : (s.setTm t).dsp = s.dsp := rfl
@[simp] theorem State.setTm_tcm (s : State) (t : Team) : (s.setTm t).tcm = s.tcm := rfl
@[simp] theorem State.setTm_absent (s : State) (t : Team) : (s.setTm t).absent = s.absent := rfl
@[simp] theorem State.setTm_poison (s : State) (t : Team) : (s.setTm t).poison = s.poison := rfl
@[simp] theorem State.setTm_stamps (s : State) (t : Team) : (s.setTm t).stamps = s.stamps := rfl
@[simp] theorem State.setTm_pages (s : State) (t : Team) : (s.setTm t).pages = s.pages := rfl
@[simp] theorem State.setTm_l1 (s : State) (t : Team) : (s.setTm t).l1 = s.l1 := rfl
@[simp] theorem State.setTm_scales (s : State) (t : Team) : (s.setTm t).scales = s.scales := rfl
@[simp] theorem State.setTm_icache (s : State) (t : Team) : (s.setTm t).icache = s.icache := rfl
@[simp] theorem State.setTm_tlb (s : State) (t : Team) : (s.setTm t).tlb = s.tlb := rfl
@[simp] theorem State.setTm_slotPages (s : State) (t : Team) : (s.setTm t).slotPages = s.slotPages := rfl
@[simp] theorem State.setTm_hostBias (s : State) (t : Team) : (s.setTm t).hostBias = s.hostBias := rfl
@[simp] theorem State.setTm_flipping (s : State) (t : Team) : (s.setTm t).flipping = s.flipping := rfl
@[simp] theorem State.setTm_biasJobs (s : State) (t : Team) : (s.setTm t).biasJobs = s.biasJobs := rfl
@[simp] theorem State.setTm_ops (s : State) (t : Team) : (s.setTm t).ops = s.ops := rfl
@[simp] theorem State.setTm_poolOps (s : State) (t : Team) : (s.setTm t).poolOps = s.poolOps := rfl
@[simp] theorem State.setTm_posted (s : State) (t : Team) : (s.setTm t).posted = s.posted := rfl
@[simp] theorem State.setTm_wqs (s : State) (t : Team) : (s.setTm t).wqs = s.wqs := rfl
@[simp] theorem State.setTm_hlinks (s : State) (t : Team) : (s.setTm t).hlinks = s.hlinks := rfl
@[simp] theorem State.setTm_flinks (s : State) (t : Team) : (s.setTm t).flinks = s.flinks := rfl
@[simp] theorem State.setTm_sessions (s : State) (t : Team) : (s.setTm t).sessions = s.sessions := rfl
@[simp] theorem State.setTm_hostRead (s : State) (t : Team) : (s.setTm t).hostRead = s.hostRead := rfl
@[simp] theorem State.setTm_islands (s : State) (t : Team) : (s.setTm t).islands = s.islands := rfl
@[simp] theorem State.setTm_cycles (s : State) (t : Team) : (s.setTm t).cycles = s.cycles := rfl
@[simp] theorem State.setTm_rack (s : State) (t : Team) : (s.setTm t).rack = s.rack := rfl
@[simp] theorem State.setTm_trace (s : State) (t : Team) : (s.setTm t).trace = s.trace := rfl
@[simp] theorem State.setTm_traceq (s : State) (t : Team) : (s.setTm t).traceq = s.traceq := rfl
@[simp] theorem State.setTm_dbgLog (s : State) (t : Team) : (s.setTm t).dbgLog = s.dbgLog := rfl
@[simp] theorem State.setTm_snap (s : State) (t : Team) : (s.setTm t).snap = s.snap := rfl
@[simp] theorem State.setTm_snapSource (s : State) (t : Team) : (s.setTm t).snapSource = s.snapSource := rfl
@[simp] theorem State.setTm_snapTime (s : State) (t : Team) : (s.setTm t).snapTime = s.snapTime := rfl
@[simp] theorem State.setTm_snapDue (s : State) (t : Team) : (s.setTm t).snapDue = s.snapDue := rfl
@[simp] theorem State.setTm_frozen (s : State) (t : Team) : (s.setTm t).frozen = s.frozen := rfl
@[simp] theorem State.setTm_dbgReply (s : State) (t : Team) : (s.setTm t).dbgReply = s.dbgReply := rfl
@[simp] theorem State.setTm_fuses (s : State) (t : Team) : (s.setTm t).fuses = s.fuses := rfl
@[simp] theorem State.setTm_report (s : State) (t : Team) : (s.setTm t).report = s.report := rfl
@[simp] theorem State.setTm_mailbox (s : State) (t : Team) : (s.setTm t).mailbox = s.mailbox := rfl
@[simp] theorem State.setTm_errCount (s : State) (t : Team) : (s.setTm t).errCount = s.errCount := rfl
@[simp] theorem State.setTm_drops (s : State) (t : Team) : (s.setTm t).drops = s.drops := rfl
@[simp] theorem State.setTm_tests (s : State) (t : Team) : (s.setTm t).tests = s.tests := rfl
@[simp] theorem State.setTm_retired (s : State) (t : Team) : (s.setTm t).retired = s.retired := rfl
@[simp] theorem State.setTm_gone (s : State) (t : Team) : (s.setTm t).gone = s.gone := rfl
@[simp] theorem State.setTm_deadMem (s : State) (t : Team) : (s.setTm t).deadMem = s.deadMem := rfl

@[simp] theorem State.setGp_agenda (s : State) (g : Group) : (s.setGp g).agenda = s.agenda := rfl
@[simp] theorem State.setGp_turn (s : State) (g : Group) : (s.setGp g).turn = s.turn := rfl
@[simp] theorem State.setGp_cur (s : State) (g : Group) : (s.setGp g).cur = s.cur := rfl
@[simp] theorem State.setGp_held (s : State) (g : Group) : (s.setGp g).held = s.held := rfl
@[simp] theorem State.setGp_heldAt (s : State) (g : Group) : (s.setGp g).heldAt = s.heldAt := rfl
@[simp] theorem State.setGp_issueNo (s : State) (g : Group) : (s.setGp g).issueNo = s.issueNo := rfl
@[simp] theorem State.setGp_seqNo (s : State) (g : Group) : (s.setGp g).seqNo = s.seqNo := rfl
@[simp] theorem State.setGp_ticks (s : State) (g : Group) : (s.setGp g).ticks = s.ticks := rfl
@[simp] theorem State.setGp_now (s : State) (g : Group) : (s.setGp g).now = s.now := rfl
@[simp] theorem State.setGp_powered (s : State) (g : Group) : (s.setGp g).powered = s.powered := rfl
@[simp] theorem State.setGp_recovery (s : State) (g : Group) : (s.setGp g).recovery = s.recovery := rfl
@[simp] theorem State.setGp_fabricBy (s : State) (g : Group) : (s.setGp g).fabricBy = s.fabricBy := rfl
@[simp] theorem State.setGp_opened (s : State) (g : Group) : (s.setGp g).opened = s.opened := rfl
@[simp] theorem State.setGp_tm (s : State) (g : Group) : (s.setGp g).tm = { s.tm with gp := g } := rfl
@[simp] theorem State.setGp_teams (s : State) (g : Group) : (s.setGp g).teams = s.teams := rfl
@[simp] theorem State.setGp_ctxs (s : State) (g : Group) : (s.setGp g).ctxs = s.ctxs := rfl
@[simp] theorem State.setGp_queues (s : State) (g : Group) : (s.setGp g).queues = s.queues := rfl
@[simp] theorem State.setGp_signals (s : State) (g : Group) : (s.setGp g).signals = s.signals := rfl
@[simp] theorem State.setGp_waiters (s : State) (g : Group) : (s.setGp g).waiters = s.waiters := rfl
@[simp] theorem State.setGp_tison (s : State) (g : Group) : (s.setGp g).tison = s.tison := rfl
@[simp] theorem State.setGp_disabled (s : State) (g : Group) : (s.setGp g).disabled = s.disabled := rfl
@[simp] theorem State.setGp_failed (s : State) (g : Group) : (s.setGp g).failed = s.failed := rfl
@[simp] theorem State.setGp_gated (s : State) (g : Group) : (s.setGp g).gated = s.gated := rfl
@[simp] theorem State.setGp_stopReq (s : State) (g : Group) : (s.setGp g).stopReq = s.stopReq := rfl
@[simp] theorem State.setGp_stopped (s : State) (g : Group) : (s.setGp g).stopped = s.stopped := rfl
@[simp] theorem State.setGp_stepping (s : State) (g : Group) : (s.setGp g).stepping = s.stepping := rfl
@[simp] theorem State.setGp_jobs (s : State) (g : Group) : (s.setGp g).jobs = s.jobs := rfl
@[simp] theorem State.setGp_copies (s : State) (g : Group) : (s.setGp g).copies = s.copies := rfl
@[simp] theorem State.setGp_fnLink (s : State) (g : Group) : (s.setGp g).fnLink = s.fnLink := rfl
@[simp] theorem State.setGp_mem (s : State) (g : Group) : (s.setGp g).mem = s.mem := rfl
@[simp] theorem State.setGp_scr (s : State) (g : Group) : (s.setGp g).scr = s.scr := rfl
@[simp] theorem State.setGp_dsp (s : State) (g : Group) : (s.setGp g).dsp = s.dsp := rfl
@[simp] theorem State.setGp_tcm (s : State) (g : Group) : (s.setGp g).tcm = s.tcm := rfl
@[simp] theorem State.setGp_absent (s : State) (g : Group) : (s.setGp g).absent = s.absent := rfl
@[simp] theorem State.setGp_poison (s : State) (g : Group) : (s.setGp g).poison = s.poison := rfl
@[simp] theorem State.setGp_stamps (s : State) (g : Group) : (s.setGp g).stamps = s.stamps := rfl
@[simp] theorem State.setGp_pages (s : State) (g : Group) : (s.setGp g).pages = s.pages := rfl
@[simp] theorem State.setGp_l1 (s : State) (g : Group) : (s.setGp g).l1 = s.l1 := rfl
@[simp] theorem State.setGp_scales (s : State) (g : Group) : (s.setGp g).scales = s.scales := rfl
@[simp] theorem State.setGp_icache (s : State) (g : Group) : (s.setGp g).icache = s.icache := rfl
@[simp] theorem State.setGp_tlb (s : State) (g : Group) : (s.setGp g).tlb = s.tlb := rfl
@[simp] theorem State.setGp_slotPages (s : State) (g : Group) : (s.setGp g).slotPages = s.slotPages := rfl
@[simp] theorem State.setGp_hostBias (s : State) (g : Group) : (s.setGp g).hostBias = s.hostBias := rfl
@[simp] theorem State.setGp_flipping (s : State) (g : Group) : (s.setGp g).flipping = s.flipping := rfl
@[simp] theorem State.setGp_biasJobs (s : State) (g : Group) : (s.setGp g).biasJobs = s.biasJobs := rfl
@[simp] theorem State.setGp_ops (s : State) (g : Group) : (s.setGp g).ops = s.ops := rfl
@[simp] theorem State.setGp_poolOps (s : State) (g : Group) : (s.setGp g).poolOps = s.poolOps := rfl
@[simp] theorem State.setGp_posted (s : State) (g : Group) : (s.setGp g).posted = s.posted := rfl
@[simp] theorem State.setGp_wqs (s : State) (g : Group) : (s.setGp g).wqs = s.wqs := rfl
@[simp] theorem State.setGp_hlinks (s : State) (g : Group) : (s.setGp g).hlinks = s.hlinks := rfl
@[simp] theorem State.setGp_flinks (s : State) (g : Group) : (s.setGp g).flinks = s.flinks := rfl
@[simp] theorem State.setGp_sessions (s : State) (g : Group) : (s.setGp g).sessions = s.sessions := rfl
@[simp] theorem State.setGp_hostRead (s : State) (g : Group) : (s.setGp g).hostRead = s.hostRead := rfl
@[simp] theorem State.setGp_islands (s : State) (g : Group) : (s.setGp g).islands = s.islands := rfl
@[simp] theorem State.setGp_cycles (s : State) (g : Group) : (s.setGp g).cycles = s.cycles := rfl
@[simp] theorem State.setGp_rack (s : State) (g : Group) : (s.setGp g).rack = s.rack := rfl
@[simp] theorem State.setGp_trace (s : State) (g : Group) : (s.setGp g).trace = s.trace := rfl
@[simp] theorem State.setGp_traceq (s : State) (g : Group) : (s.setGp g).traceq = s.traceq := rfl
@[simp] theorem State.setGp_dbgLog (s : State) (g : Group) : (s.setGp g).dbgLog = s.dbgLog := rfl
@[simp] theorem State.setGp_snap (s : State) (g : Group) : (s.setGp g).snap = s.snap := rfl
@[simp] theorem State.setGp_snapSource (s : State) (g : Group) : (s.setGp g).snapSource = s.snapSource := rfl
@[simp] theorem State.setGp_snapTime (s : State) (g : Group) : (s.setGp g).snapTime = s.snapTime := rfl
@[simp] theorem State.setGp_snapDue (s : State) (g : Group) : (s.setGp g).snapDue = s.snapDue := rfl
@[simp] theorem State.setGp_frozen (s : State) (g : Group) : (s.setGp g).frozen = s.frozen := rfl
@[simp] theorem State.setGp_dbgReply (s : State) (g : Group) : (s.setGp g).dbgReply = s.dbgReply := rfl
@[simp] theorem State.setGp_fuses (s : State) (g : Group) : (s.setGp g).fuses = s.fuses := rfl
@[simp] theorem State.setGp_report (s : State) (g : Group) : (s.setGp g).report = s.report := rfl
@[simp] theorem State.setGp_mailbox (s : State) (g : Group) : (s.setGp g).mailbox = s.mailbox := rfl
@[simp] theorem State.setGp_errCount (s : State) (g : Group) : (s.setGp g).errCount = s.errCount := rfl
@[simp] theorem State.setGp_drops (s : State) (g : Group) : (s.setGp g).drops = s.drops := rfl
@[simp] theorem State.setGp_tests (s : State) (g : Group) : (s.setGp g).tests = s.tests := rfl
@[simp] theorem State.setGp_retired (s : State) (g : Group) : (s.setGp g).retired = s.retired := rfl
@[simp] theorem State.setGp_gone (s : State) (g : Group) : (s.setGp g).gone = s.gone := rfl
@[simp] theorem State.setGp_deadMem (s : State) (g : Group) : (s.setGp g).deadMem = s.deadMem := rfl

@[simp] theorem State.setFr_agenda (s : State) (f : Frag) : (s.setFr f).agenda = s.agenda := rfl
@[simp] theorem State.setFr_turn (s : State) (f : Frag) : (s.setFr f).turn = s.turn := rfl
@[simp] theorem State.setFr_cur (s : State) (f : Frag) : (s.setFr f).cur = s.cur := rfl
@[simp] theorem State.setFr_held (s : State) (f : Frag) : (s.setFr f).held = s.held := rfl
@[simp] theorem State.setFr_heldAt (s : State) (f : Frag) : (s.setFr f).heldAt = s.heldAt := rfl
@[simp] theorem State.setFr_issueNo (s : State) (f : Frag) : (s.setFr f).issueNo = s.issueNo := rfl
@[simp] theorem State.setFr_seqNo (s : State) (f : Frag) : (s.setFr f).seqNo = s.seqNo := rfl
@[simp] theorem State.setFr_ticks (s : State) (f : Frag) : (s.setFr f).ticks = s.ticks := rfl
@[simp] theorem State.setFr_now (s : State) (f : Frag) : (s.setFr f).now = s.now := rfl
@[simp] theorem State.setFr_powered (s : State) (f : Frag) : (s.setFr f).powered = s.powered := rfl
@[simp] theorem State.setFr_recovery (s : State) (f : Frag) : (s.setFr f).recovery = s.recovery := rfl
@[simp] theorem State.setFr_fabricBy (s : State) (f : Frag) : (s.setFr f).fabricBy = s.fabricBy := rfl
@[simp] theorem State.setFr_opened (s : State) (f : Frag) : (s.setFr f).opened = s.opened := rfl
@[simp] theorem State.setFr_tm (s : State) (f : Frag) : (s.setFr f).tm = { s.tm with gp := { s.tm.gp with fr := f } } := rfl
@[simp] theorem State.setFr_teams (s : State) (f : Frag) : (s.setFr f).teams = s.teams := rfl
@[simp] theorem State.setFr_ctxs (s : State) (f : Frag) : (s.setFr f).ctxs = s.ctxs := rfl
@[simp] theorem State.setFr_queues (s : State) (f : Frag) : (s.setFr f).queues = s.queues := rfl
@[simp] theorem State.setFr_signals (s : State) (f : Frag) : (s.setFr f).signals = s.signals := rfl
@[simp] theorem State.setFr_waiters (s : State) (f : Frag) : (s.setFr f).waiters = s.waiters := rfl
@[simp] theorem State.setFr_tison (s : State) (f : Frag) : (s.setFr f).tison = s.tison := rfl
@[simp] theorem State.setFr_disabled (s : State) (f : Frag) : (s.setFr f).disabled = s.disabled := rfl
@[simp] theorem State.setFr_failed (s : State) (f : Frag) : (s.setFr f).failed = s.failed := rfl
@[simp] theorem State.setFr_gated (s : State) (f : Frag) : (s.setFr f).gated = s.gated := rfl
@[simp] theorem State.setFr_stopReq (s : State) (f : Frag) : (s.setFr f).stopReq = s.stopReq := rfl
@[simp] theorem State.setFr_stopped (s : State) (f : Frag) : (s.setFr f).stopped = s.stopped := rfl
@[simp] theorem State.setFr_stepping (s : State) (f : Frag) : (s.setFr f).stepping = s.stepping := rfl
@[simp] theorem State.setFr_jobs (s : State) (f : Frag) : (s.setFr f).jobs = s.jobs := rfl
@[simp] theorem State.setFr_copies (s : State) (f : Frag) : (s.setFr f).copies = s.copies := rfl
@[simp] theorem State.setFr_fnLink (s : State) (f : Frag) : (s.setFr f).fnLink = s.fnLink := rfl
@[simp] theorem State.setFr_mem (s : State) (f : Frag) : (s.setFr f).mem = s.mem := rfl
@[simp] theorem State.setFr_scr (s : State) (f : Frag) : (s.setFr f).scr = s.scr := rfl
@[simp] theorem State.setFr_dsp (s : State) (f : Frag) : (s.setFr f).dsp = s.dsp := rfl
@[simp] theorem State.setFr_tcm (s : State) (f : Frag) : (s.setFr f).tcm = s.tcm := rfl
@[simp] theorem State.setFr_absent (s : State) (f : Frag) : (s.setFr f).absent = s.absent := rfl
@[simp] theorem State.setFr_poison (s : State) (f : Frag) : (s.setFr f).poison = s.poison := rfl
@[simp] theorem State.setFr_stamps (s : State) (f : Frag) : (s.setFr f).stamps = s.stamps := rfl
@[simp] theorem State.setFr_pages (s : State) (f : Frag) : (s.setFr f).pages = s.pages := rfl
@[simp] theorem State.setFr_l1 (s : State) (f : Frag) : (s.setFr f).l1 = s.l1 := rfl
@[simp] theorem State.setFr_scales (s : State) (f : Frag) : (s.setFr f).scales = s.scales := rfl
@[simp] theorem State.setFr_icache (s : State) (f : Frag) : (s.setFr f).icache = s.icache := rfl
@[simp] theorem State.setFr_tlb (s : State) (f : Frag) : (s.setFr f).tlb = s.tlb := rfl
@[simp] theorem State.setFr_slotPages (s : State) (f : Frag) : (s.setFr f).slotPages = s.slotPages := rfl
@[simp] theorem State.setFr_hostBias (s : State) (f : Frag) : (s.setFr f).hostBias = s.hostBias := rfl
@[simp] theorem State.setFr_flipping (s : State) (f : Frag) : (s.setFr f).flipping = s.flipping := rfl
@[simp] theorem State.setFr_biasJobs (s : State) (f : Frag) : (s.setFr f).biasJobs = s.biasJobs := rfl
@[simp] theorem State.setFr_ops (s : State) (f : Frag) : (s.setFr f).ops = s.ops := rfl
@[simp] theorem State.setFr_poolOps (s : State) (f : Frag) : (s.setFr f).poolOps = s.poolOps := rfl
@[simp] theorem State.setFr_posted (s : State) (f : Frag) : (s.setFr f).posted = s.posted := rfl
@[simp] theorem State.setFr_wqs (s : State) (f : Frag) : (s.setFr f).wqs = s.wqs := rfl
@[simp] theorem State.setFr_hlinks (s : State) (f : Frag) : (s.setFr f).hlinks = s.hlinks := rfl
@[simp] theorem State.setFr_flinks (s : State) (f : Frag) : (s.setFr f).flinks = s.flinks := rfl
@[simp] theorem State.setFr_sessions (s : State) (f : Frag) : (s.setFr f).sessions = s.sessions := rfl
@[simp] theorem State.setFr_hostRead (s : State) (f : Frag) : (s.setFr f).hostRead = s.hostRead := rfl
@[simp] theorem State.setFr_islands (s : State) (f : Frag) : (s.setFr f).islands = s.islands := rfl
@[simp] theorem State.setFr_cycles (s : State) (f : Frag) : (s.setFr f).cycles = s.cycles := rfl
@[simp] theorem State.setFr_rack (s : State) (f : Frag) : (s.setFr f).rack = s.rack := rfl
@[simp] theorem State.setFr_trace (s : State) (f : Frag) : (s.setFr f).trace = s.trace := rfl
@[simp] theorem State.setFr_traceq (s : State) (f : Frag) : (s.setFr f).traceq = s.traceq := rfl
@[simp] theorem State.setFr_dbgLog (s : State) (f : Frag) : (s.setFr f).dbgLog = s.dbgLog := rfl
@[simp] theorem State.setFr_snap (s : State) (f : Frag) : (s.setFr f).snap = s.snap := rfl
@[simp] theorem State.setFr_snapSource (s : State) (f : Frag) : (s.setFr f).snapSource = s.snapSource := rfl
@[simp] theorem State.setFr_snapTime (s : State) (f : Frag) : (s.setFr f).snapTime = s.snapTime := rfl
@[simp] theorem State.setFr_snapDue (s : State) (f : Frag) : (s.setFr f).snapDue = s.snapDue := rfl
@[simp] theorem State.setFr_frozen (s : State) (f : Frag) : (s.setFr f).frozen = s.frozen := rfl
@[simp] theorem State.setFr_dbgReply (s : State) (f : Frag) : (s.setFr f).dbgReply = s.dbgReply := rfl
@[simp] theorem State.setFr_fuses (s : State) (f : Frag) : (s.setFr f).fuses = s.fuses := rfl
@[simp] theorem State.setFr_report (s : State) (f : Frag) : (s.setFr f).report = s.report := rfl
@[simp] theorem State.setFr_mailbox (s : State) (f : Frag) : (s.setFr f).mailbox = s.mailbox := rfl
@[simp] theorem State.setFr_errCount (s : State) (f : Frag) : (s.setFr f).errCount = s.errCount := rfl
@[simp] theorem State.setFr_drops (s : State) (f : Frag) : (s.setFr f).drops = s.drops := rfl
@[simp] theorem State.setFr_tests (s : State) (f : Frag) : (s.setFr f).tests = s.tests := rfl
@[simp] theorem State.setFr_retired (s : State) (f : Frag) : (s.setFr f).retired = s.retired := rfl
@[simp] theorem State.setFr_gone (s : State) (f : Frag) : (s.setFr f).gone = s.gone := rfl
@[simp] theorem State.setFr_deadMem (s : State) (f : Frag) : (s.setFr f).deadMem = s.deadMem := rfl

@[simp] theorem State.setLanes_agenda (s : State) (ls : List Lane) : (s.setLanes ls).agenda = s.agenda := rfl
@[simp] theorem State.setLanes_turn (s : State) (ls : List Lane) : (s.setLanes ls).turn = s.turn := rfl
@[simp] theorem State.setLanes_cur (s : State) (ls : List Lane) : (s.setLanes ls).cur = s.cur := rfl
@[simp] theorem State.setLanes_held (s : State) (ls : List Lane) : (s.setLanes ls).held = s.held := rfl
@[simp] theorem State.setLanes_heldAt (s : State) (ls : List Lane) : (s.setLanes ls).heldAt = s.heldAt := rfl
@[simp] theorem State.setLanes_issueNo (s : State) (ls : List Lane) : (s.setLanes ls).issueNo = s.issueNo := rfl
@[simp] theorem State.setLanes_seqNo (s : State) (ls : List Lane) : (s.setLanes ls).seqNo = s.seqNo := rfl
@[simp] theorem State.setLanes_ticks (s : State) (ls : List Lane) : (s.setLanes ls).ticks = s.ticks := rfl
@[simp] theorem State.setLanes_now (s : State) (ls : List Lane) : (s.setLanes ls).now = s.now := rfl
@[simp] theorem State.setLanes_powered (s : State) (ls : List Lane) : (s.setLanes ls).powered = s.powered := rfl
@[simp] theorem State.setLanes_recovery (s : State) (ls : List Lane) : (s.setLanes ls).recovery = s.recovery := rfl
@[simp] theorem State.setLanes_fabricBy (s : State) (ls : List Lane) : (s.setLanes ls).fabricBy = s.fabricBy := rfl
@[simp] theorem State.setLanes_opened (s : State) (ls : List Lane) : (s.setLanes ls).opened = s.opened := rfl
@[simp] theorem State.setLanes_tm (s : State) (ls : List Lane) : (s.setLanes ls).tm = { s.tm with gp := { s.tm.gp with lanes := ls } } := rfl
@[simp] theorem State.setLanes_teams (s : State) (ls : List Lane) : (s.setLanes ls).teams = s.teams := rfl
@[simp] theorem State.setLanes_ctxs (s : State) (ls : List Lane) : (s.setLanes ls).ctxs = s.ctxs := rfl
@[simp] theorem State.setLanes_queues (s : State) (ls : List Lane) : (s.setLanes ls).queues = s.queues := rfl
@[simp] theorem State.setLanes_signals (s : State) (ls : List Lane) : (s.setLanes ls).signals = s.signals := rfl
@[simp] theorem State.setLanes_waiters (s : State) (ls : List Lane) : (s.setLanes ls).waiters = s.waiters := rfl
@[simp] theorem State.setLanes_tison (s : State) (ls : List Lane) : (s.setLanes ls).tison = s.tison := rfl
@[simp] theorem State.setLanes_disabled (s : State) (ls : List Lane) : (s.setLanes ls).disabled = s.disabled := rfl
@[simp] theorem State.setLanes_failed (s : State) (ls : List Lane) : (s.setLanes ls).failed = s.failed := rfl
@[simp] theorem State.setLanes_gated (s : State) (ls : List Lane) : (s.setLanes ls).gated = s.gated := rfl
@[simp] theorem State.setLanes_stopReq (s : State) (ls : List Lane) : (s.setLanes ls).stopReq = s.stopReq := rfl
@[simp] theorem State.setLanes_stopped (s : State) (ls : List Lane) : (s.setLanes ls).stopped = s.stopped := rfl
@[simp] theorem State.setLanes_stepping (s : State) (ls : List Lane) : (s.setLanes ls).stepping = s.stepping := rfl
@[simp] theorem State.setLanes_jobs (s : State) (ls : List Lane) : (s.setLanes ls).jobs = s.jobs := rfl
@[simp] theorem State.setLanes_copies (s : State) (ls : List Lane) : (s.setLanes ls).copies = s.copies := rfl
@[simp] theorem State.setLanes_fnLink (s : State) (ls : List Lane) : (s.setLanes ls).fnLink = s.fnLink := rfl
@[simp] theorem State.setLanes_mem (s : State) (ls : List Lane) : (s.setLanes ls).mem = s.mem := rfl
@[simp] theorem State.setLanes_scr (s : State) (ls : List Lane) : (s.setLanes ls).scr = s.scr := rfl
@[simp] theorem State.setLanes_dsp (s : State) (ls : List Lane) : (s.setLanes ls).dsp = s.dsp := rfl
@[simp] theorem State.setLanes_tcm (s : State) (ls : List Lane) : (s.setLanes ls).tcm = s.tcm := rfl
@[simp] theorem State.setLanes_absent (s : State) (ls : List Lane) : (s.setLanes ls).absent = s.absent := rfl
@[simp] theorem State.setLanes_poison (s : State) (ls : List Lane) : (s.setLanes ls).poison = s.poison := rfl
@[simp] theorem State.setLanes_stamps (s : State) (ls : List Lane) : (s.setLanes ls).stamps = s.stamps := rfl
@[simp] theorem State.setLanes_pages (s : State) (ls : List Lane) : (s.setLanes ls).pages = s.pages := rfl
@[simp] theorem State.setLanes_l1 (s : State) (ls : List Lane) : (s.setLanes ls).l1 = s.l1 := rfl
@[simp] theorem State.setLanes_scales (s : State) (ls : List Lane) : (s.setLanes ls).scales = s.scales := rfl
@[simp] theorem State.setLanes_icache (s : State) (ls : List Lane) : (s.setLanes ls).icache = s.icache := rfl
@[simp] theorem State.setLanes_tlb (s : State) (ls : List Lane) : (s.setLanes ls).tlb = s.tlb := rfl
@[simp] theorem State.setLanes_slotPages (s : State) (ls : List Lane) : (s.setLanes ls).slotPages = s.slotPages := rfl
@[simp] theorem State.setLanes_hostBias (s : State) (ls : List Lane) : (s.setLanes ls).hostBias = s.hostBias := rfl
@[simp] theorem State.setLanes_flipping (s : State) (ls : List Lane) : (s.setLanes ls).flipping = s.flipping := rfl
@[simp] theorem State.setLanes_biasJobs (s : State) (ls : List Lane) : (s.setLanes ls).biasJobs = s.biasJobs := rfl
@[simp] theorem State.setLanes_ops (s : State) (ls : List Lane) : (s.setLanes ls).ops = s.ops := rfl
@[simp] theorem State.setLanes_poolOps (s : State) (ls : List Lane) : (s.setLanes ls).poolOps = s.poolOps := rfl
@[simp] theorem State.setLanes_posted (s : State) (ls : List Lane) : (s.setLanes ls).posted = s.posted := rfl
@[simp] theorem State.setLanes_wqs (s : State) (ls : List Lane) : (s.setLanes ls).wqs = s.wqs := rfl
@[simp] theorem State.setLanes_hlinks (s : State) (ls : List Lane) : (s.setLanes ls).hlinks = s.hlinks := rfl
@[simp] theorem State.setLanes_flinks (s : State) (ls : List Lane) : (s.setLanes ls).flinks = s.flinks := rfl
@[simp] theorem State.setLanes_sessions (s : State) (ls : List Lane) : (s.setLanes ls).sessions = s.sessions := rfl
@[simp] theorem State.setLanes_hostRead (s : State) (ls : List Lane) : (s.setLanes ls).hostRead = s.hostRead := rfl
@[simp] theorem State.setLanes_islands (s : State) (ls : List Lane) : (s.setLanes ls).islands = s.islands := rfl
@[simp] theorem State.setLanes_cycles (s : State) (ls : List Lane) : (s.setLanes ls).cycles = s.cycles := rfl
@[simp] theorem State.setLanes_rack (s : State) (ls : List Lane) : (s.setLanes ls).rack = s.rack := rfl
@[simp] theorem State.setLanes_trace (s : State) (ls : List Lane) : (s.setLanes ls).trace = s.trace := rfl
@[simp] theorem State.setLanes_traceq (s : State) (ls : List Lane) : (s.setLanes ls).traceq = s.traceq := rfl
@[simp] theorem State.setLanes_dbgLog (s : State) (ls : List Lane) : (s.setLanes ls).dbgLog = s.dbgLog := rfl
@[simp] theorem State.setLanes_snap (s : State) (ls : List Lane) : (s.setLanes ls).snap = s.snap := rfl
@[simp] theorem State.setLanes_snapSource (s : State) (ls : List Lane) : (s.setLanes ls).snapSource = s.snapSource := rfl
@[simp] theorem State.setLanes_snapTime (s : State) (ls : List Lane) : (s.setLanes ls).snapTime = s.snapTime := rfl
@[simp] theorem State.setLanes_snapDue (s : State) (ls : List Lane) : (s.setLanes ls).snapDue = s.snapDue := rfl
@[simp] theorem State.setLanes_frozen (s : State) (ls : List Lane) : (s.setLanes ls).frozen = s.frozen := rfl
@[simp] theorem State.setLanes_dbgReply (s : State) (ls : List Lane) : (s.setLanes ls).dbgReply = s.dbgReply := rfl
@[simp] theorem State.setLanes_fuses (s : State) (ls : List Lane) : (s.setLanes ls).fuses = s.fuses := rfl
@[simp] theorem State.setLanes_report (s : State) (ls : List Lane) : (s.setLanes ls).report = s.report := rfl
@[simp] theorem State.setLanes_mailbox (s : State) (ls : List Lane) : (s.setLanes ls).mailbox = s.mailbox := rfl
@[simp] theorem State.setLanes_errCount (s : State) (ls : List Lane) : (s.setLanes ls).errCount = s.errCount := rfl
@[simp] theorem State.setLanes_drops (s : State) (ls : List Lane) : (s.setLanes ls).drops = s.drops := rfl
@[simp] theorem State.setLanes_tests (s : State) (ls : List Lane) : (s.setLanes ls).tests = s.tests := rfl
@[simp] theorem State.setLanes_retired (s : State) (ls : List Lane) : (s.setLanes ls).retired = s.retired := rfl
@[simp] theorem State.setLanes_gone (s : State) (ls : List Lane) : (s.setLanes ls).gone = s.gone := rfl
@[simp] theorem State.setLanes_deadMem (s : State) (ls : List Lane) : (s.setLanes ls).deadMem = s.deadMem := rfl

@[simp] theorem State.modCtx_agenda (s : State) (c : Nat) (f : LaunchCtx → LaunchCtx) : (s.modCtx c f).agenda = s.agenda := rfl
@[simp] theorem State.modCtx_turn (s : State) (c : Nat) (f : LaunchCtx → LaunchCtx) : (s.modCtx c f).turn = s.turn := rfl
@[simp] theorem State.modCtx_cur (s : State) (c : Nat) (f : LaunchCtx → LaunchCtx) : (s.modCtx c f).cur = s.cur := rfl
@[simp] theorem State.modCtx_held (s : State) (c : Nat) (f : LaunchCtx → LaunchCtx) : (s.modCtx c f).held = s.held := rfl
@[simp] theorem State.modCtx_heldAt (s : State) (c : Nat) (f : LaunchCtx → LaunchCtx) : (s.modCtx c f).heldAt = s.heldAt := rfl
@[simp] theorem State.modCtx_issueNo (s : State) (c : Nat) (f : LaunchCtx → LaunchCtx) : (s.modCtx c f).issueNo = s.issueNo := rfl
@[simp] theorem State.modCtx_seqNo (s : State) (c : Nat) (f : LaunchCtx → LaunchCtx) : (s.modCtx c f).seqNo = s.seqNo := rfl
@[simp] theorem State.modCtx_ticks (s : State) (c : Nat) (f : LaunchCtx → LaunchCtx) : (s.modCtx c f).ticks = s.ticks := rfl
@[simp] theorem State.modCtx_now (s : State) (c : Nat) (f : LaunchCtx → LaunchCtx) : (s.modCtx c f).now = s.now := rfl
@[simp] theorem State.modCtx_powered (s : State) (c : Nat) (f : LaunchCtx → LaunchCtx) : (s.modCtx c f).powered = s.powered := rfl
@[simp] theorem State.modCtx_recovery (s : State) (c : Nat) (f : LaunchCtx → LaunchCtx) : (s.modCtx c f).recovery = s.recovery := rfl
@[simp] theorem State.modCtx_fabricBy (s : State) (c : Nat) (f : LaunchCtx → LaunchCtx) : (s.modCtx c f).fabricBy = s.fabricBy := rfl
@[simp] theorem State.modCtx_opened (s : State) (c : Nat) (f : LaunchCtx → LaunchCtx) : (s.modCtx c f).opened = s.opened := rfl
@[simp] theorem State.modCtx_tm (s : State) (c : Nat) (f : LaunchCtx → LaunchCtx) : (s.modCtx c f).tm = s.tm := rfl
@[simp] theorem State.modCtx_teams (s : State) (c : Nat) (f : LaunchCtx → LaunchCtx) : (s.modCtx c f).teams = s.teams := rfl
@[simp] theorem State.modCtx_ctxs (s : State) (c : Nat) (f : LaunchCtx → LaunchCtx) : (s.modCtx c f).ctxs = s.ctxs.modify c f := rfl
@[simp] theorem State.modCtx_queues (s : State) (c : Nat) (f : LaunchCtx → LaunchCtx) : (s.modCtx c f).queues = s.queues := rfl
@[simp] theorem State.modCtx_signals (s : State) (c : Nat) (f : LaunchCtx → LaunchCtx) : (s.modCtx c f).signals = s.signals := rfl
@[simp] theorem State.modCtx_waiters (s : State) (c : Nat) (f : LaunchCtx → LaunchCtx) : (s.modCtx c f).waiters = s.waiters := rfl
@[simp] theorem State.modCtx_tison (s : State) (c : Nat) (f : LaunchCtx → LaunchCtx) : (s.modCtx c f).tison = s.tison := rfl
@[simp] theorem State.modCtx_disabled (s : State) (c : Nat) (f : LaunchCtx → LaunchCtx) : (s.modCtx c f).disabled = s.disabled := rfl
@[simp] theorem State.modCtx_failed (s : State) (c : Nat) (f : LaunchCtx → LaunchCtx) : (s.modCtx c f).failed = s.failed := rfl
@[simp] theorem State.modCtx_gated (s : State) (c : Nat) (f : LaunchCtx → LaunchCtx) : (s.modCtx c f).gated = s.gated := rfl
@[simp] theorem State.modCtx_stopReq (s : State) (c : Nat) (f : LaunchCtx → LaunchCtx) : (s.modCtx c f).stopReq = s.stopReq := rfl
@[simp] theorem State.modCtx_stopped (s : State) (c : Nat) (f : LaunchCtx → LaunchCtx) : (s.modCtx c f).stopped = s.stopped := rfl
@[simp] theorem State.modCtx_stepping (s : State) (c : Nat) (f : LaunchCtx → LaunchCtx) : (s.modCtx c f).stepping = s.stepping := rfl
@[simp] theorem State.modCtx_jobs (s : State) (c : Nat) (f : LaunchCtx → LaunchCtx) : (s.modCtx c f).jobs = s.jobs := rfl
@[simp] theorem State.modCtx_copies (s : State) (c : Nat) (f : LaunchCtx → LaunchCtx) : (s.modCtx c f).copies = s.copies := rfl
@[simp] theorem State.modCtx_fnLink (s : State) (c : Nat) (f : LaunchCtx → LaunchCtx) : (s.modCtx c f).fnLink = s.fnLink := rfl
@[simp] theorem State.modCtx_mem (s : State) (c : Nat) (f : LaunchCtx → LaunchCtx) : (s.modCtx c f).mem = s.mem := rfl
@[simp] theorem State.modCtx_scr (s : State) (c : Nat) (f : LaunchCtx → LaunchCtx) : (s.modCtx c f).scr = s.scr := rfl
@[simp] theorem State.modCtx_dsp (s : State) (c : Nat) (f : LaunchCtx → LaunchCtx) : (s.modCtx c f).dsp = s.dsp := rfl
@[simp] theorem State.modCtx_tcm (s : State) (c : Nat) (f : LaunchCtx → LaunchCtx) : (s.modCtx c f).tcm = s.tcm := rfl
@[simp] theorem State.modCtx_absent (s : State) (c : Nat) (f : LaunchCtx → LaunchCtx) : (s.modCtx c f).absent = s.absent := rfl
@[simp] theorem State.modCtx_poison (s : State) (c : Nat) (f : LaunchCtx → LaunchCtx) : (s.modCtx c f).poison = s.poison := rfl
@[simp] theorem State.modCtx_stamps (s : State) (c : Nat) (f : LaunchCtx → LaunchCtx) : (s.modCtx c f).stamps = s.stamps := rfl
@[simp] theorem State.modCtx_pages (s : State) (c : Nat) (f : LaunchCtx → LaunchCtx) : (s.modCtx c f).pages = s.pages := rfl
@[simp] theorem State.modCtx_l1 (s : State) (c : Nat) (f : LaunchCtx → LaunchCtx) : (s.modCtx c f).l1 = s.l1 := rfl
@[simp] theorem State.modCtx_scales (s : State) (c : Nat) (f : LaunchCtx → LaunchCtx) : (s.modCtx c f).scales = s.scales := rfl
@[simp] theorem State.modCtx_icache (s : State) (c : Nat) (f : LaunchCtx → LaunchCtx) : (s.modCtx c f).icache = s.icache := rfl
@[simp] theorem State.modCtx_tlb (s : State) (c : Nat) (f : LaunchCtx → LaunchCtx) : (s.modCtx c f).tlb = s.tlb := rfl
@[simp] theorem State.modCtx_slotPages (s : State) (c : Nat) (f : LaunchCtx → LaunchCtx) : (s.modCtx c f).slotPages = s.slotPages := rfl
@[simp] theorem State.modCtx_hostBias (s : State) (c : Nat) (f : LaunchCtx → LaunchCtx) : (s.modCtx c f).hostBias = s.hostBias := rfl
@[simp] theorem State.modCtx_flipping (s : State) (c : Nat) (f : LaunchCtx → LaunchCtx) : (s.modCtx c f).flipping = s.flipping := rfl
@[simp] theorem State.modCtx_biasJobs (s : State) (c : Nat) (f : LaunchCtx → LaunchCtx) : (s.modCtx c f).biasJobs = s.biasJobs := rfl
@[simp] theorem State.modCtx_ops (s : State) (c : Nat) (f : LaunchCtx → LaunchCtx) : (s.modCtx c f).ops = s.ops := rfl
@[simp] theorem State.modCtx_poolOps (s : State) (c : Nat) (f : LaunchCtx → LaunchCtx) : (s.modCtx c f).poolOps = s.poolOps := rfl
@[simp] theorem State.modCtx_posted (s : State) (c : Nat) (f : LaunchCtx → LaunchCtx) : (s.modCtx c f).posted = s.posted := rfl
@[simp] theorem State.modCtx_wqs (s : State) (c : Nat) (f : LaunchCtx → LaunchCtx) : (s.modCtx c f).wqs = s.wqs := rfl
@[simp] theorem State.modCtx_hlinks (s : State) (c : Nat) (f : LaunchCtx → LaunchCtx) : (s.modCtx c f).hlinks = s.hlinks := rfl
@[simp] theorem State.modCtx_flinks (s : State) (c : Nat) (f : LaunchCtx → LaunchCtx) : (s.modCtx c f).flinks = s.flinks := rfl
@[simp] theorem State.modCtx_sessions (s : State) (c : Nat) (f : LaunchCtx → LaunchCtx) : (s.modCtx c f).sessions = s.sessions := rfl
@[simp] theorem State.modCtx_hostRead (s : State) (c : Nat) (f : LaunchCtx → LaunchCtx) : (s.modCtx c f).hostRead = s.hostRead := rfl
@[simp] theorem State.modCtx_islands (s : State) (c : Nat) (f : LaunchCtx → LaunchCtx) : (s.modCtx c f).islands = s.islands := rfl
@[simp] theorem State.modCtx_cycles (s : State) (c : Nat) (f : LaunchCtx → LaunchCtx) : (s.modCtx c f).cycles = s.cycles := rfl
@[simp] theorem State.modCtx_rack (s : State) (c : Nat) (f : LaunchCtx → LaunchCtx) : (s.modCtx c f).rack = s.rack := rfl
@[simp] theorem State.modCtx_trace (s : State) (c : Nat) (f : LaunchCtx → LaunchCtx) : (s.modCtx c f).trace = s.trace := rfl
@[simp] theorem State.modCtx_traceq (s : State) (c : Nat) (f : LaunchCtx → LaunchCtx) : (s.modCtx c f).traceq = s.traceq := rfl
@[simp] theorem State.modCtx_dbgLog (s : State) (c : Nat) (f : LaunchCtx → LaunchCtx) : (s.modCtx c f).dbgLog = s.dbgLog := rfl
@[simp] theorem State.modCtx_snap (s : State) (c : Nat) (f : LaunchCtx → LaunchCtx) : (s.modCtx c f).snap = s.snap := rfl
@[simp] theorem State.modCtx_snapSource (s : State) (c : Nat) (f : LaunchCtx → LaunchCtx) : (s.modCtx c f).snapSource = s.snapSource := rfl
@[simp] theorem State.modCtx_snapTime (s : State) (c : Nat) (f : LaunchCtx → LaunchCtx) : (s.modCtx c f).snapTime = s.snapTime := rfl
@[simp] theorem State.modCtx_snapDue (s : State) (c : Nat) (f : LaunchCtx → LaunchCtx) : (s.modCtx c f).snapDue = s.snapDue := rfl
@[simp] theorem State.modCtx_frozen (s : State) (c : Nat) (f : LaunchCtx → LaunchCtx) : (s.modCtx c f).frozen = s.frozen := rfl
@[simp] theorem State.modCtx_dbgReply (s : State) (c : Nat) (f : LaunchCtx → LaunchCtx) : (s.modCtx c f).dbgReply = s.dbgReply := rfl
@[simp] theorem State.modCtx_fuses (s : State) (c : Nat) (f : LaunchCtx → LaunchCtx) : (s.modCtx c f).fuses = s.fuses := rfl
@[simp] theorem State.modCtx_report (s : State) (c : Nat) (f : LaunchCtx → LaunchCtx) : (s.modCtx c f).report = s.report := rfl
@[simp] theorem State.modCtx_mailbox (s : State) (c : Nat) (f : LaunchCtx → LaunchCtx) : (s.modCtx c f).mailbox = s.mailbox := rfl
@[simp] theorem State.modCtx_errCount (s : State) (c : Nat) (f : LaunchCtx → LaunchCtx) : (s.modCtx c f).errCount = s.errCount := rfl
@[simp] theorem State.modCtx_drops (s : State) (c : Nat) (f : LaunchCtx → LaunchCtx) : (s.modCtx c f).drops = s.drops := rfl
@[simp] theorem State.modCtx_tests (s : State) (c : Nat) (f : LaunchCtx → LaunchCtx) : (s.modCtx c f).tests = s.tests := rfl
@[simp] theorem State.modCtx_retired (s : State) (c : Nat) (f : LaunchCtx → LaunchCtx) : (s.modCtx c f).retired = s.retired := rfl
@[simp] theorem State.modCtx_gone (s : State) (c : Nat) (f : LaunchCtx → LaunchCtx) : (s.modCtx c f).gone = s.gone := rfl
@[simp] theorem State.modCtx_deadMem (s : State) (c : Nat) (f : LaunchCtx → LaunchCtx) : (s.modCtx c f).deadMem = s.deadMem := rfl

end Sys2Proof.Machine
end

