-- ==== Sys2Proof/Laws/Lane.lean ====
section
/-!
SUPPORT. What the shared operations of the lane stream do, once each: issuing, awaiting loads, popping and pushing, the end of an
instruction. A caller cites these and never unfolds the operation.
-/
namespace Sys2Proof.Machine

/-! ### A relation that composes -/

/-- `t` follows from `s` by changing each active lane by `fl` and the fragment's registers by `ff`, at the same pc. -/
structure Acts (s t : State) (fl : LaneRegs → LaneRegs) (ff : FragRegs → FragRegs) : Prop where
  lanes  : LanesBy s t fl
  frag   : t.fr.regs = ff s.fr.regs
  pc     : t.fr.pc = s.fr.pc
  replay : t.fr.replay = s.fr.replay
  sslots : t.gp.sslots = s.gp.sslots
  bytes  : SameBytes s t
  team   : SameTeam s t
  module : SameModule s t

theorem SameBytes.trans {s t u : State} (h : SameBytes s t) (k : SameBytes t u) : SameBytes s u :=
  fun sp a => (k sp a).trans (h sp a)

theorem SameModule.trans {s t u : State} (h : SameModule s t) (k : SameModule t u) : SameModule s u := by
  exact Eq.trans k h

theorem SameTeam.trans {s t u : State} (h : SameTeam s t) (k : SameTeam t u) : SameTeam s u := by
  obtain ⟨a1, a2, a3, a4, a5, a6⟩ := h
  obtain ⟨b1, b2, b3, b4, b5, b6⟩ := k
  exact ⟨b1.trans a1, b2.trans a2, b3.trans a3, b4.trans a4, b5.trans a5, b6.trans a6⟩

/-- A change of lane registers keeps a lane's place. -/
def KeepsIx (fl : LaneRegs → LaneRegs) : Prop := ∀ l, (fl l).ix = l.ix

/-- A change of a fragment's registers keeps its mask. -/
def KeepsMask (ff : FragRegs → FragRegs) : Prop := ∀ r, (ff r).mask = r.mask

theorem lanesBy_iff {s t : State} {fl : LaneRegs → LaneRegs} :
    LanesBy s t fl ↔ t.gp.lanes.map Lane.regs =
      (s.gp.lanes.map Lane.regs).map fun r => if inMask s.fr.mask r.ix then fl r else r := by
  simp only [LanesBy, List.map_map]
  rfl

theorem lanesBy_id {s t : State} (h : t.gp.lanes.map Lane.regs = s.gp.lanes.map Lane.regs) : LanesBy s t id := by
  rw [lanesBy_iff, h]
  simp

theorem Acts.mask {s t : State} {fl ff} (h : Acts s t fl ff) (hm : KeepsMask ff) : t.fr.mask = s.fr.mask := by
  have := congrArg FragRegs.mask h.frag
  rw [hm] at this
  exact this

theorem Acts.trans {s t u : State} {fl gl : LaneRegs → LaneRegs} {ff gf : FragRegs → FragRegs} (h : Acts s t fl ff)
    (k : Acts t u gl gf) (hi : KeepsIx fl) (hm : KeepsMask ff) : Acts s u (gl ∘ fl) (gf ∘ ff) where
  lanes := by
    have hmask := h.mask hm
    have h1 := lanesBy_iff.1 h.lanes
    have h2 := lanesBy_iff.1 k.lanes
    rw [lanesBy_iff, h2, h1, List.map_map]
    apply List.map_congr_left
    intro r _
    simp only [Function.comp_apply, hmask]
    by_cases hr : inMask s.fr.mask r.ix
    · simp [hr, hi r]
    · simp [hr]
  frag := by rw [k.frag, h.frag]; rfl
  pc := k.pc.trans h.pc
  replay := k.replay.trans h.replay
  sslots := k.sslots.trans h.sslots
  bytes := h.bytes.trans k.bytes
  team := h.team.trans k.team
  module := h.module.trans k.module

theorem Acts.refl (s : State) : Acts s s id id where
  lanes := lanesBy_id rfl
  frag := rfl
  pc := rfl
  replay := rfl
  sslots := rfl
  bytes := fun _ _ => rfl
  team := ⟨rfl, rfl, rfl, rfl, rfl, rfl⟩
  module := rfl

/-! ### Masks and lanes -/

theorem active_eq (s : State) : s.active = s.gp.lanes.filter fun l => inMask s.fr.mask l.ix := rfl

/-- A lookup in a list made from the active lanes finds a lane's own value. -/
theorem lookup_lanes {α : Type} (ls : List Lane) (p : Lane → Bool) (f : Lane → α) (hn : (ls.map Lane.ix).Nodup) (l : Lane)
    (hl : l ∈ ls) (hp : p l = true) : ((ls.filter p).map fun x => (x.ix, f x)).lookup l.ix = some (f l) := by
  induction ls with
  | nil => cases hl
  | cons x xs ih =>
    simp only [List.map_cons, List.nodup_cons] at hn
    rcases List.mem_cons.1 hl with rfl | h
    · simp [hp]
    · have hne : (l.ix == x.ix) = false := by
        rw [beq_eq_false_iff_ne]
        intro he
        exact hn.1 (he ▸ List.mem_map_of_mem h)
      by_cases hx : p x = true
      · simp [hx, List.lookup, hne, ih hn.2 h]
      · simp [hx, ih hn.2 h]

theorem lanesOk_nodup {s : State} (h : s.LanesOk) : (s.gp.lanes.map Lane.ix).Nodup := by
  rw [State.LanesOk] at h
  rw [h]
  exact List.nodup_range

theorem map_ix_of_regs {ls ms : List Lane} (h : ls.map Lane.regs = ms.map Lane.regs) : ls.map Lane.ix = ms.map Lane.ix := by
  have := congrArg (List.map LaneRegs.ix) h
  simpa [List.map_map, Function.comp_def, Lane.regs] using this

theorem Acts.lanesOk {s t : State} {fl ff} (h : Acts s t fl ff) (hi : KeepsIx fl) (ho : s.LanesOk) : t.LanesOk := by
  have h1 := congrArg (List.map LaneRegs.ix) (lanesBy_iff.1 h.lanes)
  rw [State.LanesOk, ← ho]
  simp only [List.map_map] at h1
  have e : ∀ (ls : List Lane), ls.map Lane.ix = ls.map (LaneRegs.ix ∘ Lane.regs) := fun _ => rfl
  rw [e, h1]
  apply List.map_congr_left
  intro l _
  simp only [Function.comp_apply]
  split
  · exact hi _
  · rfl

/-! ### Awaiting loads (R85) -/

theorem vals_arrived (id : Nat) (es : List Entry) : vals (es.map (Entry.arrived id)) = vals es := by
  simp only [vals, List.map_map]
  apply List.map_congr_left
  intro e _
  simp only [Function.comp_apply, Entry.arrived]
  split <;> rfl

theorem Group.arrived_regs (id : Nat) (g : Group) : (Group.arrived id g).regs = g.regs := by
  simp only [Group.regs, Group.arrived, List.map_map, GroupRegs.mk.injEq, true_and, and_true]
  refine ⟨?_, ?_, ?_⟩
  · apply List.map_congr_left
    intro l _
    simp [Lane.regs, vals_arrived]
  · simp [Frag.regs, vals_arrived]
  · apply List.map_congr_left
    intro f _
    simp [Frag.regs, vals_arrived]

/-- Two teams that show the same, at the same pc. -/
structure Alike (t u : Team) : Prop where
  regs : u.regs = t.regs
  gs   : u.gs.map Group.regs = t.gs.map Group.regs
  gp   : u.gp.regs = t.gp.regs
  pc   : u.gp.fr.pc = t.gp.fr.pc
  replay : u.gp.fr.replay = t.gp.fr.replay
  lost : u.gp.lost = t.gp.lost
  seamrel : u.gp.seamrel = t.gp.seamrel

theorem Team.arrived_alike (id : Nat) (t : Team) : Alike t (t.arrived id) where
  regs := rfl
  gs := by
    simp only [Team.arrived, Team.mapGroups, List.map_map]
    apply List.map_congr_left
    intro g _
    exact Group.arrived_regs id g
  gp := Group.arrived_regs id t.gp
  pc := rfl
  replay := rfl
  lost := rfl
  seamrel := rfl

theorem Alike.trans {t u v : Team} (h : Alike t u) (k : Alike u v) : Alike t v :=
  ⟨k.regs.trans h.regs, k.gs.trans h.gs, k.gp.trans h.gp, k.pc.trans h.pc, k.replay.trans h.replay,
    k.lost.trans h.lost, k.seamrel.trans h.seamrel⟩

/-- Replacing the team by one that shows the same changes nothing that a program sees. -/
theorem Alike.acts {s : State} {u : Team} (h : Alike s.tm u) : Acts s (s.setTm u) id id where
  lanes := lanesBy_id (congrArg GroupRegs.lanes h.gp)
  frag := congrArg GroupRegs.fr h.gp
  pc := h.pc
  replay := h.replay
  sslots := congrArg GroupRegs.sslots h.gp
  bytes := fun _ _ => rfl
  team := ⟨h.regs, h.gs, congrArg GroupRegs.frs h.gp, congrArg GroupRegs.seams h.gp, h.lost, h.seamrel⟩
  module := rfl

theorem arriveAll_acts (ids : List Nat) (s : State) : Acts s (s.arriveAll ids) id id := by
  induction ids generalizing s with
  | nil => exact Acts.refl s
  | cons i is ih =>
    have h1 : Acts s (s.setTm (s.tm.arrived i)) id id := (Team.arrived_alike i s.tm).acts
    exact h1.trans (ih _) (fun _ => rfl) (fun _ => rfl)

/-! ### Popping and pushing (R83) -/

theorem mapActive_acts (s : State) (f : Lane → Lane) (fl : LaneRegs → LaneRegs)
    (h : ∀ l ∈ s.active, (f l).regs = fl l.regs) : Acts s (s.mapActive f) fl id where
  lanes := by
    simp only [LanesBy, State.mapActive, State.gp, State.setLanes_tm, List.map_map]
    apply List.map_congr_left
    intro l hl
    simp only [Function.comp_apply]
    by_cases hm : inMask s.fr.mask l.ix
    · rw [if_pos hm, if_pos hm]
      exact h l (List.mem_filter.2 ⟨hl, hm⟩)
    · rw [if_neg hm, if_neg hm]
  frag := rfl
  pc := rfl
  replay := rfl
  sslots := rfl
  bytes := fun _ _ => rfl
  team := ⟨rfl, rfl, rfl, rfl, rfl, rfl⟩
  module := rfl

theorem countUnit_acts (s : State) (w : Bool) : Acts s (s.countUnit w) id id where
  lanes := lanesBy_id rfl
  frag := rfl
  pc := rfl
  replay := rfl
  sslots := rfl
  bytes := fun _ _ => rfl
  team := ⟨rfl, rfl, rfl, rfl, rfl, rfl⟩
  module := rfl

theorem popOne_regs (l : Lane) : l.popOne.1.regs = { l.regs with stk := l.regs.stk.tail } := by
  simp only [Lane.popOne]
  split <;> simp [Lane.regs, vals, List.map_tail]

theorem pushOne_regs (l : Lane) (e : Entry) : (l.pushOne e).1.regs = { l.regs with stk := e.val :: l.regs.stk } := by
  simp only [Lane.pushOne]
  split <;> simp [Lane.regs, vals]

theorem popEvent_acts (s : State) : Acts s s.popEvent (fun r => { r with stk := r.stk.tail }) id := by
  have h := mapActive_acts s (fun l => l.popOne.1) (fun r => { r with stk := r.stk.tail }) (fun l _ => popOne_regs l)
  simp only [State.popEvent]
  split
  · exact h.trans (countUnit_acts _ _) (fun _ => rfl) (fun _ => rfl)
  · exact h

theorem popLanes_acts (n : Nat) (s : State) : Acts s (s.popLanes n) (fun r => { r with stk := r.stk.drop n }) id := by
  induction n generalizing s with
  | zero => exact Acts.refl s
  | succ n ih =>
    have := (popEvent_acts s).trans (ih s.popEvent) (fun _ => rfl) (fun _ => rfl)
    refine cast ?_ this
    congr 1
    funext r
    simp

theorem pushEvent_acts (s : State) (e : Nat → Entry) :
    Acts s (s.pushEvent e) (fun r => { r with stk := (e r.ix).val :: r.stk }) id := by
  have h := mapActive_acts s (fun l => (l.pushOne (e l.ix)).1) (fun r => { r with stk := (e r.ix).val :: r.stk })
    (fun l _ => pushOne_regs l _)
  simp only [State.pushEvent]
  split
  · exact h
  · exact (h.trans (countUnit_acts _ _) (fun _ => rfl) (fun _ => rfl)).trans (arriveAll_acts _ _) (fun _ => rfl) (fun _ => rfl)

/-- The entries that a list of results pushes on a lane's stack, from the `k`-th on. -/
def pushed (res : List (Nat × List Entry)) : Nat → Nat → Nat → List Word → List Word
  | 0, _, _, stk => stk
  | m + 1, k, ix, stk => pushed res m (k + 1) ix ((((res.lookup ix).getD []).getD k (Entry.plain 0)).val :: stk)

theorem pushLanes_acts (res : List (Nat × List Entry)) (m k : Nat) (s : State) :
    Acts s (s.pushLanes res m k) (fun r => { r with stk := pushed res m k r.ix r.stk }) id := by
  induction m generalizing s k with
  | zero => exact Acts.refl s
  | succ m ih => exact (pushEvent_acts s _).trans (ih (k + 1) _) (fun _ => rfl) (fun _ => rfl)

theorem pushed_eq (res : List (Nat × List Entry)) (es : List Entry) (ix : Nat) (h : res.lookup ix = some es) :
    ∀ m k stk, m + k = es.length → pushed res m k ix stk = (vals (es.drop k)).reverse ++ stk := by
  intro m
  induction m with
  | zero => intro k stk hk; simp [pushed, vals, List.drop_of_length_le (by omega : es.length ≤ k)]
  | succ m ih =>
    intro k stk hk
    have hk' : k < es.length := by omega
    rw [pushed, ih (k + 1) _ (by omega), h]
    have hd : es.drop k = es[k] :: es.drop (k + 1) := List.drop_eq_getElem_cons hk'
    rw [hd]
    have he : (((some es).getD []).getD k (Entry.plain 0)) = es[k] := by
      simp [List.getD_eq_getElem?_getD, hk']
    rw [he]
    simp only [vals, List.map_cons, List.reverse_cons, List.append_assoc, List.singleton_append]

theorem replaceLanes_acts (s : State) (n m : Nat) (f : Lane → List Entry) (g : LaneRegs → List Word) (ho : s.LanesOk)
    (h : ∀ l ∈ s.active, vals (f l) = g l.regs ∧ (f l).length = m) :
    Acts s (s.replaceLanes n m f) (fun r => { r with stk := (g r).reverse ++ r.stk.drop n }) id := by
  let res := s.active.map fun l => (l.ix, f l)
  have h1 := (popLanes_acts n s).trans (pushLanes_acts res m 0 (s.popLanes n)) (fun _ => rfl) (fun _ => rfl)
  refine { h1 with lanes := ?_ }
  have := h1.lanes
  simp only [LanesBy] at this ⊢
  rw [State.replaceLanes, this]
  apply List.map_congr_left
  intro l hl
  by_cases hm : inMask s.fr.mask l.ix
  · have hla : l ∈ s.active := List.mem_filter.2 ⟨hl, hm⟩
    have hres : res.lookup l.ix = some (f l) := lookup_lanes _ _ f (lanesOk_nodup ho) l hl hm
    simp only [hm, if_true, Function.comp_apply]
    have := pushed_eq res (f l) l.ix hres m 0 (l.regs.stk.drop n) (by rw [(h l hla).2]; rfl)
    simp only [List.drop_zero] at this
    rw [show l.regs.ix = l.ix from rfl, this, (h l hla).1]
  · simp [hm]

theorem replaceScalar_acts (s : State) (n : Nat) (es : List Entry) :
    Acts s (s.replaceScalar n es) id (fun r => { r with sstk := (vals es).reverse ++ r.sstk.drop n }) := by
  have key : ∀ (b : Bool), Acts s ((s.setFr { s.fr with sstk := es.reverse ++ s.fr.sstk.drop n }).setGp
      { (s.setFr { s.fr with sstk := es.reverse ++ s.fr.sstk.drop n }).gp with sspill := b }) id
      (fun r => { r with sstk := (vals es).reverse ++ r.sstk.drop n }) := fun b =>
    { lanes := lanesBy_id rfl
      frag := by
        show Frag.regs { s.fr with sstk := es.reverse ++ s.fr.sstk.drop n } = _
        simp [Frag.regs, vals, List.map_drop]
      pc := rfl, replay := rfl, sslots := rfl, bytes := fun _ _ => rfl, team := ⟨rfl, rfl, rfl, rfl, rfl, rfl⟩
      module := rfl }
  simp only [State.replaceScalar]
  split
  · exact key true
  · exact key s.gp.sspill

/-! ### Issue (R89, R91) -/

theorem Acts.congr {s t : State} {fl gl : LaneRegs → LaneRegs} {ff : FragRegs → FragRegs} (h : Acts s t fl ff)
    (he : ∀ l ∈ s.active, fl l.regs = gl l.regs) : Acts s t gl ff := by
  refine { h with lanes := ?_ }
  have := h.lanes
  simp only [LanesBy] at this ⊢
  rw [this]
  apply List.map_congr_left
  intro l hl
  by_cases hm : inMask s.fr.mask l.ix
  · simp only [hm, if_true]
    exact he l (List.mem_filter.2 ⟨hl, hm⟩)
  · simp [hm]

theorem mapActive_active (s : State) (f : Lane → Lane) (hf : ∀ l, (f l).ix = l.ix) : (s.mapActive f).active = s.active.map f := by
  show List.filter (fun l => inMask s.fr.mask l.ix) (s.gp.lanes.map fun l => if inMask s.fr.mask l.ix then f l else l) = _
  rw [active_eq]
  induction s.gp.lanes with
  | nil => rfl
  | cons l ls ih =>
    by_cases hm : inMask s.fr.mask l.ix
    · simp [hm, hf, ih]
    · simp [hm, ih]

/-- A fragment as it issues. -/
def State.issuingFr (s : State) : Frag := { s.fr.turn (s.seqNo + 1) with lastIssue := s.seqNo + 1, passed := 0, promoted := false }

/-- A state as its fragment issues, before the lanes count it. -/
def State.issuing (s : State) : State := State.setFr { s.owe with seqNo := s.seqNo + 1, issueNo := s.issueNo + 1 } s.issuingFr

/-- A lane counts an issue. -/
def Lane.bump (l : Lane) : Lane := { l with issued := l.issued + 1 }

theorem issue_eq (s : State) (h : s.Fresh) : s.issue = s.issuing.mapActive Lane.bump := by
  have hc : s.fr.issues = true := by rw [Frag.issues, Frag.fresh, h.1, h.2.1]; rfl
  simp only [State.issue]
  rw [if_pos hc]
  rfl

theorem owe_ctxs (s : State) : s.owe.ctxs.map LaunchCtx.still = s.ctxs.map LaunchCtx.still := by
  apply List.ext_getElem?
  intro i
  simp only [State.owe, List.getElem?_map, List.getElem?_mapIdx, Option.map_map]
  rfl

theorem owe_module (s : State) : s.owe.moduleRegs = s.moduleRegs := by
  have h := owe_ctxs s
  have e : s.owe.moduleRegs = { s.moduleRegs with ctxs := s.owe.ctxs.map LaunchCtx.still } := rfl
  rw [e, h]
  rfl

theorem issuing_wait (s : State) (h : s.Fresh) : s.issuingFr.wait = s.fr.wait := by
  simp [State.issuingFr, Frag.turn, h.1, Wait.unissued]

theorem issuing_acts (s : State) (h : s.Fresh) : Acts s s.issuing id id where
  lanes := lanesBy_id rfl
  frag := by
    show Frag.regs s.issuingFr = Frag.regs s.fr
    simp only [Frag.regs, issuing_wait s h]
    rfl
  pc := rfl
  replay := by
    show s.fr.replay.map Replay.issued = s.fr.replay
    rw [h.2.1]
    rfl
  sslots := rfl
  bytes := fun _ _ => rfl
  team := ⟨rfl, rfl, rfl, rfl, rfl, rfl⟩
  module := owe_module s

theorem issue_acts (s : State) (h : s.Fresh) : Acts s s.issue id id := by
  rw [issue_eq s h]
  exact (issuing_acts s h).trans (mapActive_acts _ Lane.bump id fun _ _ => rfl) (fun _ => rfl) (fun _ => rfl)

theorem issue_active (s : State) (h : s.Fresh) : s.issue.active = s.active.map Lane.bump := by
  rw [issue_eq s h, mapActive_active _ Lane.bump fun _ => rfl]
  rfl

theorem issue_fr (s : State) (h : s.Fresh) : s.issue.fr = s.issuingFr := by
  rw [issue_eq s h]
  rfl

theorem issue_lp (s : State) (h : s.Fresh) : s.issue.tm.lp = s.tm.lp := by
  rw [issue_eq s h]
  rfl

theorem issue_laneDepth (s : State) (h : s.Fresh) : s.issue.laneDepth = s.laneDepth := by
  simp only [State.laneDepth, issue_active s h]
  cases s.active <;> rfl

theorem issue_exempt (s : State) (h : s.Fresh) : s.issue.exempt = s.exempt := by
  simp only [State.exempt, issue_fr s h, State.issuingFr, Frag.turn]

theorem issue_stackFault (s : State) (h : s.Fresh) (l sc : Use) : s.issue.stackFault l sc = s.stackFault l sc := by
  have h1 : ∀ d, s.issue.depthOf d = s.depthOf d := by
    intro d
    cases d <;> simp [State.depthOf, issue_laneDepth s h, issue_fr s h, State.issuingFr, Frag.turn]
  have h2 : ∀ d, s.issue.entryDepth d = s.entryDepth d := by
    intro d
    cases d <;> simp [State.entryDepth, issue_fr s h, State.issuingFr, Frag.turn]
  have h3 : ∀ d, s.issue.capOf d = s.capOf d := by
    intro d
    cases d <;> simp [State.capOf, State.laneCap, issue_lp s h]
  have h4 : ∀ c i, s.issue.faultAll c i = s.faultAll c i := by
    intro c i
    simp [State.faultAll, issue_fr s h, State.issuingFr, Frag.turn]
  simp only [State.stackFault, h1, h2, h3, h4, issue_exempt s h]

theorem eccu_lane_none (s : State) (n : Nat) :
    s.eccu false n = none ↔ ∀ l ∈ s.active, ∀ e ∈ l.stk.take n, e.pois = none := by
  have h : (s.active.findSome? fun l => (l.stk.take n).findSome? (·.pois)) = none ↔
      ∀ l ∈ s.active, ∀ e ∈ l.stk.take n, e.pois = none := by simp only [List.findSome?_eq_none_iff]
  rw [← h]
  simp only [State.eccu, Bool.false_eq_true, if_false]
  cases s.active.findSome? (fun l => (l.stk.take n).findSome? (·.pois)) <;> simp

theorem eccu_scalar_none (s : State) (n : Nat) : s.eccu true n = none ↔ ∀ e ∈ s.fr.sstk.take n, e.pois = none := by
  rw [← List.findSome?_eq_none_iff]
  show (match (s.fr.sstk.take n).findSome? (·.pois) with
    | some pa => some (s.faultAll .eccu pa)
    | none => none) = none ↔ _
  cases (s.fr.sstk.take n).findSome? (·.pois) <;> simp

theorem issue_eccu (s : State) (h : s.Fresh) (d : Bool) (n : Nat) : s.issue.eccu d n = none ↔ s.eccu d n = none := by
  cases d
  · simp only [eccu_lane_none, issue_active s h, List.mem_map, forall_exists_index, and_imp, forall_apply_eq_imp_iff₂]
    rfl
  · simp only [eccu_scalar_none, issue_fr s h, State.issuingFr, Frag.turn]

theorem issue_pendingTop (s : State) (h : s.Fresh) (d : Bool) (n : Nat) : s.issue.pendingTop d n = s.pendingTop d n := by
  cases d
  · simp only [State.pendingTop, issue_active s h, Bool.false_eq_true, if_false]
    rw [List.flatMap_map]
    rfl
  · simp [State.pendingTop, issue_fr s h, State.issuingFr, Frag.turn]

/-! ### The operands (R85, R222) -/

/-- An instruction that only moves entries has its operands: it goes on at once (R132, R222). -/
theorem withStack_moves {s : State} {l sc : Use} (h : s.Operands l sc) (k : State → Res) : s.withStack l sc false k = k s := by
  simp [State.withStack, h.1]

/-- An instruction that uses its operands goes on at once when they are there (R85). -/
theorem withStack_uses {s : State} {l sc : Use} (h : s.Operands l sc) (k : State → Res) : s.withStack l sc true k = k s := by
  obtain ⟨h1, h2, h3, h4, h5⟩ := h
  simp [State.withStack, h1, h2, h3, h4, h5]

theorem issue_operands {s : State} (h : s.Fresh) {l sc : Use} (ho : s.Operands l sc) : s.issue.Operands l sc :=
  ⟨(issue_stackFault s h l sc).trans ho.1, (issue_pendingTop s h false _).trans ho.2.1, (issue_pendingTop s h true _).trans ho.2.2.1,
    (issue_eccu s h false _).2 ho.2.2.2.1, (issue_eccu s h true _).2 ho.2.2.2.2⟩

theorem operandsOf_iff {s : State} {d : Bool} {u : Use} :
    s.OperandsOf d u ↔ s.Operands (if d then Use.none else u) (if d then u else Use.none) := by
  cases d <;> rfl

/-! ### The end of an instruction (R168, R169) -/

theorem loopCheck_idle (l : List LinkEntry) (r : LoopRegs) (h : r.lc = 0) : loopCheck false l r = r := by
  have h1 : loopOnce false r = (r, false) := by simp [loopOnce, h]
  cases l with
  | nil => simp [loopCheck, h1]
  | cons e es => cases e <;> simp [loopCheck, h1]

theorem advance_fresh (f : Frag) (len : Nat) (h1 : f.wait = .none) (h2 : f.replay = none) (h3 : f.rc = 0) (h4 : f.lc = 0) :
    f.advance len = { f with pc := f.pc + BitVec.ofNat 64 len, region := { f.region with breaks := false } } := by
  have e : f.unwait = { f with region := { f.region with breaks := false } } := by
    cases f
    simp_all [Frag.unwait]
  simp only [Frag.advance, e]
  rw [if_neg (by simp [h3])]
  simp only [Frag.goOn]
  rw [loopCheck_idle _ _ (by simpa using h4)]
  cases f
  simp_all

/-- Where the body of an instruction acts by `fl` and `ff` and the fragment is still fresh, its end completes it. -/
theorem Acts.completes {s t : State} {fl : LaneRegs → LaneRegs} {ff : FragRegs → FragRegs} (h : Acts s t fl ff) (hs : s.Fresh)
    (hw : ∀ r, (ff r).wait = r.wait) (hr : ∀ r, (ff r).rc = r.rc) (hl : ∀ r, (ff r).lc = r.lc) (len : Nat) :
    Completes len s (t.finish len) fl ff := by
  have e1 : t.fr.wait = .none := by
    have := congrArg FragRegs.wait h.frag
    rw [hw] at this
    exact this.trans hs.1
  have e2 : t.fr.replay = none := h.replay.trans hs.2.1
  have e3 : t.fr.rc = 0 := by
    have := congrArg FragRegs.rc h.frag
    rw [hr] at this
    exact this.trans hs.2.2.1
  have e4 : t.fr.lc = 0 := by
    have := congrArg FragRegs.lc h.frag
    rw [hl] at this
    exact this.trans hs.2.2.2
  have hf : t.finish len = t.setFr { t.fr with
      pc := t.fr.pc + BitVec.ofNat 64 len, region := { t.fr.region with breaks := false } } := by
    rw [State.finish, advance_fresh _ _ e1 e2 e3 e4]
  refine ⟨⟨?_, ?_⟩, ?_, ?_, ?_, ?_, ?_⟩
  · rw [hf]
    show t.fr.pc + _ = _
    rw [h.pc]
  · rw [hf]
    exact h.frag
  · rw [hf]
    exact h.lanes
  · rw [hf]
    exact h.sslots
  · rw [hf]
    exact h.bytes
  · rw [hf]
    exact h.team
  · rw [hf]
    exact h.module

/-- The body of an instruction that answers a state makes the instruction answer it. -/
theorem laneStep_ok {len : Nat} {body : State → Res} {s t : State} (h : body s.issue = .ok t) : laneStep len body s = .next t := by
  simp [laneStep, State.run, h]

end Sys2Proof.Machine
end

