-- ==== Sys2Proof/Laws/Memory.lean ====
section
/-!
SUPPORT. Memory: a read after a write, and the canonical form, which every write keeps.
-/
namespace Sys2Proof.Machine

theorem memGet_memPut (m : Memory) (a : Nat) (b : Byte) (x : Nat) :
    memGet (memPut m a b) x = if x = a then b else memGet m x := by
  induction m with
  | nil => simp only [memPut, memGet]; split <;> split <;> simp_all
  | cons c cs ih =>
    simp only [memPut]
    by_cases h1 : a < c.1
    · simp only [h1, if_true, memGet]
      by_cases hx : x = a
      · simp [hx]
      · simp [hx, Ne.symm hx]
    · by_cases h2 : a = c.1
      · simp only [h1, if_false, h2, if_true, memGet]
        by_cases hx : x = c.1
        · simp [hx, memGet]
        · simp [hx, Ne.symm hx, memGet]
      · simp only [h1, h2, if_false, memGet, ih]
        by_cases hx : x = a
        · have : ¬ c.1 = x := by omega
          simp [hx, this, Ne.symm h2]
        · simp [hx]

theorem memGet_filter (m : Memory) (a x : Nat) :
    memGet (m.filter fun c => c.1 != a) x = if x = a then 0 else memGet m x := by
  induction m with
  | nil => simp [memGet]
  | cons c cs ih =>
    by_cases hc : c.1 = a <;> simp [List.filter_cons, hc, memGet, ih] <;> split_ifs <;> simp_all

/-- A byte reads as what was written to it last; every other byte reads as before. -/
theorem memGet_memSet (m : Memory) (a : Nat) (b : Byte) (x : Nat) :
    memGet (memSet m a b) x = if x = a then b else memGet m x := by
  unfold memSet
  split
  · next h => rw [memGet_filter, h]
  · exact memGet_memPut m a b x

/-- The canonical form, said of the list as a whole. -/
theorem wf_iff (m : Memory) : Memory.wf m = true ↔ m.Pairwise (fun c d => c.1 < d.1) ∧ ∀ c ∈ m, c.2 ≠ 0 := by
  induction m with
  | nil => simp [Memory.wf]
  | cons c cs ih =>
    cases cs with
    | nil => simp [Memory.wf]
    | cons d ds =>
      simp only [Memory.wf, Bool.and_eq_true, bne_iff_ne, decide_eq_true_eq, ih, List.pairwise_cons, List.mem_cons]
      constructor
      · rintro ⟨⟨h0, h1⟩, ⟨h2, h3⟩, h4⟩
        refine ⟨⟨?_, h2, h3⟩, ?_⟩
        · rintro e (rfl | he)
          · exact h1
          · exact lt_trans h1 (h2 e he)
        · rintro e (rfl | he)
          · exact h0
          · exact h4 e he
      · rintro ⟨⟨h1, h2, h3⟩, h4⟩
        exact ⟨⟨h4 c (.inl rfl), h1 d (.inl rfl)⟩, ⟨h2, h3⟩, fun e he => h4 e (.inr he)⟩

theorem mem_memPut (m : Memory) (a : Nat) (b : Byte) (c : Host.Cell) (h : c ∈ memPut m a b) : c = (a, b) ∨ c ∈ m := by
  induction m with
  | nil => simpa [memPut] using h
  | cons d ds ih =>
    simp only [memPut] at h
    split_ifs at h <;> simp only [List.mem_cons] at h ⊢
    · tauto
    · tauto
    · rcases h with h | h
      · tauto
      · rcases ih h <;> tauto

/-- A write keeps the canonical form. -/
theorem wf_memSet (m : Memory) (a : Nat) (b : Byte) (h : Memory.wf m = true) : Memory.wf (memSet m a b) = true := by
  rw [wf_iff] at h ⊢
  unfold memSet
  split
  · exact ⟨h.1.filter _, fun c hc => h.2 c (List.mem_filter.1 hc).1⟩
  · next hb =>
    constructor
    · have hp := h.1
      clear h
      induction m with
      | nil => simp [memPut]
      | cons d ds ih =>
        rw [List.pairwise_cons] at hp
        simp only [memPut]
        split_ifs with h1 h2
        · refine List.pairwise_cons.2 ⟨?_, List.pairwise_cons.2 hp⟩
          rintro e he
          rcases List.mem_cons.1 he with rfl | he
          · exact h1
          · exact lt_trans h1 (hp.1 e he)
        · exact List.pairwise_cons.2 ⟨fun e he => h2 ▸ hp.1 e he, hp.2⟩
        · refine List.pairwise_cons.2 ⟨?_, ih hp.2⟩
          intro e he
          rcases mem_memPut _ _ _ _ he with rfl | he
          · show d.1 < a; omega
          · exact hp.1 e he
    · intro c hc
      rcases mem_memPut _ _ _ _ hc with rfl | hc
      · exact hb
      · exact h.2 c hc

/-- Leaving addresses out keeps the canonical form. -/
theorem wf_filter (m : Memory) (p : Host.Cell → Bool) (h : Memory.wf m = true) : Memory.wf (m.filter p) = true := by
  rw [wf_iff] at h ⊢
  exact ⟨h.1.filter _, fun c hc => h.2 c (List.mem_filter.1 hc).1⟩

theorem wf_putByte (s : State) (sp k key : Nat) (b : Byte) (h : ∀ k, Memory.wf (s.memOf k) = true) :
    Memory.wf ((s.putByte sp key b).memOf k) = true := by
  have h' := wf_memSet _ key b (h sp)
  unfold State.putByte State.setMemOf
  split <;> unfold State.memOf at h' ⊢ <;> split <;> simp_all [State.memOf] <;>
    first | exact h 2 | exact h 4 | exact h 5 | exact h 0

/-- A write of one byte is read back, and every other byte of every space reads as before. -/
theorem byteAt_putByte_same (s : State) (sp key : Nat) (b : Byte) (x : Nat) :
    (s.putByte sp key b).byteAt sp x = if x = key then b else s.byteAt sp x := by
  unfold State.putByte State.setMemOf State.byteAt
  split <;> simp [State.memOf, memGet_memSet]

end Sys2Proof.Machine
end

