-- ==== Sys2Proof/Laws/Num.lean ====
section
/-!
SUPPORT. What a numeric instruction does (R130), and an instruction that only moves entries (R132).
-/
namespace Sys2Proof.Machine

theorem active_regs {s t : State} {fl : LaneRegs → LaneRegs} {ff : FragRegs → FragRegs} (h : Acts s t fl ff) (hi : KeepsIx fl)
    (hm : KeepsMask ff) : t.active.map Lane.regs = s.active.map fun l => fl l.regs := by
  have e1 : ∀ u : State, u.active.map Lane.regs = (u.gp.lanes.map Lane.regs).filter fun r => inMask u.fr.mask r.ix := by
    intro u
    rw [List.filter_map]
    rfl
  have h1 := lanesBy_iff.1 h.lanes
  rw [e1, h1, h.mask hm, List.filter_map]
  have e2 : ∀ r : LaneRegs, ((fun r => inMask s.fr.mask r.ix) ∘ fun r => if inMask s.fr.mask r.ix then fl r else r) r =
      inMask s.fr.mask r.ix := by
    intro r
    simp only [Function.comp_apply]
    split
    · rename_i hr
      rw [hi r]
    · rfl
  rw [List.filter_congr (fun r _ => e2 r), ← e1, List.map_map]
  apply List.map_congr_left
  intro l hl
  have := (List.mem_filter.1 hl).2
  simp only [Function.comp_apply, show l.regs.ix = l.ix from rfl, this, if_true]

theorem lead_regs (s : State) : s.lead = match s.active.map Lane.regs with
    | [] => (0, 0)
    | r :: _ => (drmOf r.lcw, r.gen) := by
  simp only [State.lead]
  cases s.active <;> rfl

theorem lead_acts {s t : State} (h : Acts s t id id) : t.lead = s.lead := by
  rw [lead_regs, lead_regs, active_regs h (fun _ => rfl) (fun _ => rfl)]
  rfl

theorem scalarArgs_acts {s t : State} (h : Acts s t id id) (n : Nat) : t.scalarArgs n = s.scalarArgs n := by
  have e : ∀ u : State, u.scalarArgs n = (u.fr.regs.sstk.take n).reverse := by
    intro u
    simp [State.scalarArgs, valsOf, argsOf, Frag.regs, vals, List.map_take]
  rw [e, e, h.frag]
  rfl

theorem valsOf_regs (n : Nat) (l : Lane) : valsOf n l.stk = (l.regs.stk.take n).reverse := by
  simp [valsOf, argsOf, Lane.regs, vals, List.map_take]

theorem head_ix {s : State} (h : s.LanesOk) (l : Lane) (ls : List Lane) (ha : s.active = l :: ls) : l.ix = lowestLane s.fr.mask := by
  have h1 : (s.gp.lanes.find? fun l => inMask s.fr.mask l.ix) = some l := by
    rw [← List.head?_filter, ← active_eq, ha]
    rfl
  have h2 : ((s.gp.lanes.map Lane.ix).find? fun i => inMask s.fr.mask i) = some l.ix := by
    rw [List.find?_map]
    show ((s.gp.lanes.find? fun l => inMask s.fr.mask l.ix)).map Lane.ix = _
    rw [h1]
    rfl
  rw [h] at h2
  simp only [lowestLane]
  simp only [inMask] at h2
  rw [h2]
  rfl

theorem active_ne {s : State} (h : s.LanesOk) (hm : s.fr.mask ≠ 0) : s.active ≠ [] := by
  intro ha
  apply hm
  apply BitVec.eq_of_getLsbD_eq
  intro i hi
  rw [active_eq, List.filter_eq_nil_iff] at ha
  have hx : i ∈ s.gp.lanes.map Lane.ix := by
    rw [h]
    exact List.mem_range.2 hi
  obtain ⟨l, hl, rfl⟩ := List.mem_map.1 hx
  have := ha l hl
  simpa [inMask] using this

theorem vals_plain (ws : List Word) : vals (ws.map Entry.plain) = ws := by
  simp [vals, Entry.plain, Function.comp_def]

theorem numLanes_acts (s : State) (n m : Nat) (f : Nat → Half → List Word → NumOut) (ho : s.LanesOk)
    (hf : ∀ drm gen ws, (f drm gen ws).vals.length = m) :
    Acts s (s.numLanes n m f) (fun l =>
      { l with stk := restack n (fun _ => (f (drmOf l.lcw) l.gen (l.stk.take n).reverse).vals) l.stk,
               lcw := orFlags l.lcw (f (drmOf l.lcw) l.gen (l.stk.take n).reverse).fl,
               gen := (f (drmOf l.lcw) l.gen (l.stk.take n).reverse).gen }) id := by
  let outs := s.active.map fun l => (l.ix, f (drmOf l.lcw) l.gen (valsOf n l.stk))
  have look : ∀ l ∈ s.active, outs.lookup l.ix = some (f (drmOf l.lcw) l.gen (l.regs.stk.take n).reverse) := by
    intro l hl
    rw [← valsOf_regs]
    exact lookup_lanes _ _ _ (lanesOk_nodup ho) l (List.mem_filter.1 hl).1 (List.mem_filter.1 hl).2
  let fl : LaneRegs → LaneRegs := fun r =>
    { r with lcw := orFlags r.lcw ((outs.lookup r.ix).getD (NumOut.pure [] r.gen)).fl,
             gen := ((outs.lookup r.ix).getD (NumOut.pure [] r.gen)).gen }
  let s1 := s.mapActive fun l => { l with lcw := orFlags l.lcw ((outs.lookup l.ix).getD (NumOut.pure [] l.gen)).fl,
                                           gen := ((outs.lookup l.ix).getD (NumOut.pure [] l.gen)).gen }
  have h1 : Acts s s1 fl id := mapActive_acts _ _ _ fun _ _ => rfl
  have a1 : s1.active = s.active.map fun l =>
      { l with lcw := orFlags l.lcw ((outs.lookup l.ix).getD (NumOut.pure [] l.gen)).fl,
               gen := ((outs.lookup l.ix).getD (NumOut.pure [] l.gen)).gen } := mapActive_active _ _ fun _ => rfl
  have o1 : s1.LanesOk := h1.lanesOk (fun _ => rfl) ho
  have h2 : Acts s1 (s.numLanes n m f) (fun r =>
      { r with stk := ((outs.lookup r.ix).getD (NumOut.pure [] 0)).vals.reverse ++ r.stk.drop n }) id := by
    refine replaceLanes_acts s1 n m _ (fun r => ((outs.lookup r.ix).getD (NumOut.pure [] 0)).vals) o1 ?_
    intro l hl
    rw [a1] at hl
    obtain ⟨x, hx, rfl⟩ := List.mem_map.1 hl
    constructor
    · exact vals_plain _
    · show ((((outs.lookup x.ix).getD (NumOut.pure [] 0)).vals).map Entry.plain).length = m
      rw [look x hx]
      simp [hf]
  refine ((h1.trans h2 (fun _ => rfl) (fun _ => rfl))).congr ?_
  intro l hl
  have hl' := look l hl
  simp only [Function.comp_apply, fl, show l.regs.ix = l.ix from rfl, hl', Option.getD_some, restack]
  rfl

theorem numScalar_acts (s : State) (n : Nat) (f : Nat → Half → List Word → NumOut) (ho : s.LanesOk) (hm : s.fr.mask ≠ 0) :
    Acts s (s.numScalar n f)
      (fun l => { l with lcw := orFlags l.lcw (f s.lead.1 s.lead.2 (s.scalarArgs n)).fl,
                         gen := if l.ix = lowestLane s.fr.mask then (f s.lead.1 s.lead.2 (s.scalarArgs n)).gen else l.gen })
      (fun r => { r with sstk := restack n (fun _ => (f s.lead.1 s.lead.2 (s.scalarArgs n)).vals) r.sstk }) := by
  rcases ha : s.active with _ | ⟨l, ls⟩
  · exact absurd ha (active_ne ho hm)
  · have hix := head_ix ho l ls ha
    have hlead : s.lead = (drmOf l.lcw, l.gen) := by simp [State.lead, ha]
    simp only [State.numScalar, ha, hlead]
    let o := f (drmOf l.lcw) l.gen (s.scalarArgs n)
    have h1 : Acts s (s.mapActive fun x => { x with lcw := orFlags x.lcw o.fl, gen := if x.ix = l.ix then o.gen else x.gen })
        (fun x => { x with lcw := orFlags x.lcw o.fl, gen := if x.ix = lowestLane s.fr.mask then o.gen else x.gen }) id :=
      mapActive_acts _ _ _ fun x _ => by
        rw [← hix]
        rfl
    have h2 := h1.trans (replaceScalar_acts _ n (o.vals.map Entry.plain)) (fun _ => rfl) (fun _ => rfl)
    simpa [Function.comp_def, vals_plain, restack] using h2

/-- A NUMERIC INSTRUCTION completes where its operands are there (R130). -/
theorem numStep_done {s : State} {len : Nat} {d : Bool} {n m : Nat} {f : Nat → Half → List Word → NumOut} (hs : s.Ready)
    (ho : s.OperandsOf d (Use.of n m)) (hf : ∀ drm gen ws, (f drm gen ws).vals.length = m) :
    ∃ t, numStep len d n m f s = .next t ∧ NumDone len d n f s t := by
  obtain ⟨hfr, hl, hm⟩ := hs
  have hop := issue_operands hfr (operandsOf_iff.1 ho)
  have hi := issue_acts s hfr
  have hl' := hi.lanesOk (fun _ => rfl) hl
  refine ⟨_, laneStep_ok (t := (s.issue.num d n m f).finish len) ?_, ?_⟩
  · simp only [numBody]
    rw [withStack_uses hop]
  · cases d
    · exact ((hi.trans (numLanes_acts _ n m f hl' hf) (fun _ => rfl) (fun _ => rfl))).completes hfr (fun _ => rfl) (fun _ => rfl)
        (fun _ => rfl) len
    · have hmask : s.issue.fr.mask = s.fr.mask := hi.mask fun _ => rfl
      have h := numScalar_acts _ n f hl' (by simpa [hmask] using hm)
      rw [lead_acts hi, scalarArgs_acts hi, hi.mask fun _ => rfl] at h
      exact (hi.trans h (fun _ => rfl) (fun _ => rfl)).completes hfr (fun _ => rfl) (fun _ => rfl) (fun _ => rfl) len

end Sys2Proof.Machine
end

