-- ==== Sys2Proof/Laws/PerInstr.lean ====
section
/-!
SUPPORT. Decoding the encoding of a well-formed instruction gives it back (R111 to R128, R248 to R271, R335): the fields of each
format, and one lemma for each constructor. An event has no encoding.
-/
set_option linter.unusedSimpArgs false
set_option Elab.async false

namespace Sys2Proof.Laws
namespace RoundTrip

/-- The round trip of one instruction: the word that the encoder gives, read as the opcode table numbers bits, decodes to it. -/
def Statement (i : Instr) : Prop := ∀ n w, i.wf = true → encode i = some (n, w) → decodeTableWord n w = some i

theorem event {i : Instr} (h : encode i = none) : Statement i := by
  intro n w _ he
  rw [h] at he
  cases he

/-- How an encoded instruction's lemma goes: from its one word. -/
theorem of_word {i : Instr} {n w : Nat} (h : encode i = some (n, w)) (k : i.wf = true → decodeTableWord n w = some i) :
    Statement i := by
  intro n' w' hw he
  rw [h] at he
  cases he
  exact k hw

theorem bit_le (b : Bool) : bit b < 2 := by cases b <;> decide

theorem ofBytes_toBytes (n w : Nat) : ofBytes (toBytes n w) = w % 256 ^ n := by
  induction n generalizing w with
  | zero => simp [toBytes, ofBytes, Nat.mod_one]
  | succ n ih =>
    have h8 : (BitVec.ofNat 8 w).toNat = w % 256 := by simp
    rw [toBytes, ofBytes, ih, h8, Nat.pow_succ, Nat.mul_comm (256 ^ n) 256, Nat.mod_mul]

theorem take_toBytes (k : Nat) : ∀ n w, k ≤ n → (toBytes n w).take k = toBytes k w := by
  induction k with
  | zero => intro n w _; simp [toBytes]
  | succ k ih =>
    intro n w h
    obtain ⟨m, rfl⟩ : ∃ m, n = m + 1 := ⟨n - 1, by omega⟩
    simp [toBytes, ih m _ (by omega)]

/-- Eight bytes of a word read back as the instruction's own bytes. -/
theorem ofBytes_take {k w : Nat} (hk : k ≤ 8) (hw : w < 256 ^ k) : ofBytes ((toBytes 8 w).take k) = w := by
  rw [take_toBytes k 8 w hk, ofBytes_toBytes, Nat.mod_eq_of_lt hw]

theorem laneBytes {w : Nat} (hw : w < 2 ^ 48) :
    decodeBytes .lane (toBytes 8 w) = decodeLane (if laneLength w = 0 then w else w % 2 ^ laneLength w) := by
  simp only [decodeBytes]
  rw [ofBytes_take (by omega) (by omega)]

/-- A table word of the lane stream decodes as the lane stream does. -/
theorem tableLane {n w : Nat} {i : Instr} (h4 : w % 4 ≠ 3) (hl : laneLength w = n) (h0 : n ≠ 0) (hn : n ≤ 48) (hw : w < 2 ^ n)
    (h : decodeLane w = .ok i) : decodeTableWord n w = some i := by
  have h48 : w < 2 ^ 48 := Nat.lt_of_lt_of_le hw (Nat.pow_le_pow_right (by decide) hn)
  have ht : tableStream n w = .lane := by
    rw [tableStream, if_pos]
    simpa using h4
  rw [decodeTableWord, Nat.mod_eq_of_lt hw, ht, laneBytes h48, hl, if_neg h0, Nat.mod_eq_of_lt hw, h]

theorem lane16 {w : Nat} {i : Instr} (h4 : w % 4 = 0) (hw : w < 2 ^ 16) (h : decodeZ16 w = .ok i) :
    decodeTableWord 16 w = some i :=
  tableLane (by omega) (by simp only [laneLength, h4]) (by decide) (by decide) hw (by simp only [decodeLane, h4, h])

theorem lane32 {w : Nat} {i : Instr} (h4 : w % 4 = 1) (hw : w < 2 ^ 32) (h : decodeS32 w = .ok i) :
    decodeTableWord 32 w = some i :=
  tableLane (by omega) (by simp only [laneLength, h4]) (by decide) (by decide) hw (by simp only [decodeLane, h4, h])

theorem lane48 {w : Nat} {i : Instr} (h4 : w % 4 = 2) (hw : w < 2 ^ 48) (h : decodeL48 w = .ok i) :
    decodeTableWord 48 w = some i :=
  tableLane (by omega) (by simp only [laneLength, h4]) (by decide) (by decide) hw (by simp only [decodeLane, h4, h])

theorem matrix64 {w : Nat} {i : Instr} (h4 : w % 4 = 3) (hw : w < 2 ^ 64) (h : decodeMatrix w = .ok i) :
    decodeTableWord 64 w = some i := by
  have ht : tableStream 64 w = .matrix := by
    rw [tableStream, if_neg (by simp [h4]), if_neg (by decide)]
  have hb : decodeBytes .matrix (toBytes 8 w) = .ok i := by
    simp only [decodeBytes]
    rw [ofBytes_take (by omega) (by omega), h]
  rw [decodeTableWord, Nat.mod_eq_of_lt hw, ht, hb]

theorem tison32 {w : Nat} {i : Instr} (h4 : w % 4 = 3) (hw : w < 2 ^ 32) (h : decodeTison w = .ok i) :
    decodeTableWord 32 w = some i := by
  have ht : tableStream 32 w = .tison := by
    rw [tableStream, if_neg (by simp [h4]), if_pos (by decide)]
  have hb : decodeBytes .tison (toBytes 8 w) = .ok i := by
    simp only [decodeBytes]
    rw [ofBytes_take (by omega) (by omega), h]
  rw [decodeTableWord, Nat.mod_eq_of_lt hw, ht, hb]

theorem field_eq (w hi lo : Nat) : field w hi lo = w / 2 ^ lo % 2 ^ (hi + 1 - lo) := by
  simp [field, Nat.shiftRight_eq_div_pow]

theorem flag_of {w n : Nat} {b : Bool} (h : field w n n = bit b) : flagAt w n = b := by
  simp only [flagAt, h]
  cases b <;> rfl

@[simp] theorem idx_val {n : Nat} [NeZero n] (x : Fin n) : idx n x.val = x := by
  simp [idx, Fin.ofNat]
  apply Fin.ext
  exact Nat.mod_eq_of_lt x.isLt

theorem guard_of {w pg pn : Nat} {g : Guard} (h : field w (pg + 2) pg = g.p.val) (hn : field w pn pn = bit g.neg) :
    guardAt w pg pn = g := by
  simp only [guardAt, h, flag_of hn, idx_val]

@[simp] theorem ofNat_toNat_self {n : Nat} (x : BitVec n) : BitVec.ofNat n x.toNat = x := by simp

@[simp] theorem tyOfCode_tyCode (t : Ty) : tyOfCode (tyCode t) = some t := by cases t <;> rfl
theorem tyCode_lt (t : Ty) : tyCode t < 15 := by cases t <;> decide
@[simp] theorem rmOfCode_rmCode (t : Rm) : rmOfCode (rmCode t) = t := by cases t <;> rfl
theorem rmCode_lt (t : Rm) : rmCode t < 8 := by cases t <;> decide
@[simp] theorem dimOfCode_dimCode (t : Dim) : dimOfCode (dimCode t) = some t := by cases t <;> rfl
theorem dimCode_lt (t : Dim) : dimCode t < 3 := by cases t <;> decide
@[simp] theorem condOfCode_condCode (t : Cond) : condOfCode (condCode t) = some t := by cases t <;> rfl
theorem condCode_lt (t : Cond) : condCode t < 13 := by cases t <;> decide
@[simp] theorem combineOfCode_combineCode (t : Combine) : combineOfCode (combineCode t) = some t := by cases t <;> rfl
theorem combineCode_lt (t : Combine) : combineCode t < 6 := by cases t <;> decide
@[simp] theorem spaceOfCode_spaceCode (t : Space) : spaceOfCode (spaceCode t) = some t := by cases t <;> rfl
theorem spaceCode_lt (t : Space) : spaceCode t < 5 := by cases t <;> decide
@[simp] theorem ldSizeOfCode_ldSizeCode (t : LdSize) : ldSizeOfCode (ldSizeCode t) = some t := by cases t <;> rfl
theorem ldSizeCode_lt (t : LdSize) : ldSizeCode t < 6 := by cases t <;> decide
@[simp] theorem stSizeOfCode_stSizeCode (t : StSize) : stSizeOfCode (stSizeCode t) = some t := by cases t <;> rfl
theorem stSizeCode_lt (t : StSize) : stSizeCode t < 6 := by cases t <;> decide
@[simp] theorem hintOfCode_hintCode (t : Hint) : hintOfCode (hintCode t) = t := by cases t <;> rfl
theorem hintCode_lt (t : Hint) : hintCode t < 4 := by cases t <;> decide
@[simp] theorem atomOfCode_atomCode (t : AtomOp) : atomOfCode (atomCode t) = some t := by cases t <;> rfl
theorem atomCode_lt (t : AtomOp) : atomCode t < 13 := by cases t <;> decide
@[simp] theorem redOfCode_redCode (t : RedOp) : redOfCode (redCode t) = some t := by cases t <;> rfl
theorem redCode_lt (t : RedOp) : redCode t < 6 := by cases t <;> decide
@[simp] theorem voteOfCode_voteCode (t : VoteKind) : voteOfCode (voteCode t) = some t := by cases t <;> rfl
theorem voteCode_lt (t : VoteKind) : voteCode t < 3 := by cases t <;> decide
@[simp] theorem scopeOfCode_scopeCode (t : FenceScope) : scopeOfCode (scopeCode t) = some t := by cases t <;> rfl
theorem scopeCode_lt (t : FenceScope) : scopeCode t < 3 := by cases t <;> decide
@[simp] theorem tspaceOfCode_tspaceCode (t : TSpace) : tspaceOfCode (tspaceCode t) = some t := by cases t <;> rfl
theorem tspaceCode_lt (t : TSpace) : tspaceCode t < 5 := by cases t <;> decide
@[simp] theorem dcfOfCode_dcfCode (t : Dcf) : dcfOfCode (dcfCode t) = t := by cases t <;> rfl
theorem dcfCode_lt (t : Dcf) : dcfCode t < 8 := by cases t <;> decide

/-- The fields of a Z16 parcel (R113). -/
theorem z16_fields (op md ty : Nat) (d : Bool) (h : op < 64 ∧ md < 8 ∧ ty < 16) :
    z16Word op md ty d % 4 = 0 ∧ z16Word op md ty d < 2 ^ 16 ∧ field (z16Word op md ty d) 8 3 = op ∧
      field (z16Word op md ty d) 12 9 = ty ∧ field (z16Word op md ty d) 15 13 = md ∧
      field (z16Word op md ty d) 14 13 = md % 4 ∧ field (z16Word op md ty d) 15 15 = md / 4 ∧
      flagAt (z16Word op md ty d) 2 = d := by
  have := bit_le d
  refine ⟨?_, ?_, ?_, ?_, ?_, ?_, ?_, flag_of ?_⟩ <;> simp only [field_eq, z16Word] <;> omega

/-- A Z16 row of R115 with a type and a mode that it takes. -/
theorem shape_ok {sh : Shape} {op : Nat} {md : Rm} {ty : Ty} {d : Bool} {k : Rm → Ty → Bool → Instr} (h : op < 64)
    (ht : sh.tys.contains ty = true) (hm : (sh.mds ty).contains md = true) :
    sh.decode (z16Word op (rmCode md) (tyCode ty) d) k = .ok (k md ty d) := by
  have hty := tyCode_lt ty
  obtain ⟨_, _, _, f1, f2, _, _, f3⟩ := z16_fields op (rmCode md) (tyCode ty) d ⟨h, rmCode_lt md, by omega⟩
  have ha : (sh.tys.any fun t => (sh.mds t).contains md) = true :=
    List.any_eq_true.2 ⟨ty, by simpa using ht, hm⟩
  simp only [Shape.decode, f1, f2, f3, withCode, andThen, need, tyOfCode_tyCode, rmOfCode_rmCode, ht, ha, hm]
  rfl

theorem arith_ok : ∀ md ty, wfArith md ty = true → shapeArith.tys.contains ty = true ∧ (shapeArith.mds ty).contains md = true := by
  intro md ty
  cases md <;> cases ty <;> decide
theorem div_ok : ∀ md ty, wfDiv md ty = true → shapeDiv.tys.contains ty = true ∧ (shapeDiv.mds ty).contains md = true := by
  intro md ty
  cases md <;> cases ty <;> decide
theorem sign_ok : ∀ md ty, wfSign md ty = true → shapeSign.tys.contains ty = true ∧ (shapeSign.mds ty).contains md = true := by
  intro md ty
  cases md <;> cases ty <;> decide
theorem float_ok : ∀ md ty, ty.isFloat = true → shapeFloat.tys.contains ty = true ∧ (shapeFloat.mds ty).contains md = true := by
  intro md ty
  cases md <;> cases ty <;> decide
theorem int_ok : ∀ ty, ty.isInt = true → shapeInt.tys.contains ty = true := by
  intro ty
  cases ty <;> decide
theorem pick_ok : ∀ ty, ty.isArith = true → shapePick.tys.contains ty = true := by
  intro ty
  cases ty <;> decide
theorem floatOne_ok : ∀ ty, ty.isFloat = true → shapeFloatOne.tys.contains ty = true := by
  intro ty
  cases ty <;> decide
theorem bits_ok : ∀ ty, ty.isBits = true → shapeBits.tys.contains ty = true := by
  intro ty
  cases ty <;> decide

/-- The round trip of a Z16 row of R115. -/
theorem z16_ok {i : Instr} {op : Nat} {md : Rm} {ty : Ty} {d : Bool} (sh : Shape) (k : Rm → Ty → Bool → Instr) (h : op < 64)
    (he : encode i = some (16, z16Word op (rmCode md) (tyCode ty) d)) (hd : ∀ w, field w 8 3 = op → decodeZ16 w = sh.decode w k)
    (hi : k md ty d = i) (hk : i.wf = true → sh.tys.contains ty = true ∧ (sh.mds ty).contains md = true) : Statement i := by
  have hty := tyCode_lt ty
  obtain ⟨h4, hw, ho, -⟩ := z16_fields op (rmCode md) (tyCode ty) d ⟨h, rmCode_lt md, by omega⟩
  exact of_word he fun hwf => lane16 h4 hw (by rw [hd _ ho, shape_ok h (hk hwf).1 (hk hwf).2, hi])

theorem z16_plain {i : Instr} {op : Nat} (h : op < 64) (he : encode i = some (16, z16Word op 0 0 false))
    (hd : ∀ w, field w 8 3 = op → decodeZ16 w = z16Plain w i) : Statement i := by
  obtain ⟨h4, hw, ho, _, _, _, _, hf⟩ := z16_fields op 0 0 false ⟨h, by omega, by omega⟩
  refine of_word he fun _ => lane16 h4 hw ?_
  rw [hd _ ho, z16Plain, hf, Bool.not_false, andThen, if_pos rfl]
  exact shape_ok (sh := shapeNone) (md := .rne) (ty := .b32) h rfl rfl

theorem z16_algebra {i : Instr} {op : Nat} {dim : Dim} {t : Fin 2} {d : Bool} (k : Dim → Fin 2 → Bool → Instr) (h : op < 64)
    (he : encode i = some (16, z16Word op (dimCode dim + t.val * 4) 3 d))
    (hd : ∀ w, field w 8 3 = op → decodeZ16 w = z16Algebra w k) (hi : k dim t d = i) : Statement i := by
  have := dimCode_lt dim
  have ht := t.isLt
  obtain ⟨h4, hw, ho, f1, _, f2, f3, f4⟩ := z16_fields op (dimCode dim + t.val * 4) 3 d ⟨h, by omega, by omega⟩
  refine of_word he fun _ => lane16 h4 hw ?_
  rw [show (dimCode dim + t.val * 4) % 4 = dimCode dim by omega] at f2
  rw [show (dimCode dim + t.val * 4) / 4 = t.val by omega] at f3
  rw [hd _ ho, z16Algebra, f1, f2, f3, f4]
  simp [withCode, needTy, tyOfCode, hi]

/-- The fields of a SLOT word (R118). -/
theorem slot_fields {w : Nat} {sop : Nat} {d : Bool} {k : BitVec 11} {imm : Nat} (hW : w = slotWord sop d k imm) (h : sop < 8 ∧ imm < 2 ^ 12) :
    w % 4 = 1 ∧ w < 2 ^ 32 ∧ field w 4 2 = 0 ∧
      flagAt w 5 = d ∧ field w 8 6 = sop ∧
      field w 19 9 = k.toNat ∧ field w 31 20 = imm := by
  have := bit_le d
  have := k.isLt
  refine ⟨?_, ?_, ?_, flag_of ?_, ?_, ?_, ?_⟩ <;> simp only [field_eq, hW, slotWord] <;> omega

/-- The fields of a BR word (R120). -/
theorem br_fields {w : Nat} {bk : Nat} {g : Guard} {off : Nat} (hW : w = brWord bk g off) (h : bk < 8 ∧ off < 2 ^ 20) :
    w % 4 = 1 ∧ w < 2 ^ 32 ∧ field w 4 2 = 2 ∧ field w 7 5 = bk ∧
      guardAt w 8 11 = g ∧ field w 31 12 = off := by
  have := bit_le g.neg
  have := g.p.isLt
  refine ⟨?_, ?_, ?_, ?_, guard_of ?_ ?_, ?_⟩ <;> simp only [field_eq, hW, brWord, guardBits] <;> omega

/-- The fields of an XLN word (R124). -/
theorem xln_fields {w : Nat} {xop arg pd : Nat} {neg : Bool} {imm : Nat} (hW : w = xlnWord xop arg pd neg imm) (h : xop < 16 ∧ arg < 16 ∧ pd < 8 ∧ imm < 2 ^ 15) :
    w % 4 = 1 ∧ w < 2 ^ 32 ∧ field w 4 2 = 6 ∧
      field w 8 5 = xop ∧ field w 12 9 = arg ∧
      field w 15 13 = pd ∧ flagAt w 16 = neg ∧
      field w 31 17 = imm := by
  have := bit_le neg
  refine ⟨?_, ?_, ?_, ?_, ?_, ?_, flag_of ?_, ?_⟩ <;> simp only [field_eq, hW, xlnWord] <;> omega

/-- The fields of an ENG word with a guard (R125). -/
theorem engGuard_fields {w : Nat} {eop arg : Nat} {g : Guard} {imm : Nat} (hW : w = engGuardWord eop arg g imm) (h : eop < 32 ∧ arg < 16 ∧ imm < 2 ^ 14) :
    w % 4 = 1 ∧ w < 2 ^ 32 ∧ field w 4 2 = 7 ∧
      field w 9 5 = eop ∧ field w 13 10 = arg ∧
      guardAt w 14 17 = g ∧ field w 31 18 = imm := by
  have := bit_le g.neg
  have := g.p.isLt
  refine ⟨?_, ?_, ?_, ?_, ?_, guard_of ?_ ?_, ?_⟩ <;> simp only [field_eq, hW, engWord, engGuardWord, guardBits] <;> omega

/-- The fields of an ENG word without one. -/
theorem eng_fields {w : Nat} {eop arg imm : Nat} (hW : w = engWord eop arg imm) (h : eop < 32 ∧ arg < 16 ∧ imm < 2 ^ 14) :
    w % 4 = 1 ∧ w < 2 ^ 32 ∧ field w 4 2 = 7 ∧
      field w 9 5 = eop ∧ field w 13 10 = arg ∧
      field w 17 14 = 0 ∧ field w 31 18 = imm := by
  refine ⟨?_, ?_, ?_, ?_, ?_, ?_, ?_⟩ <;> simp only [field_eq, hW, engWord] <;> omega

/-- The fields of an ARX word, with a guard that only `sel` has (R127). -/
theorem arx_fields {w : Nat} {xa t1 t2 md : Nat} {d : Bool} {imm : Nat} {gb : Nat}
    (hW : w = arxWord xa t1 t2 md d imm + gb * 2 ^ 22)
    (h : xa < 32 ∧ t1 < 16 ∧ t2 < 16 ∧ md < 8 ∧ imm < 2 ^ 22 ∧ gb < 16) :
    w % 4 = 2 ∧ w < 2 ^ 48 ∧
      field w 4 2 = 4 ∧ flagAt w 5 = d ∧
      field w 10 6 = xa ∧ field w 14 11 = t1 ∧
      field w 18 15 = t2 ∧ field w 21 19 = md ∧
      field w 25 22 = gb ∧ field w 47 26 = imm := by
  have := bit_le d
  refine ⟨?_, ?_, ?_, flag_of ?_, ?_, ?_, ?_, ?_, ?_, ?_⟩ <;> simp only [field_eq, hW, arxWord] <;> omega

theorem arx_fields0 {w : Nat} {xa t1 t2 md : Nat} {d : Bool} {imm : Nat} (hW : w = arxWord xa t1 t2 md d imm)
    (h : xa < 32 ∧ t1 < 16 ∧ t2 < 16 ∧ md < 8 ∧ imm < 2 ^ 22) :
    w % 4 = 2 ∧ w < 2 ^ 48 ∧ field w 4 2 = 4 ∧ flagAt w 5 = d ∧ field w 10 6 = xa ∧ field w 14 11 = t1 ∧ field w 18 15 = t2 ∧
      field w 21 19 = md ∧ field w 25 22 = 0 ∧ field w 47 26 = imm :=
  arx_fields (gb := 0) (by rw [hW, Nat.zero_mul, Nat.add_zero]) (by omega)

/-- A word of the matrix stream whose used fields account for all of it. -/
theorem unused_of {w m : Nat} {used : List (Nat × Nat)} (hm : w % 256 = m)
    (h : used.foldl (fun a r => a - field w r.1 r.2 * 2 ^ r.2) (w - m) = 0) : unusedZero w used = true := by
  simp only [unusedZero, hm, h]
  rfl

theorem fold_nil {w a : Nat} (h : a = 0) :
    ([] : List (Nat × Nat)).foldl (fun a r => a - field w r.1 r.2 * 2 ^ r.2) a = 0 := h

theorem fold_cons {w a hi lo v : Nat} {l : List (Nat × Nat)} (f : field w hi lo = v)
    (h : l.foldl (fun a r => a - field w r.1 r.2 * 2 ^ r.2) (a - v * 2 ^ lo) = 0) :
    ((hi, lo) :: l).foldl (fun a r => a - field w r.1 r.2 * 2 ^ r.2) a = 0 := by
  rw [List.foldl_cons, f]
  exact h

end RoundTrip

theorem RoundTrip.dup (d : Bool) : Statement (.dup d) := by
  exact z16_ok (md := .rne) (ty := .b32) shapeNone (fun _ _ d => .dup d) (by decide) rfl
    (fun w hw => by simp only [decodeZ16, hw]) rfl fun _ => ⟨rfl, rfl⟩

theorem RoundTrip.drop (d : Bool) : Statement (.drop d) := by
  exact z16_ok (md := .rne) (ty := .b32) shapeNone (fun _ _ d => .drop d) (by decide) rfl
    (fun w hw => by simp only [decodeZ16, hw]) rfl fun _ => ⟨rfl, rfl⟩

theorem RoundTrip.swap (d : Bool) : Statement (.swap d) := by
  exact z16_ok (md := .rne) (ty := .b32) shapeNone (fun _ _ d => .swap d) (by decide) rfl
    (fun w hw => by simp only [decodeZ16, hw]) rfl fun _ => ⟨rfl, rfl⟩

theorem RoundTrip.over (d : Bool) : Statement (.over d) := by
  exact z16_ok (md := .rne) (ty := .b32) shapeNone (fun _ _ d => .over d) (by decide) rfl
    (fun w hw => by simp only [decodeZ16, hw]) rfl fun _ => ⟨rfl, rfl⟩

theorem RoundTrip.rot (d : Bool) : Statement (.rot d) := by
  exact z16_ok (md := .rne) (ty := .b32) shapeNone (fun _ _ d => .rot d) (by decide) rfl
    (fun w hw => by simp only [decodeZ16, hw]) rfl fun _ => ⟨rfl, rfl⟩

theorem RoundTrip.nip (d : Bool) : Statement (.nip d) := by
  exact z16_ok (md := .rne) (ty := .b32) shapeNone (fun _ _ d => .nip d) (by decide) rfl
    (fun w hw => by simp only [decodeZ16, hw]) rfl fun _ => ⟨rfl, rfl⟩

theorem RoundTrip.depth (d : Bool) : Statement (.depth d) := by
  exact z16_ok (md := .rne) (ty := .b32) shapeNone (fun _ _ d => .depth d) (by decide) rfl
    (fun w hw => by simp only [decodeZ16, hw]) rfl fun _ => ⟨rfl, rfl⟩

theorem RoundTrip.add (md : Rm) (ty : Ty) (d : Bool) : Statement (.add md ty d) := by
  exact z16_ok shapeArith (fun md ty d => .add md ty d) (by decide) rfl
    (fun w hw => by simp only [decodeZ16, hw]) rfl fun h => arith_ok md ty h

theorem RoundTrip.sub (md : Rm) (ty : Ty) (d : Bool) : Statement (.sub md ty d) := by
  exact z16_ok shapeArith (fun md ty d => .sub md ty d) (by decide) rfl
    (fun w hw => by simp only [decodeZ16, hw]) rfl fun h => arith_ok md ty h

theorem RoundTrip.mul (md : Rm) (ty : Ty) (d : Bool) : Statement (.mul md ty d) := by
  exact z16_ok shapeArith (fun md ty d => .mul md ty d) (by decide) rfl
    (fun w hw => by simp only [decodeZ16, hw]) rfl fun h => arith_ok md ty h

theorem RoundTrip.mulhi (ty : Ty) (d : Bool) : Statement (.mulhi ty d) := by
  exact z16_ok (md := .rne) shapeInt (fun _ ty d => .mulhi ty d) (by decide) rfl
    (fun w hw => by simp only [decodeZ16, hw]) rfl fun h => ⟨int_ok ty h, rfl⟩

theorem RoundTrip.fma (md : Rm) (ty : Ty) (d : Bool) : Statement (.fma md ty d) := by
  exact z16_ok shapeFloat (fun md ty d => .fma md ty d) (by decide) rfl
    (fun w hw => by simp only [decodeZ16, hw]) rfl fun h => float_ok md ty h

theorem RoundTrip.div (md : Rm) (ty : Ty) (d : Bool) : Statement (.div md ty d) := by
  exact z16_ok shapeDiv (fun md ty d => .div md ty d) (by decide) rfl
    (fun w hw => by simp only [decodeZ16, hw]) rfl fun h => div_ok md ty h

theorem RoundTrip.rem (ty : Ty) (d : Bool) : Statement (.rem ty d) := by
  exact z16_ok (md := .rne) shapeInt (fun _ ty d => .rem ty d) (by decide) rfl
    (fun w hw => by simp only [decodeZ16, hw]) rfl fun h => ⟨int_ok ty h, rfl⟩

theorem RoundTrip.neg (md : Rm) (ty : Ty) (d : Bool) : Statement (.neg md ty d) := by
  exact z16_ok shapeSign (fun md ty d => .neg md ty d) (by decide) rfl
    (fun w hw => by simp only [decodeZ16, hw]) rfl fun h => sign_ok md ty h

theorem RoundTrip.abs (md : Rm) (ty : Ty) (d : Bool) : Statement (.abs md ty d) := by
  exact z16_ok shapeSign (fun md ty d => .abs md ty d) (by decide) rfl
    (fun w hw => by simp only [decodeZ16, hw]) rfl fun h => sign_ok md ty h

theorem RoundTrip.min (ty : Ty) (d : Bool) : Statement (.min ty d) := by
  exact z16_ok (md := .rne) shapePick (fun _ ty d => .min ty d) (by decide) rfl
    (fun w hw => by simp only [decodeZ16, hw]) rfl fun h => ⟨pick_ok ty h, rfl⟩

theorem RoundTrip.max (ty : Ty) (d : Bool) : Statement (.max ty d) := by
  exact z16_ok (md := .rne) shapePick (fun _ ty d => .max ty d) (by decide) rfl
    (fun w hw => by simp only [decodeZ16, hw]) rfl fun h => ⟨pick_ok ty h, rfl⟩

theorem RoundTrip.and (ty : Ty) (d : Bool) : Statement (.and ty d) := by
  exact z16_ok (md := .rne) shapeBits (fun _ ty d => .and ty d) (by decide) rfl
    (fun w hw => by simp only [decodeZ16, hw]) rfl fun h => ⟨bits_ok ty h, rfl⟩

theorem RoundTrip.or (ty : Ty) (d : Bool) : Statement (.or ty d) := by
  exact z16_ok (md := .rne) shapeBits (fun _ ty d => .or ty d) (by decide) rfl
    (fun w hw => by simp only [decodeZ16, hw]) rfl fun h => ⟨bits_ok ty h, rfl⟩

theorem RoundTrip.xor (ty : Ty) (d : Bool) : Statement (.xor ty d) := by
  exact z16_ok (md := .rne) shapeBits (fun _ ty d => .xor ty d) (by decide) rfl
    (fun w hw => by simp only [decodeZ16, hw]) rfl fun h => ⟨bits_ok ty h, rfl⟩

theorem RoundTrip.not (ty : Ty) (d : Bool) : Statement (.not ty d) := by
  exact z16_ok (md := .rne) shapeBits (fun _ ty d => .not ty d) (by decide) rfl
    (fun w hw => by simp only [decodeZ16, hw]) rfl fun h => ⟨bits_ok ty h, rfl⟩

theorem RoundTrip.shl (ty : Ty) (d : Bool) : Statement (.shl ty d) := by
  exact z16_ok (md := .rne) shapeBits (fun _ ty d => .shl ty d) (by decide) rfl
    (fun w hw => by simp only [decodeZ16, hw]) rfl fun h => ⟨bits_ok ty h, rfl⟩

theorem RoundTrip.shr (ty : Ty) (d : Bool) : Statement (.shr ty d) := by
  exact z16_ok (md := .rne) shapeBits (fun _ ty d => .shr ty d) (by decide) rfl
    (fun w hw => by simp only [decodeZ16, hw]) rfl fun h => ⟨bits_ok ty h, rfl⟩

theorem RoundTrip.sar (ty : Ty) (d : Bool) : Statement (.sar ty d) := by
  exact z16_ok (md := .rne) shapeBits (fun _ ty d => .sar ty d) (by decide) rfl
    (fun w hw => by simp only [decodeZ16, hw]) rfl fun h => ⟨bits_ok ty h, rfl⟩

theorem RoundTrip.rotl (ty : Ty) (d : Bool) : Statement (.rotl ty d) := by
  exact z16_ok (md := .rne) shapeBits (fun _ ty d => .rotl ty d) (by decide) rfl
    (fun w hw => by simp only [decodeZ16, hw]) rfl fun h => ⟨bits_ok ty h, rfl⟩

theorem RoundTrip.popc (ty : Ty) (d : Bool) : Statement (.popc ty d) := by
  exact z16_ok (md := .rne) shapeBits (fun _ ty d => .popc ty d) (by decide) rfl
    (fun w hw => by simp only [decodeZ16, hw]) rfl fun h => ⟨bits_ok ty h, rfl⟩

theorem RoundTrip.clz (ty : Ty) (d : Bool) : Statement (.clz ty d) := by
  exact z16_ok (md := .rne) shapeBits (fun _ ty d => .clz ty d) (by decide) rfl
    (fun w hw => by simp only [decodeZ16, hw]) rfl fun h => ⟨bits_ok ty h, rfl⟩

theorem RoundTrip.ctz (ty : Ty) (d : Bool) : Statement (.ctz ty d) := by
  exact z16_ok (md := .rne) shapeBits (fun _ ty d => .ctz ty d) (by decide) rfl
    (fun w hw => by simp only [decodeZ16, hw]) rfl fun h => ⟨bits_ok ty h, rfl⟩

theorem RoundTrip.bfx (ty : Ty) (d : Bool) : Statement (.bfx ty d) := by
  exact z16_ok (md := .rne) shapeBits (fun _ ty d => .bfx ty d) (by decide) rfl
    (fun w hw => by simp only [decodeZ16, hw]) rfl fun h => ⟨bits_ok ty h, rfl⟩

theorem RoundTrip.bfi (ty : Ty) (d : Bool) : Statement (.bfi ty d) := by
  exact z16_ok (md := .rne) shapeBits (fun _ ty d => .bfi ty d) (by decide) rfl
    (fun w hw => by simp only [decodeZ16, hw]) rfl fun h => ⟨bits_ok ty h, rfl⟩

theorem RoundTrip.sqrt (md : Rm) (ty : Ty) (d : Bool) : Statement (.sqrt md ty d) := by
  exact z16_ok shapeFloat (fun md ty d => .sqrt md ty d) (by decide) rfl
    (fun w hw => by simp only [decodeZ16, hw]) rfl fun h => float_ok md ty h

theorem RoundTrip.rsqrt (d : Bool) : Statement (.rsqrt d) := by
  exact z16_ok (md := .rne) (ty := .f32) shapeF32 (fun _ _ d => .rsqrt d) (by decide) rfl
    (fun w hw => by simp only [decodeZ16, hw]) rfl fun _ => ⟨rfl, rfl⟩

theorem RoundTrip.rcp (d : Bool) : Statement (.rcp d) := by
  exact z16_ok (md := .rne) (ty := .f32) shapeF32 (fun _ _ d => .rcp d) (by decide) rfl
    (fun w hw => by simp only [decodeZ16, hw]) rfl fun _ => ⟨rfl, rfl⟩

theorem RoundTrip.exp2 (d : Bool) : Statement (.exp2 d) := by
  exact z16_ok (md := .rne) (ty := .f32) shapeF32 (fun _ _ d => .exp2 d) (by decide) rfl
    (fun w hw => by simp only [decodeZ16, hw]) rfl fun _ => ⟨rfl, rfl⟩

theorem RoundTrip.log2 (d : Bool) : Statement (.log2 d) := by
  exact z16_ok (md := .rne) (ty := .f32) shapeF32 (fun _ _ d => .log2 d) (by decide) rfl
    (fun w hw => by simp only [decodeZ16, hw]) rfl fun _ => ⟨rfl, rfl⟩

theorem RoundTrip.sin (d : Bool) : Statement (.sin d) := by
  exact z16_ok (md := .rne) (ty := .f32) shapeF32 (fun _ _ d => .sin d) (by decide) rfl
    (fun w hw => by simp only [decodeZ16, hw]) rfl fun _ => ⟨rfl, rfl⟩

theorem RoundTrip.cos (d : Bool) : Statement (.cos d) := by
  exact z16_ok (md := .rne) (ty := .f32) shapeF32 (fun _ _ d => .cos d) (by decide) rfl
    (fun w hw => by simp only [decodeZ16, hw]) rfl fun _ => ⟨rfl, rfl⟩

theorem RoundTrip.tanh (d : Bool) : Statement (.tanh d) := by
  exact z16_ok (md := .rne) (ty := .f32) shapeF32 (fun _ _ d => .tanh d) (by decide) rfl
    (fun w hw => by simp only [decodeZ16, hw]) rfl fun _ => ⟨rfl, rfl⟩

theorem RoundTrip.floor (ty : Ty) (d : Bool) : Statement (.floor ty d) := by
  exact z16_ok (md := .rne) shapeFloatOne (fun _ ty d => .floor ty d) (by decide) rfl
    (fun w hw => by simp only [decodeZ16, hw]) rfl fun h => ⟨floatOne_ok ty h, rfl⟩

theorem RoundTrip.ceil (ty : Ty) (d : Bool) : Statement (.ceil ty d) := by
  exact z16_ok (md := .rne) shapeFloatOne (fun _ ty d => .ceil ty d) (by decide) rfl
    (fun w hw => by simp only [decodeZ16, hw]) rfl fun h => ⟨floatOne_ok ty h, rfl⟩

theorem RoundTrip.trunc (ty : Ty) (d : Bool) : Statement (.trunc ty d) := by
  exact z16_ok (md := .rne) shapeFloatOne (fun _ ty d => .trunc ty d) (by decide) rfl
    (fun w hw => by simp only [decodeZ16, hw]) rfl fun h => ⟨floatOne_ok ty h, rfl⟩

theorem RoundTrip.rint (md : Rm) (ty : Ty) (d : Bool) : Statement (.rint md ty d) := by
  exact z16_ok shapeFloat (fun md ty d => .rint md ty d) (by decide) rfl
    (fun w hw => by simp only [decodeZ16, hw]) rfl fun h => float_ok md ty h

theorem RoundTrip.clamp (ty : Ty) (d : Bool) : Statement (.clamp ty d) := by
  exact z16_ok (md := .rne) shapePick (fun _ ty d => .clamp ty d) (by decide) rfl
    (fun w hw => by simp only [decodeZ16, hw]) rfl fun h => ⟨pick_ok ty h, rfl⟩

theorem RoundTrip.conj (dim : Dim) (t : Fin 2) (d : Bool) : Statement (.conj dim t d) := by
  exact z16_algebra (fun dim t d => .conj dim t d) (by decide) rfl
    (fun w hw => by simp only [decodeZ16, hw]) rfl

theorem RoundTrip.norm (dim : Dim) (t : Fin 2) (d : Bool) : Statement (.norm dim t d) := by
  exact z16_algebra (fun dim t d => .norm dim t d) (by decide) rfl
    (fun w hw => by simp only [decodeZ16, hw]) rfl

theorem RoundTrip.copysign (ty : Ty) (d : Bool) : Statement (.copysign ty d) := by
  exact z16_ok (md := .rne) shapeFloatOne (fun _ ty d => .copysign ty d) (by decide) rfl
    (fun w hw => by simp only [decodeZ16, hw]) rfl fun h => ⟨floatOne_ok ty h, rfl⟩

theorem RoundTrip.get (d : Bool) (k : BitVec 11) : Statement (.get d k) := by
  obtain ⟨ww, hW⟩ : ∃ ww, ww = slotWord 0 d k 0 := ⟨_, rfl⟩
  refine of_word (w := ww) (by rw [hW]; rfl) fun h => ?_
  have hs : (!d || decide (k.toNat < 256)) = true := h
  obtain ⟨h4, hw, f0, f1, f2, f3, f4⟩ := slot_fields hW (by omega)
  exact lane32 h4 hw (by simp [decodeS32, f0, decodeSlot, f1, f2, f3, f4, andThen, need, hs])

theorem RoundTrip.set (d : Bool) (k : BitVec 11) : Statement (.set d k) := by
  obtain ⟨ww, hW⟩ : ∃ ww, ww = slotWord 1 d k 0 := ⟨_, rfl⟩
  refine of_word (w := ww) (by rw [hW]; rfl) fun h => ?_
  have hs : (!d || decide (k.toNat < 256)) = true := h
  obtain ⟨h4, hw, f0, f1, f2, f3, f4⟩ := slot_fields hW (by omega)
  exact lane32 h4 hw (by simp [decodeS32, f0, decodeSlot, f1, f2, f3, f4, andThen, need, hs])

theorem RoundTrip.tee (d : Bool) (k : BitVec 11) : Statement (.tee d k) := by
  obtain ⟨ww, hW⟩ : ∃ ww, ww = slotWord 2 d k 0 := ⟨_, rfl⟩
  refine of_word (w := ww) (by rw [hW]; rfl) fun h => ?_
  have hs : (!d || decide (k.toNat < 256)) = true := h
  obtain ⟨h4, hw, f0, f1, f2, f3, f4⟩ := slot_fields hW (by omega)
  exact lane32 h4 hw (by simp [decodeS32, f0, decodeSlot, f1, f2, f3, f4, andThen, need, hs])

theorem RoundTrip.inc (d : Bool) (k : BitVec 11) (imm : BitVec 12) : Statement (.inc d k imm) := by
  obtain ⟨ww, hW⟩ : ∃ ww, ww = slotWord 3 d k imm.toNat := ⟨_, rfl⟩
  refine of_word (w := ww) (by rw [hW]; rfl) fun h => ?_
  have := imm.isLt
  have hs : (!d || decide (k.toNat < 256)) = true := h
  obtain ⟨h4, hw, f0, f1, f2, f3, f4⟩ := slot_fields hW (by omega)
  exact lane32 h4 hw (by simp [decodeS32, f0, decodeSlot, f1, f2, f3, f4, andThen, need, hs])

theorem RoundTrip.get2 (d : Bool) (k : BitVec 11) : Statement (.get2 d k) := by
  obtain ⟨ww, hW⟩ : ∃ ww, ww = slotWord 4 d k 0 := ⟨_, rfl⟩
  refine of_word (w := ww) (by rw [hW]; rfl) fun h => ?_
  have hs : (!d || decide (k.toNat < 256)) = true := h
  obtain ⟨h4, hw, f0, f1, f2, f3, f4⟩ := slot_fields hW (by omega)
  exact lane32 h4 hw (by simp [decodeS32, f0, decodeSlot, f1, f2, f3, f4, andThen, need, hs])

theorem RoundTrip.set2 (d : Bool) (k : BitVec 11) : Statement (.set2 d k) := by
  obtain ⟨ww, hW⟩ : ∃ ww, ww = slotWord 5 d k 0 := ⟨_, rfl⟩
  refine of_word (w := ww) (by rw [hW]; rfl) fun h => ?_
  have hs : (!d || decide (k.toNat < 256)) = true := h
  obtain ⟨h4, hw, f0, f1, f2, f3, f4⟩ := slot_fields hW (by omega)
  exact lane32 h4 hw (by simp [decodeS32, f0, decodeSlot, f1, f2, f3, f4, andThen, need, hs])

theorem RoundTrip.tee2 (d : Bool) (k : BitVec 11) : Statement (.tee2 d k) := by
  obtain ⟨ww, hW⟩ : ∃ ww, ww = slotWord 6 d k 0 := ⟨_, rfl⟩
  refine of_word (w := ww) (by rw [hW]; rfl) fun h => ?_
  have hs : (!d || decide (k.toNat < 256)) = true := h
  obtain ⟨h4, hw, f0, f1, f2, f3, f4⟩ := slot_fields hW (by omega)
  exact lane32 h4 hw (by simp [decodeS32, f0, decodeSlot, f1, f2, f3, f4, andThen, need, hs])

theorem RoundTrip.clr (d : Bool) (k : BitVec 11) : Statement (.clr d k) := by
  obtain ⟨ww, hW⟩ : ∃ ww, ww = slotWord 7 d k 0 := ⟨_, rfl⟩
  refine of_word (w := ww) (by rw [hW]; rfl) fun h => ?_
  have hs : (!d || decide (k.toNat < 256)) = true := h
  obtain ⟨h4, hw, f0, f1, f2, f3, f4⟩ := slot_fields hW (by omega)
  exact lane32 h4 hw (by simp [decodeS32, f0, decodeSlot, f1, f2, f3, f4, andThen, need, hs])

theorem RoundTrip.lit (d : Bool) (imm : BitVec 26) : Statement (.lit d imm) := by
  obtain ⟨ww, hW⟩ : ∃ ww, ww = 0x05 + bit d * 2 ^ 5 + imm.toNat * 2 ^ 6 := ⟨_, rfl⟩
  refine of_word (w := ww) (by rw [hW]; rfl) fun h => ?_
  have := bit_le d
  have := imm.isLt
  have f0 : field ww 4 2 = 1 := by rw [field_eq]; omega
  have f1 : flagAt ww 5 = d := flag_of (by rw [field_eq]; omega)
  have f2 : field ww 31 6 = imm.toNat := by rw [field_eq]; omega
  exact lane32 (by omega) (by omega) (by simp [decodeS32, f0, f1, f2])

theorem RoundTrip.lit32 (d : Bool) (imm : BitVec 32) : Statement (.lit32 d imm) := by
  obtain ⟨ww, hW⟩ : ∃ ww, ww = 0x02 + bit d * 2 ^ 5 + imm.toNat * 2 ^ 16 := ⟨_, rfl⟩
  refine of_word (w := ww) (by rw [hW]; rfl) fun h => ?_
  have := bit_le d
  have := imm.isLt
  have f0 : field ww 4 2 = 0 := by rw [field_eq]; omega
  have f1 : field ww 15 6 = 0 := by rw [field_eq]; omega
  have f2 : flagAt ww 5 = d := flag_of (by rw [field_eq]; omega)
  have f3 : field ww 47 16 = imm.toNat := by rw [field_eq]; omega
  exact lane48 (by omega) (by omega) (by simp [decodeL48, need, f0, f1, f2, f3])

theorem RoundTrip.lith (d : Bool) (imm : BitVec 32) : Statement (.lith d imm) := by
  obtain ⟨ww, hW⟩ : ∃ ww, ww = 0x06 + bit d * 2 ^ 5 + imm.toNat * 2 ^ 16 := ⟨_, rfl⟩
  refine of_word (w := ww) (by rw [hW]; rfl) fun h => ?_
  have := bit_le d
  have := imm.isLt
  have f0 : field ww 4 2 = 1 := by rw [field_eq]; omega
  have f1 : field ww 15 6 = 0 := by rw [field_eq]; omega
  have f2 : flagAt ww 5 = d := flag_of (by rw [field_eq]; omega)
  have f3 : field ww 47 16 = imm.toNat := by rw [field_eq]; omega
  exact lane48 (by omega) (by omega) (by simp [decodeL48, need, f0, f1, f2, f3])

theorem RoundTrip.br (g : Guard) (off : BitVec 20) : Statement (.br g off) := by
  obtain ⟨ww, hW⟩ : ∃ ww, ww = brWord 0 g off.toNat := ⟨_, rfl⟩
  refine of_word (w := ww) (by rw [hW]; rfl) fun h => ?_
  have := off.isLt
  obtain ⟨h4, hw, f0, f1, f2, f3⟩ := br_fields hW (by omega)
  exact lane32 h4 hw (by simp [decodeS32, f0, decodeBr, f1, f2, f3])

theorem RoundTrip.brl (g : Guard) (off : BitVec 20) : Statement (.brl g off) := by
  obtain ⟨ww, hW⟩ : ∃ ww, ww = brWord 1 g off.toNat := ⟨_, rfl⟩
  refine of_word (w := ww) (by rw [hW]; rfl) fun h => ?_
  have := off.isLt
  obtain ⟨h4, hw, f0, f1, f2, f3⟩ := br_fields hW (by omega)
  exact lane32 h4 hw (by simp [decodeS32, f0, decodeBr, f1, f2, f3])

theorem RoundTrip.bru (g : Guard) (off : BitVec 20) : Statement (.bru g off) := by
  obtain ⟨ww, hW⟩ : ∃ ww, ww = brWord 2 g off.toNat := ⟨_, rfl⟩
  refine of_word (w := ww) (by rw [hW]; rfl) fun h => ?_
  have := off.isLt
  obtain ⟨h4, hw, f0, f1, f2, f3⟩ := br_fields hW (by omega)
  exact lane32 h4 hw (by simp [decodeS32, f0, decodeBr, f1, f2, f3])

theorem RoundTrip.call (g : Guard) (off : BitVec 20) : Statement (.call g off) := by
  obtain ⟨ww, hW⟩ : ∃ ww, ww = brWord 3 g off.toNat := ⟨_, rfl⟩
  refine of_word (w := ww) (by rw [hW]; rfl) fun h => ?_
  have := off.isLt
  obtain ⟨h4, hw, f0, f1, f2, f3⟩ := br_fields hW (by omega)
  exact lane32 h4 hw (by simp [decodeS32, f0, decodeBr, f1, f2, f3])

theorem RoundTrip.loop (g : Guard) (off : BitVec 20) : Statement (.loop g off) := by
  obtain ⟨ww, hW⟩ : ∃ ww, ww = brWord 4 g off.toNat := ⟨_, rfl⟩
  refine of_word (w := ww) (by rw [hW]; rfl) fun h => ?_
  have := off.isLt
  obtain ⟨h4, hw, f0, f1, f2, f3⟩ := br_fields hW (by omega)
  exact lane32 h4 hw (by simp [decodeS32, f0, decodeBr, f1, f2, f3, need, of_decide_eq_true (p := 2 < off.toInt) h])

theorem RoundTrip.rep (g : Guard) (n : BitVec 20) : Statement (.rep g n) := by
  obtain ⟨ww, hW⟩ : ∃ ww, ww = brWord 5 g n.toNat := ⟨_, rfl⟩
  refine of_word (w := ww) (by rw [hW]; rfl) fun h => ?_
  have := n.isLt
  obtain ⟨h4, hw, f0, f1, f2, f3⟩ := br_fields hW (by omega)
  exact lane32 h4 hw (by simp [decodeS32, f0, decodeBr, f1, f2, f3, need, show ¬ n = 0#20 by simpa using (show (n != 0) = true from h)])

theorem RoundTrip.jmp (g : Guard) : Statement (.jmp g) := by
  obtain ⟨ww, hW⟩ : ∃ ww, ww = brWord 6 g 0 := ⟨_, rfl⟩
  refine of_word (w := ww) (by rw [hW]; rfl) fun h => ?_
  obtain ⟨h4, hw, f0, f1, f2, f3⟩ := br_fields hW (by omega)
  exact lane32 h4 hw (by simp [decodeS32, f0, decodeBr, f1, f2, f3, need])

theorem RoundTrip.brFar (g : Guard) (off : BitVec 32) : Statement (.brFar g off) := by
  obtain ⟨ww, hW⟩ : ∃ ww, ww = 0x0A + guardBits g 8 11 + off.toNat * 2 ^ 16 := ⟨_, rfl⟩
  refine of_word (w := ww) (by rw [hW]; rfl) fun h => ?_
  simp only [guardBits, mWord] at hW
  have := off.isLt
  have := bit_le g.neg
  have := g.p.isLt
  have f0 : field ww 4 2 = 2 := by rw [field_eq]; omega
  have f1 : field ww 15 12 = 0 := by rw [field_eq]; omega
  have f2 : field ww 7 5 = 0 := by rw [field_eq]; omega
  have f3 : guardAt ww 8 11 = g := guard_of (by rw [field_eq]; omega) (by rw [field_eq]; omega)
  have f4 : field ww 47 16 = off.toNat := by rw [field_eq]; omega
  exact lane48 (by omega) (by omega) (by simp [decodeL48, andThen, f0, f1, f2, f3, f4])

theorem RoundTrip.callFar (g : Guard) (off : BitVec 32) : Statement (.callFar g off) := by
  obtain ⟨ww, hW⟩ : ∃ ww, ww = 0x0A + 3 * 2 ^ 5 + guardBits g 8 11 + off.toNat * 2 ^ 16 := ⟨_, rfl⟩
  refine of_word (w := ww) (by rw [hW]; rfl) fun h => ?_
  simp only [guardBits, mWord] at hW
  have := off.isLt
  have := bit_le g.neg
  have := g.p.isLt
  have f0 : field ww 4 2 = 2 := by rw [field_eq]; omega
  have f1 : field ww 15 12 = 0 := by rw [field_eq]; omega
  have f2 : field ww 7 5 = 3 := by rw [field_eq]; omega
  have f3 : guardAt ww 8 11 = g := guard_of (by rw [field_eq]; omega) (by rw [field_eq]; omega)
  have f4 : field ww 47 16 = off.toNat := by rw [field_eq]; omega
  exact lane48 (by omega) (by omega) (by simp [decodeL48, andThen, f0, f1, f2, f3, f4])

theorem RoundTrip.cmp (d : Bool) (cond : Cond) (ty : Ty) (pa : Fin 8) (pb : Fin 8) (ct : Combine) (g : Guard) : Statement (.cmp d cond ty pa pb ct g) := by
  obtain ⟨ww, hW⟩ : ∃ ww, ww = 0x0D + bit d * 2 ^ 5 + condCode cond * 2 ^ 6 + tyCode ty * 2 ^ 10 + pa.val * 2 ^ 14 + pb.val * 2 ^ 17 + combineCode ct * 2 ^ 20 + guardBits g 23 26 := ⟨_, rfl⟩
  refine of_word (w := ww) (by rw [hW]; rfl) fun h => ?_
  simp only [guardBits, mWord] at hW
  have := bit_le d
  have := condCode_lt cond
  have := tyCode_lt ty
  have := pa.isLt
  have := pb.isLt
  have := combineCode_lt ct
  have := bit_le g.neg
  have := g.p.isLt
  have f0 : field ww 4 2 = 3 := by rw [field_eq]; omega
  have f1 : field ww 31 27 = 0 := by rw [field_eq]; omega
  have f2 : field ww 9 6 = condCode cond := by rw [field_eq]; omega
  have f3 : field ww 22 20 = combineCode ct := by rw [field_eq]; omega
  have f4 : field ww 13 10 = tyCode ty := by rw [field_eq]; omega
  have f5 : flagAt ww 5 = d := flag_of (by rw [field_eq]; omega)
  have f6 : field ww 16 14 = pa.val := by rw [field_eq]; omega
  have f7 : field ww 19 17 = pb.val := by rw [field_eq]; omega
  have f8 : guardAt ww 23 26 = g := guard_of (by rw [field_eq]; omega) (by rw [field_eq]; omega)
  exact lane32 (by omega) (by omega) (by simp [decodeS32, decodeCmp, andThen, withCode, needTy, show wfCond cond ty = true from h, f0, f1, f2, f3, f4, f5, f6, f7, f8])

theorem RoundTrip.ld (d : Bool) (sp : Space) (sz : LdSize) (rh : Hint) (off : BitVec 13) : Statement (.ld d sp sz rh off) := by
  obtain ⟨ww, hW⟩ : ∃ ww, ww = 0x11 + bit d * 2 ^ 5 + spaceCode sp * 2 ^ 7 + ldSizeCode sz * 2 ^ 10 + hintCode rh * 2 ^ 13 + off.toNat * 2 ^ 19 := ⟨_, rfl⟩
  refine of_word (w := ww) (by rw [hW]; rfl) fun h => ?_
  have := bit_le d
  have := spaceCode_lt sp
  have := ldSizeCode_lt sz
  have := hintCode_lt rh
  have := off.isLt
  have f0 : field ww 4 2 = 4 := by rw [field_eq]; omega
  have f1 : flagAt ww 5 = d := flag_of (by rw [field_eq]; omega)
  have f2 : field ww 14 13 = hintCode rh := by rw [field_eq]; omega
  have f3 : field ww 31 19 = off.toNat := by rw [field_eq]; omega
  have f4 : field ww 9 7 = spaceCode sp := by rw [field_eq]; omega
  have f5 : flagAt ww 6 = false := flag_of (by rw [field_eq]; show _ = 0; omega)
  have f6 : field ww 12 10 = ldSizeCode sz := by rw [field_eq]; omega
  have f7 : field ww 18 15 = 0 := by rw [field_eq]; omega
  exact lane32 (by omega) (by omega) (by simp [decodeS32, decodeMem, withCode, need, show wfMem d sp rh = true from h, f0, f1, f2, f3, f4, f5, f6, f7])

theorem RoundTrip.st (d : Bool) (sp : Space) (sz : StSize) (rh : Hint) (g : Guard) (off : BitVec 13) : Statement (.st d sp sz rh g off) := by
  obtain ⟨ww, hW⟩ : ∃ ww, ww = 0x11 + bit d * 2 ^ 5 + 2 ^ 6 + spaceCode sp * 2 ^ 7 + stSizeCode sz * 2 ^ 10 + hintCode rh * 2 ^ 13 + guardBits g 15 18 + off.toNat * 2 ^ 19 := ⟨_, rfl⟩
  refine of_word (w := ww) (by rw [hW]; rfl) fun h => ?_
  simp only [guardBits, mWord] at hW
  have := bit_le d
  have := spaceCode_lt sp
  have := stSizeCode_lt sz
  have := hintCode_lt rh
  have := off.isLt
  have := bit_le g.neg
  have := g.p.isLt
  have f0 : field ww 4 2 = 4 := by rw [field_eq]; omega
  have f1 : flagAt ww 5 = d := flag_of (by rw [field_eq]; omega)
  have f2 : field ww 14 13 = hintCode rh := by rw [field_eq]; omega
  have f3 : field ww 31 19 = off.toNat := by rw [field_eq]; omega
  have f4 : field ww 9 7 = spaceCode sp := by rw [field_eq]; omega
  have f5 : flagAt ww 6 = true := flag_of (by rw [field_eq]; show _ = 1; omega)
  have f6 : field ww 12 10 = stSizeCode sz := by rw [field_eq]; omega
  have f7 : guardAt ww 15 18 = g := guard_of (by rw [field_eq]; omega) (by rw [field_eq]; omega)
  exact lane32 (by omega) (by omega) (by simp [decodeS32, decodeMem, withCode, need, show wfMem d sp rh = true from h, f0, f1, f2, f3, f4, f5, f6, f7])

theorem RoundTrip.atom (d : Bool) (op : AtomOp) (sp : Space) (w64 : Bool) (g : Guard) (ret : Bool) (off : BitVec 13) : Statement (.atom d op sp w64 g ret off) := by
  obtain ⟨ww, hW⟩ : ∃ ww, ww = 0x15 + bit d * 2 ^ 5 + atomCode op * 2 ^ 6 + spaceCode sp * 2 ^ 10 + bit w64 * 2 ^ 13 + guardBits g 14 17 + bit ret * 2 ^ 18 + off.toNat * 2 ^ 19 := ⟨_, rfl⟩
  refine of_word (w := ww) (by rw [hW]; rfl) fun h => ?_
  simp only [guardBits, mWord] at hW
  have := bit_le d
  have := atomCode_lt op
  have := spaceCode_lt sp
  have := bit_le w64
  have := bit_le ret
  have := off.isLt
  have := bit_le g.neg
  have := g.p.isLt
  have f0 : field ww 4 2 = 5 := by rw [field_eq]; omega
  have f1 : field ww 9 6 = atomCode op := by rw [field_eq]; omega
  have f2 : field ww 12 10 = spaceCode sp := by rw [field_eq]; omega
  have f3 : flagAt ww 5 = d := flag_of (by rw [field_eq]; omega)
  have f4 : flagAt ww 13 = w64 := flag_of (by rw [field_eq]; omega)
  have f5 : guardAt ww 14 17 = g := guard_of (by rw [field_eq]; omega) (by rw [field_eq]; omega)
  have f6 : flagAt ww 18 = ret := flag_of (by rw [field_eq]; omega)
  have f7 : field ww 31 19 = off.toNat := by rw [field_eq]; omega
  exact lane32 (by omega) (by omega) (by simp [decodeS32, decodeAtom, withCode, need, show sp ≠ .l by simpa using (show (sp != .l) = true from h), f0, f1, f2, f3, f4, f5, f6, f7])

theorem RoundTrip.perm (ty : Ty) : Statement (.perm ty) := by
  obtain ⟨ww, hW⟩ : ∃ ww, ww = xlnWord 0 0 0 false (tyCode ty) := ⟨_, rfl⟩
  refine of_word (w := ww) (by rw [hW]; rfl) fun h => ?_
  have := tyCode_lt ty
  obtain ⟨h4, hw, f0, f1, f2, f3, f4, f5⟩ := xln_fields hW (by omega)
  exact lane32 h4 hw (by simp [decodeS32, f0, decodeXln, f1, f2, f3, f4, f5, andThen, withCode, need, needTy, show ty.isNarrow = false by simpa using (show (!ty.isNarrow) = true from h), show tyCode ty < 16 by omega])

theorem RoundTrip.bcast (ty : Ty) : Statement (.bcast ty) := by
  obtain ⟨ww, hW⟩ : ∃ ww, ww = xlnWord 1 0 0 false (tyCode ty) := ⟨_, rfl⟩
  refine of_word (w := ww) (by rw [hW]; rfl) fun h => ?_
  have := tyCode_lt ty
  obtain ⟨h4, hw, f0, f1, f2, f3, f4, f5⟩ := xln_fields hW (by omega)
  exact lane32 h4 hw (by simp [decodeS32, f0, decodeXln, f1, f2, f3, f4, f5, andThen, withCode, need, needTy, show ty.isNarrow = false by simpa using (show (!ty.isNarrow) = true from h), show tyCode ty < 16 by omega])

theorem RoundTrip.vote (k : VoteKind) (pd : Fin 8) (neg : Bool) : Statement (.vote k pd neg) := by
  obtain ⟨ww, hW⟩ : ∃ ww, ww = xlnWord 2 0 pd.val neg (voteCode k) := ⟨_, rfl⟩
  refine of_word (w := ww) (by rw [hW]; rfl) fun h => ?_
  have := pd.isLt
  have := voteCode_lt k
  obtain ⟨h4, hw, f0, f1, f2, f3, f4, f5⟩ := xln_fields hW (by omega)
  exact lane32 h4 hw (by simp [decodeS32, f0, decodeXln, f1, f2, f3, f4, f5, andThen, withCode, need, needTy])

theorem RoundTrip.red (op : RedOp) (ty : Ty) : Statement (.red op ty) := by
  obtain ⟨ww, hW⟩ : ∃ ww, ww = xlnWord 4 (redCode op) 0 false (tyCode ty) := ⟨_, rfl⟩
  refine of_word (w := ww) (by rw [hW]; rfl) fun h => ?_
  have := tyCode_lt ty
  have := redCode_lt op
  obtain ⟨h4, hw, f0, f1, f2, f3, f4, f5⟩ := xln_fields hW (by omega)
  exact lane32 h4 hw (by simp [decodeS32, f0, decodeXln, f1, f2, f3, f4, f5, andThen, withCode, need, needTy, show wfRed op ty = true from h, show tyCode ty < 16 by omega])

theorem RoundTrip.scan (op : RedOp) (ty : Ty) (excl : Bool) : Statement (.scan op ty excl) := by
  obtain ⟨ww, hW⟩ : ∃ ww, ww = xlnWord 5 (redCode op) 0 false (tyCode ty + bit excl * 16) := ⟨_, rfl⟩
  refine of_word (w := ww) (by rw [hW]; rfl) fun h => ?_
  have e1 : tyCode ty + bit excl * 16 < 32 := by have := tyCode_lt ty; have := bit_le excl; omega
  have e2 : (tyCode ty + bit excl * 16) % 16 = tyCode ty := by have := tyCode_lt ty; omega
  have e3 : decide (16 ≤ tyCode ty + bit excl * 16) = excl := by have := tyCode_lt ty; cases excl <;> simp [bit] <;> omega
  have := tyCode_lt ty
  have := redCode_lt op
  have := bit_le excl
  obtain ⟨h4, hw, f0, f1, f2, f3, f4, f5⟩ := xln_fields hW (by omega)
  exact lane32 h4 hw (by simp [decodeS32, f0, decodeXln, f1, f2, f3, f4, f5, andThen, withCode, need, needTy, show wfRed op ty = true from h, e1, e2, e3])

theorem RoundTrip.xput (x : Fin 16) : Statement (.xput x) := by
  obtain ⟨ww, hW⟩ : ∃ ww, ww = xlnWord 6 x.val 0 false 0 := ⟨_, rfl⟩
  refine of_word (w := ww) (by rw [hW]; rfl) fun h => ?_
  have := x.isLt
  obtain ⟨h4, hw, f0, f1, f2, f3, f4, f5⟩ := xln_fields hW (by omega)
  exact lane32 h4 hw (by simp [decodeS32, f0, decodeXln, f1, f2, f3, f4, f5, andThen, withCode, need, needTy])

theorem RoundTrip.xget (x : Fin 16) : Statement (.xget x) := by
  obtain ⟨ww, hW⟩ : ∃ ww, ww = xlnWord 7 x.val 0 false 0 := ⟨_, rfl⟩
  refine of_word (w := ww) (by rw [hW]; rfl) fun h => ?_
  have := x.isLt
  obtain ⟨h4, hw, f0, f1, f2, f3, f4, f5⟩ := xln_fields hW (by omega)
  exact lane32 h4 hw (by simp [decodeS32, f0, decodeXln, f1, f2, f3, f4, f5, andThen, withCode, need, needTy])

theorem RoundTrip.barArrive (b : Fin 16) (absent : Bool) (gang : Bool) : Statement (.barArrive b absent gang) := by
  obtain ⟨ww, hW⟩ : ∃ ww, ww = xlnWord 8 b.val 0 false (bit absent + bit gang * 2) := ⟨_, rfl⟩
  refine of_word (w := ww) (by rw [hW]; rfl) fun h => ?_
  have := b.isLt
  have := bit_le absent
  have := bit_le gang
  obtain ⟨h4, hw, f0, f1, f2, f3, f4, f5⟩ := xln_fields hW (by omega)
  refine lane32 h4 hw ?_
  simp only [decodeS32, f0, decodeXln, f1, f2, f3, f4, f5, idx_val]
  cases absent <;> cases gang <;> rfl

theorem RoundTrip.barWait (b : Fin 16) (gang : Bool) : Statement (.barWait b gang) := by
  obtain ⟨ww, hW⟩ : ∃ ww, ww = xlnWord 9 b.val 0 false (bit gang * 2) := ⟨_, rfl⟩
  refine of_word (w := ww) (by rw [hW]; rfl) fun h => ?_
  have := b.isLt
  have := bit_le gang
  obtain ⟨h4, hw, f0, f1, f2, f3, f4, f5⟩ := xln_fields hW (by omega)
  refine lane32 h4 hw ?_
  simp only [decodeS32, f0, decodeXln, f1, f2, f3, f4, f5, idx_val]
  cases gang <;> rfl

theorem RoundTrip.gangPhaseComplete (ctx : Fin 8) (gang : Nat) (b : Fin 16) : Statement (.gangPhaseComplete ctx gang b) := event rfl

theorem RoundTrip.seam (j : Fin 8) : Statement (.seam j) := by
  obtain ⟨ww, hW⟩ : ∃ ww, ww = xlnWord 10 j.val 0 false 0 := ⟨_, rfl⟩
  refine of_word (w := ww) (by rw [hW]; rfl) fun h => ?_
  have := j.isLt
  obtain ⟨h4, hw, f0, f1, f2, f3, f4, f5⟩ := xln_fields hW (by omega)
  exact lane32 h4 hw (by simp [decodeS32, f0, decodeXln, f1, f2, f3, f4, f5, andThen, withCode, need, needTy])

theorem RoundTrip.mend (j : Fin 8) (delta : BitVec 5) : Statement (.mend j delta) := by
  obtain ⟨ww, hW⟩ : ∃ ww, ww = xlnWord 11 j.val 0 false delta.toNat := ⟨_, rfl⟩
  refine of_word (w := ww) (by rw [hW]; rfl) fun h => ?_
  have := j.isLt
  have := delta.isLt
  obtain ⟨h4, hw, f0, f1, f2, f3, f4, f5⟩ := xln_fields hW (by omega)
  exact lane32 h4 hw (by simp [decodeS32, f0, decodeXln, f1, f2, f3, f4, f5, andThen, withCode, need, needTy, show delta.toNat < 32 by omega])

theorem RoundTrip.lostReconvergenceRelease (core : Nat) (gslot : Nat) : Statement (.lostReconvergenceRelease core gslot) := event rfl

theorem RoundTrip.plog (tbl : BitVec 4) (pd : Fin 8) (neg : Bool) (a : Fin 8) (b : Fin 8) : Statement (.plog tbl pd neg a b) := by
  obtain ⟨ww, hW⟩ : ∃ ww, ww = xlnWord 14 tbl.toNat pd.val neg (a.val + b.val * 8) := ⟨_, rfl⟩
  refine of_word (w := ww) (by rw [hW]; rfl) fun h => ?_
  have e1 : a.val + b.val * 8 < 64 := by have := a.isLt; have := b.isLt; omega
  have e2 : idx 8 (a.val % 8) = a := by
    rw [show a.val % 8 = a.val by have := a.isLt; omega, idx_val]
  have e3 : idx 8 ((a.val + b.val * 8) / 8) = b := by
    rw [show (a.val + b.val * 8) / 8 = b.val by have := a.isLt; omega, idx_val]
  have := tbl.isLt
  have := pd.isLt
  have := a.isLt
  have := b.isLt
  obtain ⟨h4, hw, f0, f1, f2, f3, f4, f5⟩ := xln_fields hW (by omega)
  exact lane32 h4 hw (by simp [decodeS32, f0, decodeXln, f1, f2, f3, f4, f5, andThen, withCode, need, needTy, e1, e2, e3])

theorem RoundTrip.wait (l : BitVec 6) (s : BitVec 6) (c : BitVec 5) (t : BitVec 5) : Statement (.wait l s c t) := by
  obtain ⟨ww, hW⟩ : ∃ ww, ww = 0x1D + l.toNat * 2 ^ 10 + s.toNat * 2 ^ 16 + c.toNat * 2 ^ 22 + t.toNat * 2 ^ 27 := ⟨_, rfl⟩
  refine of_word (w := ww) (by rw [hW]; rfl) fun h => ?_
  have := l.isLt
  have := s.isLt
  have := c.isLt
  have := t.isLt
  have f0 : field ww 4 2 = 7 := by rw [field_eq]; omega
  have f1 : field ww 9 5 = 0 := by rw [field_eq]; omega
  have f2 : field ww 15 10 = l.toNat := by rw [field_eq]; omega
  have f3 : field ww 21 16 = s.toNat := by rw [field_eq]; omega
  have f4 : field ww 26 22 = c.toNat := by rw [field_eq]; omega
  have f5 : field ww 31 27 = t.toNat := by rw [field_eq]; omega
  exact lane32 (by omega) (by omega) (by simp [decodeS32, decodeEng, f0, f1, f2, f3, f4, f5])

theorem RoundTrip.tld (v : Fin 16) : Statement (.tld v) := by
  obtain ⟨ww, hW⟩ : ∃ ww, ww = engWord 1 v.val 0 := ⟨_, rfl⟩
  refine of_word (w := ww) (by rw [hW]; rfl) fun h => ?_
  have := v.isLt
  obtain ⟨h4, hw, f0, f1, f2, f3, f4⟩ := eng_fields hW (by omega)
  exact lane32 h4 hw (by simp [decodeS32, f0, decodeEng, f1, f2, f3, f4, andThen, withCode, need])

theorem RoundTrip.tst (v : Fin 16) : Statement (.tst v) := by
  obtain ⟨ww, hW⟩ : ∃ ww, ww = engWord 2 v.val 0 := ⟨_, rfl⟩
  refine of_word (w := ww) (by rw [hW]; rfl) fun h => ?_
  have := v.isLt
  obtain ⟨h4, hw, f0, f1, f2, f3, f4⟩ := eng_fields hW (by omega)
  exact lane32 h4 hw (by simp [decodeS32, f0, decodeEng, f1, f2, f3, f4, andThen, withCode, need])

theorem RoundTrip.xfer (v : Fin 16) : Statement (.xfer v) := by
  obtain ⟨ww, hW⟩ : ∃ ww, ww = engWord 3 v.val 0 := ⟨_, rfl⟩
  refine of_word (w := ww) (by rw [hW]; rfl) fun h => ?_
  have := v.isLt
  obtain ⟨h4, hw, f0, f1, f2, f3, f4⟩ := eng_fields hW (by omega)
  exact lane32 h4 hw (by simp [decodeS32, f0, decodeEng, f1, f2, f3, f4, andThen, withCode, need])

theorem RoundTrip.ringSub (q : Fin 16) (v : Fin 16) : Statement (.ringSub q v) := by
  obtain ⟨ww, hW⟩ : ∃ ww, ww = engWord 4 q.val v.val := ⟨_, rfl⟩
  refine of_word (w := ww) (by rw [hW]; rfl) fun h => ?_
  have := q.isLt
  have := v.isLt
  obtain ⟨h4, hw, f0, f1, f2, f3, f4⟩ := eng_fields hW (by omega)
  exact lane32 h4 hw (by simp [decodeS32, f0, decodeEng, f1, f2, f3, f4, andThen, withCode, need, v.isLt])

theorem RoundTrip.ringDrain (q : Fin 16) (v : Fin 16) : Statement (.ringDrain q v) := by
  obtain ⟨ww, hW⟩ : ∃ ww, ww = engWord 5 q.val v.val := ⟨_, rfl⟩
  refine of_word (w := ww) (by rw [hW]; rfl) fun h => ?_
  have := q.isLt
  have := v.isLt
  obtain ⟨h4, hw, f0, f1, f2, f3, f4⟩ := eng_fields hW (by omega)
  exact lane32 h4 hw (by simp [decodeS32, f0, decodeEng, f1, f2, f3, f4, andThen, withCode, need, v.isLt])

theorem RoundTrip.ringGet (q : Fin 16) : Statement (.ringGet q) := by
  obtain ⟨ww, hW⟩ : ∃ ww, ww = engWord 6 q.val 0 := ⟨_, rfl⟩
  refine of_word (w := ww) (by rw [hW]; rfl) fun h => ?_
  have := q.isLt
  obtain ⟨h4, hw, f0, f1, f2, f3, f4⟩ := eng_fields hW (by omega)
  exact lane32 h4 hw (by simp [decodeS32, f0, decodeEng, f1, f2, f3, f4, andThen, withCode, need])

theorem RoundTrip.ringPut (q : Fin 16) (g : Guard) : Statement (.ringPut q g) := by
  obtain ⟨ww, hW⟩ : ∃ ww, ww = engGuardWord 7 q.val g 0 := ⟨_, rfl⟩
  refine of_word (w := ww) (by rw [hW]; rfl) fun h => ?_
  have := q.isLt
  obtain ⟨h4, hw, f0, f1, f2, f3, f4⟩ := engGuard_fields hW (by omega)
  exact lane32 h4 hw (by simp [decodeS32, f0, decodeEng, f1, f2, f3, f4, andThen, withCode, need])

theorem RoundTrip.ringDone (q : Fin 16) (g : Guard) : Statement (.ringDone q g) := by
  obtain ⟨ww, hW⟩ : ∃ ww, ww = engGuardWord 8 q.val g 0 := ⟨_, rfl⟩
  refine of_word (w := ww) (by rw [hW]; rfl) fun h => ?_
  have := q.isLt
  obtain ⟨h4, hw, f0, f1, f2, f3, f4⟩ := engGuard_fields hW (by omega)
  exact lane32 h4 hw (by simp [decodeS32, f0, decodeEng, f1, f2, f3, f4, andThen, withCode, need])

theorem RoundTrip.ringEos (q : Fin 16) (g : Guard) : Statement (.ringEos q g) := by
  obtain ⟨ww, hW⟩ : ∃ ww, ww = engGuardWord 9 q.val g 0 := ⟨_, rfl⟩
  refine of_word (w := ww) (by rw [hW]; rfl) fun h => ?_
  have := q.isLt
  obtain ⟨h4, hw, f0, f1, f2, f3, f4⟩ := engGuard_fields hW (by omega)
  exact lane32 h4 hw (by simp [decodeS32, f0, decodeEng, f1, f2, f3, f4, andThen, withCode, need])

theorem RoundTrip.taskDone (g : Guard) : Statement (.taskDone g) := by
  obtain ⟨ww, hW⟩ : ∃ ww, ww = engGuardWord 12 0 g 0 := ⟨_, rfl⟩
  refine of_word (w := ww) (by rw [hW]; rfl) fun h => ?_
  obtain ⟨h4, hw, f0, f1, f2, f3, f4⟩ := engGuard_fields hW (by omega)
  exact lane32 h4 hw (by simp [decodeS32, f0, decodeEng, f1, f2, f3, f4, andThen, withCode, need])

theorem RoundTrip.taskArm (g : Guard) : Statement (.taskArm g) := by
  obtain ⟨ww, hW⟩ : ∃ ww, ww = engGuardWord 13 0 g 0 := ⟨_, rfl⟩
  refine of_word (w := ww) (by rw [hW]; rfl) fun h => ?_
  obtain ⟨h4, hw, f0, f1, f2, f3, f4⟩ := engGuard_fields hW (by omega)
  exact lane32 h4 hw (by simp [decodeS32, f0, decodeEng, f1, f2, f3, f4, andThen, withCode, need])

theorem RoundTrip.wqPush (w : Fin 16) (g : Guard) : Statement (.wqPush w g) := by
  obtain ⟨ww, hW⟩ : ∃ ww, ww = engGuardWord 14 w.val g 0 := ⟨_, rfl⟩
  refine of_word (w := ww) (by rw [hW]; rfl) fun h => ?_
  have := w.isLt
  obtain ⟨h4, hw, f0, f1, f2, f3, f4⟩ := engGuard_fields hW (by omega)
  exact lane32 h4 hw (by simp [decodeS32, f0, decodeEng, f1, f2, f3, f4, andThen, withCode, need])

theorem RoundTrip.wqPushTry (w : Fin 16) (g : Guard) (r : Fin 8) : Statement (.wqPushTry w g r) := by
  obtain ⟨ww, hW⟩ : ∃ ww, ww = engGuardWord 14 w.val g (1 + r.val * 2) := ⟨_, rfl⟩
  refine of_word (w := ww) (by rw [hW]; rfl) fun h => ?_
  have e1 : 1 + r.val * 2 < 16 := by have := r.isLt; omega
  have e2 : (1 + r.val * 2) % 2 = 1 := by omega
  have e3 : idx 8 ((1 + r.val * 2) / 2) = r := by rw [show (1 + r.val * 2) / 2 = r.val by omega, idx_val]
  have := w.isLt
  have := r.isLt
  obtain ⟨h4, hw, f0, f1, f2, f3, f4⟩ := engGuard_fields hW (by omega)
  exact lane32 h4 hw (by simp [decodeS32, f0, decodeEng, f1, f2, f3, f4, andThen, withCode, need, e1, e2, e3])

theorem RoundTrip.wqPop (w : Fin 16) (g : Guard) : Statement (.wqPop w g) := by
  obtain ⟨ww, hW⟩ : ∃ ww, ww = engGuardWord 15 w.val g 0 := ⟨_, rfl⟩
  refine of_word (w := ww) (by rw [hW]; rfl) fun h => ?_
  have := w.isLt
  obtain ⟨h4, hw, f0, f1, f2, f3, f4⟩ := engGuard_fields hW (by omega)
  exact lane32 h4 hw (by simp [decodeS32, f0, decodeEng, f1, f2, f3, f4, andThen, withCode, need])

theorem RoundTrip.wqPopTry (w : Fin 16) (g : Guard) (r : Fin 8) : Statement (.wqPopTry w g r) := by
  obtain ⟨ww, hW⟩ : ∃ ww, ww = engGuardWord 15 w.val g (1 + r.val * 2) := ⟨_, rfl⟩
  refine of_word (w := ww) (by rw [hW]; rfl) fun h => ?_
  have e1 : 1 + r.val * 2 < 16 := by have := r.isLt; omega
  have e2 : (1 + r.val * 2) % 2 = 1 := by omega
  have e3 : idx 8 ((1 + r.val * 2) / 2) = r := by rw [show (1 + r.val * 2) / 2 = r.val by omega, idx_val]
  have := w.isLt
  have := r.isLt
  obtain ⟨h4, hw, f0, f1, f2, f3, f4⟩ := engGuard_fields hW (by omega)
  exact lane32 h4 hw (by simp [decodeS32, f0, decodeEng, f1, f2, f3, f4, andThen, withCode, need, e1, e2, e3])

theorem RoundTrip.spawn (e : Fin 64) (n : Fin 5) (g : Guard) : Statement (.spawn e n g) := by
  obtain ⟨ww, hW⟩ : ∃ ww, ww = engGuardWord 16 (e.val % 16) g (e.val / 16 + n.val * 4) := ⟨_, rfl⟩
  refine of_word (w := ww) (by rw [hW]; rfl) fun h => ?_
  have he := e.isLt
  have hn := n.isLt
  have e1 : e.val / 16 + n.val * 4 < 64 := by omega
  have e2 : (e.val / 16 + n.val * 4) / 4 % 8 = n.val := by omega
  have e3 : (e.val / 16 + n.val * 4) / 32 = 0 := by omega
  have e4 : idx 64 (e.val / 16 % 4 * 16 + e.val % 16) = e := by
    rw [show e.val / 16 % 4 * 16 + e.val % 16 = e.val by omega, idx_val]
  obtain ⟨h4, hw, f0, f1, f2, f3, f4⟩ := engGuard_fields hW (by omega)
  exact lane32 h4 hw (by simp [decodeS32, f0, decodeEng, f1, f2, f3, f4, andThen, withCode, need, e1, e2, e3, e4, hn])

theorem RoundTrip.spawnTry (e : Fin 64) (n : Fin 5) (g : Guard) : Statement (.spawnTry e n g) := by
  obtain ⟨ww, hW⟩ : ∃ ww, ww = engGuardWord 16 (e.val % 16) g (e.val / 16 + n.val * 4 + 32) := ⟨_, rfl⟩
  refine of_word (w := ww) (by rw [hW]; rfl) fun h => ?_
  have he := e.isLt
  have hn := n.isLt
  have e1 : e.val / 16 + n.val * 4 + 32 < 64 := by omega
  have e2 : (e.val / 16 + n.val * 4 + 32) / 4 % 8 = n.val := by omega
  have e3 : (e.val / 16 + n.val * 4 + 32) / 32 = 1 := by omega
  have e4 : idx 64 ((e.val / 16 + n.val * 4 + 32) % 4 * 16 + e.val % 16) = e := by
    rw [show (e.val / 16 + n.val * 4 + 32) % 4 * 16 + e.val % 16 = e.val by omega, idx_val]
  obtain ⟨h4, hw, f0, f1, f2, f3, f4⟩ := engGuard_fields hW (by omega)
  exact lane32 h4 hw (by simp [decodeS32, f0, decodeEng, f1, f2, f3, f4, andThen, withCode, need, e1, e2, e3, e4, hn, show g.p ≠ 0 by simpa using (show (g.p != 0) = true from h)])

theorem RoundTrip.acq (a : Fin 16) : Statement (.acq a) := by
  obtain ⟨ww, hW⟩ : ∃ ww, ww = engWord 18 a.val 0 := ⟨_, rfl⟩
  refine of_word (w := ww) (by rw [hW]; rfl) fun h => ?_
  have := a.isLt
  obtain ⟨h4, hw, f0, f1, f2, f3, f4⟩ := eng_fields hW (by omega)
  exact lane32 h4 hw (by simp [decodeS32, f0, decodeEng, f1, f2, f3, f4, andThen, withCode, need])

theorem RoundTrip.rel (a : Fin 16) : Statement (.rel a) := by
  obtain ⟨ww, hW⟩ : ∃ ww, ww = engWord 19 a.val 0 := ⟨_, rfl⟩
  refine of_word (w := ww) (by rw [hW]; rfl) fun h => ?_
  have := a.isLt
  obtain ⟨h4, hw, f0, f1, f2, f3, f4⟩ := eng_fields hW (by omega)
  exact lane32 h4 hw (by simp [decodeS32, f0, decodeEng, f1, f2, f3, f4, andThen, withCode, need])

theorem RoundTrip.accLd (a : Fin 16) : Statement (.accLd a) := by
  obtain ⟨ww, hW⟩ : ∃ ww, ww = engWord 20 a.val 0 := ⟨_, rfl⟩
  refine of_word (w := ww) (by rw [hW]; rfl) fun h => ?_
  have := a.isLt
  obtain ⟨h4, hw, f0, f1, f2, f3, f4⟩ := eng_fields hW (by omega)
  exact lane32 h4 hw (by simp [decodeS32, f0, decodeEng, f1, f2, f3, f4, andThen, withCode, need])

theorem RoundTrip.accSt (a : Fin 16) : Statement (.accSt a) := by
  obtain ⟨ww, hW⟩ : ∃ ww, ww = engWord 21 a.val 0 := ⟨_, rfl⟩
  refine of_word (w := ww) (by rw [hW]; rfl) fun h => ?_
  have := a.isLt
  obtain ⟨h4, hw, f0, f1, f2, f3, f4⟩ := eng_fields hW (by omega)
  exact lane32 h4 hw (by simp [decodeS32, f0, decodeEng, f1, f2, f3, f4, andThen, withCode, need])

theorem RoundTrip.mstart (off : BitVec 14) : Statement (.mstart off) := by
  obtain ⟨ww, hW⟩ : ∃ ww, ww = engWord 22 0 off.toNat := ⟨_, rfl⟩
  refine of_word (w := ww) (by rw [hW]; rfl) fun h => ?_
  have := off.isLt
  obtain ⟨h4, hw, f0, f1, f2, f3, f4⟩ := eng_fields hW (by omega)
  exact lane32 h4 hw (by simp [decodeS32, f0, decodeEng, f1, f2, f3, f4, andThen, withCode, need])

theorem RoundTrip.fred (v : Fin 16) (s : Fin 64) : Statement (.fred v s) := by
  obtain ⟨ww, hW⟩ : ∃ ww, ww = engWord 23 v.val s.val := ⟨_, rfl⟩
  refine of_word (w := ww) (by rw [hW]; rfl) fun h => ?_
  have := v.isLt
  have := s.isLt
  obtain ⟨h4, hw, f0, f1, f2, f3, f4⟩ := eng_fields hW (by omega)
  exact lane32 h4 hw (by simp [decodeS32, f0, decodeEng, f1, f2, f3, f4, andThen, withCode, need, s.isLt])

theorem RoundTrip.fence (sc : FenceScope) : Statement (.fence sc) := by
  obtain ⟨ww, hW⟩ : ∃ ww, ww = engWord 24 (scopeCode sc) 0 := ⟨_, rfl⟩
  refine of_word (w := ww) (by rw [hW]; rfl) fun h => ?_
  have := scopeCode_lt sc
  obtain ⟨h4, hw, f0, f1, f2, f3, f4⟩ := eng_fields hW (by omega)
  exact lane32 h4 hw (by simp [decodeS32, f0, decodeEng, f1, f2, f3, f4, andThen, withCode, need])

theorem RoundTrip.fenceComplete (f : FragRef) : Statement (.fenceComplete f) := event rfl

theorem RoundTrip.rdsr (r : BitVec 12) : Statement (.rdsr r) := by
  obtain ⟨ww, hW⟩ : ∃ ww, ww = engWord 25 0 r.toNat := ⟨_, rfl⟩
  refine of_word (w := ww) (by rw [hW]; rfl) fun h => ?_
  have hc : r.toNat ∈ srNumbers := by simpa using (show srNumbers.contains r.toNat = true from h)
  have := r.isLt
  obtain ⟨h4, hw, f0, f1, f2, f3, f4⟩ := eng_fields hW (by omega)
  exact lane32 h4 hw (by simp [decodeS32, f0, decodeEng, f1, f2, f3, f4, andThen, withCode, need, hc])

theorem RoundTrip.wrsr (r : BitVec 12) : Statement (.wrsr r) := by
  obtain ⟨ww, hW⟩ : ∃ ww, ww = engWord 26 0 r.toNat := ⟨_, rfl⟩
  refine of_word (w := ww) (by rw [hW]; rfl) fun h => ?_
  have hc : r.toNat ∈ srNumbers := by simpa using (show srNumbers.contains r.toNat = true from h)
  have := r.isLt
  obtain ⟨h4, hw, f0, f1, f2, f3, f4⟩ := eng_fields hW (by omega)
  exact lane32 h4 hw (by simp [decodeS32, f0, decodeEng, f1, f2, f3, f4, andThen, withCode, need, hc])

theorem RoundTrip.trap (k : Byte) : Statement (.trap k) := by
  obtain ⟨ww, hW⟩ : ∃ ww, ww = engWord 27 0 k.toNat := ⟨_, rfl⟩
  refine of_word (w := ww) (by rw [hW]; rfl) fun h => ?_
  have := k.isLt
  obtain ⟨h4, hw, f0, f1, f2, f3, f4⟩ := eng_fields hW (by omega)
  exact lane32 h4 hw (by simp [decodeS32, f0, decodeEng, f1, f2, f3, f4, andThen, withCode, need, show k.toNat < 256 by omega])

theorem RoundTrip.tret (next : Bool) : Statement (.tret next) := by
  obtain ⟨ww, hW⟩ : ∃ ww, ww = engWord 28 0 (bit next) := ⟨_, rfl⟩
  refine of_word (w := ww) (by rw [hW]; rfl) fun h => ?_
  have := bit_le next
  obtain ⟨h4, hw, f0, f1, f2, f3, f4⟩ := eng_fields hW (by omega)
  refine lane32 h4 hw ?_
  simp only [decodeS32, f0, decodeEng, f1, f2, f3, f4]
  cases next <;> rfl

theorem RoundTrip.mark (k : Fin 16) : Statement (.mark k) := by
  obtain ⟨ww, hW⟩ : ∃ ww, ww = engWord 29 0 k.val := ⟨_, rfl⟩
  refine of_word (w := ww) (by rw [hW]; rfl) fun h => ?_
  have := k.isLt
  obtain ⟨h4, hw, f0, f1, f2, f3, f4⟩ := eng_fields hW (by omega)
  exact lane32 h4 hw (by simp [decodeS32, f0, decodeEng, f1, f2, f3, f4, andThen, withCode, need, k.isLt])

theorem RoundTrip.svc (n : BitVec 14) : Statement (.svc n) := by
  obtain ⟨ww, hW⟩ : ∃ ww, ww = engWord 30 0 n.toNat := ⟨_, rfl⟩
  refine of_word (w := ww) (by rw [hW]; rfl) fun h => ?_
  have := n.isLt
  obtain ⟨h4, hw, f0, f1, f2, f3, f4⟩ := eng_fields hW (by omega)
  exact lane32 h4 hw (by simp [decodeS32, f0, decodeEng, f1, f2, f3, f4, andThen, withCode, need])

theorem RoundTrip.spawnFlush (e : Fin 64) : Statement (.spawnFlush e) := by
  obtain ⟨ww, hW⟩ : ∃ ww, ww = engWord 31 (e.val % 16) (e.val / 16) := ⟨_, rfl⟩
  refine of_word (w := ww) (by rw [hW]; rfl) fun h => ?_
  have e1 : e.val / 16 < 4 := by have := e.isLt; omega
  have e2 : idx 64 (e.val / 16 % 4 * 16 + e.val % 16) = e := by
    rw [show e.val / 16 % 4 * 16 + e.val % 16 = e.val by omega, idx_val]
  have := e.isLt
  obtain ⟨h4, hw, f0, f1, f2, f3, f4⟩ := eng_fields hW (by omega)
  exact lane32 h4 hw (by simp [decodeS32, f0, decodeEng, f1, f2, f3, f4, andThen, withCode, need, e1, e2])

theorem RoundTrip.vset (d : Bool) (f : Fin 15) (v : Fin 16) (imm : BitVec 32) : Statement (.vset d f v imm) := by
  obtain ⟨ww, hW⟩ : ∃ ww, ww = 0x0E + bit d * 2 ^ 5 + v.val * 2 ^ 6 + f.val * 2 ^ 10 + imm.toNat * 2 ^ 16 := ⟨_, rfl⟩
  refine of_word (w := ww) (by rw [hW]; rfl) fun h => ?_
  have hd : d = true → imm = 0#32 := by
    have : (!d || imm == 0) = true := h
    intro e
    simpa [e] using this
  have := bit_le d
  have := f.isLt
  have := v.isLt
  have := imm.isLt
  have f0 : field ww 4 2 = 3 := by rw [field_eq]; omega
  have f1 : flagAt ww 5 = d := flag_of (by rw [field_eq]; omega)
  have f2 : field ww 47 16 = imm.toNat := by rw [field_eq]; omega
  have f3 : field ww 15 14 = 0 := by rw [field_eq]; omega
  have f4 : field ww 13 10 = f.val := by rw [field_eq]; omega
  have f5 : field ww 9 6 = v.val := by rw [field_eq]; omega
  exact lane48 (by omega) (by omega) (by simpa [decodeL48, need, f.isLt, f0, f1, f2, f3, f4, f5] using hd)

theorem RoundTrip.cvt (md : Rm) (src : Ty) (dst : Ty) (d : Bool) : Statement (.cvt md src dst d) := by
  obtain ⟨ww, hW⟩ : ∃ ww, ww = arxWord 0 (tyCode src) (tyCode dst) (rmCode md) d 0 := ⟨_, rfl⟩
  refine of_word (w := ww) (by rw [hW]; rfl) fun h => ?_
  have hc : wfCvt md src dst = true := h
  have hp : wfCvtPair src dst = true := by
    simp only [wfCvt, Bool.and_eq_true] at hc
    exact hc.1
  have := tyCode_lt src
  have := tyCode_lt dst
  have := rmCode_lt md
  obtain ⟨h4, hw, f0, f1, f2, f3, f4, f5, f6, f7⟩ := arx_fields0 hW (by omega)
  exact lane48 h4 hw (by simp [decodeL48, f0, decodeArx, f1, f2, f3, f4, f5, f6, f7, andThen, withCode, need, needTy, hp, hc])

theorem RoundTrip.sel (ty : Ty) (g : Guard) (d : Bool) : Statement (.sel ty g d) := by
  obtain ⟨ww, hW⟩ : ∃ ww, ww = arxWord 1 (tyCode ty) 0 0 d 0 + guardBits g 22 25 := ⟨_, rfl⟩
  refine of_word (w := ww) (by rw [hW]; rfl) fun h => ?_
  have := tyCode_lt ty
  have := bit_le g.neg
  have := g.p.isLt
  have e : guardBits g 22 25 = (g.p.val + bit g.neg * 8) * 2 ^ 22 := by simp only [guardBits]; omega
  rw [e] at hW
  obtain ⟨h4, hw, f0, f1, f2, f3, f4, f5, f6, f7⟩ := arx_fields hW (by omega)
  have fg : guardAt ww 22 25 = g := guard_of (by rw [field_eq] at *; omega) (by rw [field_eq] at *; omega)
  exact lane48 h4 hw (by
    simp [decodeL48, f0, decodeArx, f1, f2, f3, f4, f5, f7, fg, andThen, withCode, needTy, rmOfCode,
      show ty.isNarrow = false by simpa using (show (!ty.isNarrow) = true from h)])

theorem RoundTrip.amul (md : Rm) (dim : Dim) (t : Fin 4) (rev : Bool) (d : Bool) : Statement (.amul md dim t rev d) := by
  obtain ⟨ww, hW⟩ : ∃ ww, ww = arxWord 2 3 0 (rmCode md) d (dimCode dim + t.val * 4 + bit rev * 16) := ⟨_, rfl⟩
  refine of_word (w := ww) (by rw [hW]; rfl) fun h => ?_
  have e1 : dimCode dim + t.val * 4 + bit rev * 16 < 32 := by have := dimCode_lt dim; have := t.isLt; have := bit_le rev; omega
  have e2 : (dimCode dim + t.val * 4 + bit rev * 16) % 4 = dimCode dim := by have := dimCode_lt dim; omega
  have e3 : idx 4 ((dimCode dim + t.val * 4 + bit rev * 16) / 4) = t := by
    have := dimCode_lt dim
    have ht := t.isLt
    apply Fin.ext
    simp only [idx, Fin.ofNat]
    omega
  have e4 : ((dimCode dim + t.val * 4 + bit rev * 16) / 16 == 1) = rev := by
    have := dimCode_lt dim
    have ht := t.isLt
    cases rev <;> simp [bit] <;> omega
  have := tyCode_lt .f32
  have := dimCode_lt dim
  have := rmCode_lt md
  have := t.isLt
  have := bit_le rev
  obtain ⟨h4, hw, f0, f1, f2, f3, f4, f5, f6, f7⟩ := arx_fields0 hW (by omega)
  exact lane48 h4 hw (by simp [decodeL48, f0, decodeArx, f1, f2, f3, f4, f5, f6, f7, andThen, withCode, need, needTy, e1, e2, e3, e4, tyOfCode])

theorem RoundTrip.qcvt (src : Ty) (dst : Ty) (half : BitVec 6) : Statement (.qcvt src dst half) := by
  obtain ⟨ww, hW⟩ : ∃ ww, ww = arxWord 3 (tyCode src) (tyCode dst) 0 false half.toNat := ⟨_, rfl⟩
  refine of_word (w := ww) (by rw [hW]; rfl) fun h => ?_
  replace h : ((src == .f32 || src == .h2 || src == .bh2) && dst.isNarrow && decide (1 ≤ half.toNat) && decide (half.toNat ≤ 32)) = true := h
  simp only [Bool.and_eq_true, decide_eq_true_eq] at h
  have := tyCode_lt src
  have := tyCode_lt dst
  have := half.isLt
  obtain ⟨h4, hw, f0, f1, f2, f3, f4, f5, f6, f7⟩ := arx_fields0 hW (by omega)
  exact lane48 h4 hw (by simp [decodeL48, f0, decodeArx, f1, f2, f3, f4, f5, f6, f7, andThen, withCode, need, needTy, h.1.1.1, h.1.1.2, h.1.2, h.2, rmOfCode])

theorem RoundTrip.pick (n : BitVec 11) (d : Bool) : Statement (.pick n d) := by
  obtain ⟨ww, hW⟩ : ∃ ww, ww = arxWord 4 0 0 0 d n.toNat := ⟨_, rfl⟩
  refine of_word (w := ww) (by rw [hW]; rfl) fun h => ?_
  replace h : (n.toNat < 1032 && (!d || n.toNat < 32)) = true := h
  simp only [Bool.and_eq_true, decide_eq_true_eq] at h
  have := n.isLt
  obtain ⟨h4, hw, f0, f1, f2, f3, f4, f5, f6, f7⟩ := arx_fields0 hW (by omega)
  exact lane48 h4 hw (by simp [decodeL48, f0, decodeArx, f1, f2, f3, f4, f5, f6, f7, andThen, withCode, need, needTy, h.1, h.2, rmOfCode])

theorem RoundTrip.roll (n : BitVec 11) (d : Bool) : Statement (.roll n d) := by
  obtain ⟨ww, hW⟩ : ∃ ww, ww = arxWord 5 0 0 0 d n.toNat := ⟨_, rfl⟩
  refine of_word (w := ww) (by rw [hW]; rfl) fun h => ?_
  replace h : (n.toNat < 1032 && (!d || n.toNat < 32)) = true := h
  simp only [Bool.and_eq_true, decide_eq_true_eq] at h
  have := n.isLt
  obtain ⟨h4, hw, f0, f1, f2, f3, f4, f5, f6, f7⟩ := arx_fields0 hW (by omega)
  exact lane48 h4 hw (by simp [decodeL48, f0, decodeArx, f1, f2, f3, f4, f5, f6, f7, andThen, withCode, need, needTy, h.1, h.2, rmOfCode])

theorem RoundTrip.region (base : BitVec 11) (count : BitVec 12) : Statement (.region base count) := by
  obtain ⟨ww, hW⟩ : ∃ ww, ww = arxWord 6 (count.toNat / 2048) 0 0 false (base.toNat + count.toNat % 2048 * 2048) := ⟨_, rfl⟩
  refine of_word (w := ww) (by rw [hW]; rfl) fun h => ?_
  have e1 : count.toNat / 2048 < 2 := by have := count.isLt; omega
  have e2 : BitVec.ofNat 11 (base.toNat % 2048) = base := by
    rw [show base.toNat % 2048 = base.toNat by have := base.isLt; omega, ofNat_toNat_self]
  have e3 : BitVec.ofNat 12 (count.toNat / 2048 * 2048 + (base.toNat + count.toNat % 2048 * 2048) / 2048) = count := by
    rw [show count.toNat / 2048 * 2048 + (base.toNat + count.toNat % 2048 * 2048) / 2048 = count.toNat by
      have := base.isLt
      omega, ofNat_toNat_self]
  have := base.isLt
  have := count.isLt
  obtain ⟨h4, hw, f0, f1, f2, f3, f4, f5, f6, f7⟩ := arx_fields0 hW (by omega)
  exact lane48 h4 hw (by simp [decodeL48, f0, decodeArx, f1, f2, f3, f4, f5, f6, f7, andThen, withCode, need, needTy, e1, e2, e3, rmOfCode])

theorem RoundTrip.loadDataReturn (op : Nat) : Statement (.loadDataReturn op) := event rfl

theorem RoundTrip.starvationPromotion (f : FragRef) : Statement (.starvationPromotion f) := event rfl

theorem RoundTrip.translationResolved (f : FragRef) : Statement (.translationResolved f) := event rfl

theorem RoundTrip.page (f : FragRef) : Statement (.page f) := event rfl

theorem RoundTrip.fetchFill (core : Nat) (line : Nat) : Statement (.fetchFill core line) := event rfl

theorem RoundTrip.engineOpComplete (op : Nat) : Statement (.engineOpComplete op) := event rfl

theorem RoundTrip.engineOpStart (op : Nat) : Statement (.engineOpStart op) := event rfl

theorem RoundTrip.mma (x : MmaArgs) : Statement (.mma x) := by
  obtain ⟨ww, hW⟩ : ∃ ww, ww = mWord 0x01 x.c.val + x.a.val * 2 ^ 12 + bit x.aa * 2 ^ 17 + x.b.val * 2 ^ 18 + bit x.bq * 2 ^ 23 + dcfCode x.dcf * 2 ^ 24 + rmCode x.rm * 2 ^ 27 + x.alg.val * 2 ^ 30 + bit x.rev * 2 ^ 34 + bit x.zero * 2 ^ 35 + bit x.ta * 2 ^ 36 + bit x.tb * 2 ^ 37 + x.mc.val * 2 ^ 38 + x.nc.val * 2 ^ 40 + x.kq.toNat * 2 ^ 42 + x.x5.val * 2 ^ 54 + bit x.rd * 2 ^ 59 := ⟨_, rfl⟩
  refine of_word (w := ww) (by rw [hW]; rfl) fun h => ?_
  simp only [guardBits, mWord] at hW
  have := x.a.isLt
  have := x.x5.isLt
  have := x.b.isLt
  have := x.kq.isLt
  have := x.nc.isLt
  have := x.mc.isLt
  have := bit_le x.tb
  have := bit_le x.ta
  have := bit_le x.zero
  have := bit_le x.rev
  have := x.alg.isLt
  have := x.c.isLt
  have := bit_le x.aa
  have := bit_le x.bq
  have := dcfCode_lt x.dcf
  have := rmCode_lt x.rm
  have := bit_le x.rd
  have f0 : field ww 7 2 = 1 := by rw [field_eq]; omega
  have f1 : field ww 16 12 = x.a.val := by rw [field_eq]; omega
  have f2 : field ww 58 54 = x.x5.val := by rw [field_eq]; omega
  have f3 : field ww 22 18 = x.b.val := by rw [field_eq]; omega
  have f4 : field ww 53 42 = x.kq.toNat := by rw [field_eq]; omega
  have f5 : field ww 41 40 = x.nc.val := by rw [field_eq]; omega
  have f6 : field ww 39 38 = x.mc.val := by rw [field_eq]; omega
  have b7 : field ww 37 37 = bit x.tb := by rw [field_eq]; omega
  have f7 : flagAt ww 37 = x.tb := flag_of b7
  have b8 : field ww 36 36 = bit x.ta := by rw [field_eq]; omega
  have f8 : flagAt ww 36 = x.ta := flag_of b8
  have b9 : field ww 35 35 = bit x.zero := by rw [field_eq]; omega
  have f9 : flagAt ww 35 = x.zero := flag_of b9
  have b10 : field ww 34 34 = bit x.rev := by rw [field_eq]; omega
  have f10 : flagAt ww 34 = x.rev := flag_of b10
  have f11 : field ww 33 30 = x.alg.val := by rw [field_eq]; omega
  have f12 : field ww 63 60 = 0 := by rw [field_eq]; omega
  have f13 : field ww 11 8 = x.c.val := by rw [field_eq]; omega
  have b14 : field ww 17 17 = bit x.aa := by rw [field_eq]; omega
  have f14 : flagAt ww 17 = x.aa := flag_of b14
  have b15 : field ww 23 23 = bit x.bq := by rw [field_eq]; omega
  have f15 : flagAt ww 23 = x.bq := flag_of b15
  have b16 : field ww 59 59 = bit x.rd := by rw [field_eq]; omega
  have f16 : flagAt ww 59 = x.rd := flag_of b16
  have f17 : field ww 29 27 = rmCode x.rm := by rw [field_eq]; omega
  have f18 : field ww 26 24 = dcfCode x.dcf := by rw [field_eq]; omega
  exact matrix64 (by omega) (by omega) (by simp [decodeMatrix, andThen, need, decodeMma, x.alg.isLt, show wfMma x = true from h, show ww % 4 = 3 by omega, f0, f1, f2, f3, f4, f5, f6, f7, f8, f9, f10, f11, f12, f13, f14, f15, f16, f17, f18])

theorem RoundTrip.mmay (x : MmayArgs) : Statement (.mmay x) := by
  obtain ⟨ww, hW⟩ : ∃ ww, ww = mWord 0x02 0 + x.a.val * 2 ^ 12 + x.b.val * 2 ^ 18 + x.alg.val * 2 ^ 30 + bit x.rev * 2 ^ 34 + bit x.zero * 2 ^ 35 + bit x.ta * 2 ^ 36 + bit x.tb * 2 ^ 37 + x.mc.val * 2 ^ 38 + x.nc.val * 2 ^ 40 + x.kq.toNat * 2 ^ 42 + x.x5.val * 2 ^ 54 := ⟨_, rfl⟩
  refine of_word (w := ww) (by rw [hW]; rfl) fun h => ?_
  simp only [guardBits, mWord] at hW
  have := x.a.isLt
  have := x.x5.isLt
  have := x.b.isLt
  have := x.kq.isLt
  have := x.nc.isLt
  have := x.mc.isLt
  have := bit_le x.tb
  have := bit_le x.ta
  have := bit_le x.zero
  have := bit_le x.rev
  have := x.alg.isLt
  have f0 : field ww 7 2 = 2 := by rw [field_eq]; omega
  have f1 : field ww 16 12 = x.a.val := by rw [field_eq]; omega
  have f2 : field ww 58 54 = x.x5.val := by rw [field_eq]; omega
  have f3 : field ww 22 18 = x.b.val := by rw [field_eq]; omega
  have f4 : field ww 53 42 = x.kq.toNat := by rw [field_eq]; omega
  have f5 : field ww 41 40 = x.nc.val := by rw [field_eq]; omega
  have f6 : field ww 39 38 = x.mc.val := by rw [field_eq]; omega
  have b7 : field ww 37 37 = bit x.tb := by rw [field_eq]; omega
  have f7 : flagAt ww 37 = x.tb := flag_of b7
  have b8 : field ww 36 36 = bit x.ta := by rw [field_eq]; omega
  have f8 : flagAt ww 36 = x.ta := flag_of b8
  have b9 : field ww 35 35 = bit x.zero := by rw [field_eq]; omega
  have f9 : flagAt ww 35 = x.zero := flag_of b9
  have b10 : field ww 34 34 = bit x.rev := by rw [field_eq]; omega
  have f10 : flagAt ww 34 = x.rev := flag_of b10
  have f11 : field ww 33 30 = x.alg.val := by rw [field_eq]; omega
  have f12 : unusedZero ww [(58, 54), (53, 42), (41, 40), (39, 38), (37, 37), (36, 36), (35, 35), (34, 34), (33, 30), (22, 18), (16, 12)] = true := unused_of (m := 11) (by omega) (fold_cons f2 (fold_cons f4 (fold_cons f5 (fold_cons f6 (fold_cons b7 (fold_cons b8 (fold_cons b9 (fold_cons b10 (fold_cons f11 (fold_cons f3 (fold_cons f1 (fold_nil (by omega)))))))))))))
  exact matrix64 (by omega) (by omega) (by simp [decodeMatrix, andThen, need, decodeMmay, x.alg.isLt, show ww % 4 = 3 by omega, f0, f1, f2, f3, f4, f5, f6, f7, f8, f9, f10, f11, f12])

theorem RoundTrip.mzero (c : Fin 16) : Statement (.mzero c) := by
  obtain ⟨ww, hW⟩ : ∃ ww, ww = mWord 0x03 c.val := ⟨_, rfl⟩
  refine of_word (w := ww) (by rw [hW]; rfl) fun h => ?_
  simp only [guardBits, mWord] at hW
  have := c.isLt
  have f0 : field ww 7 2 = 3 := by rw [field_eq]; omega
  have f1 : field ww 11 8 = c.val := by rw [field_eq]; omega
  have f2 : unusedZero ww [(11, 8)] = true := unused_of (m := 15) (by omega) (fold_cons f1 (fold_nil (by omega)))
  exact matrix64 (by omega) (by omega) (by simp [decodeMatrix, andThen, need, show ww % 4 = 3 by omega, f0, f1, f2])

theorem RoundTrip.mld (c : Fin 16) (a : Fin 32) (nc : Fin 4) (mc : Fin 4) (ta : Bool) (zero : Bool) (rm : Rm) : Statement (.mld c a nc mc ta zero rm) := by
  obtain ⟨ww, hW⟩ : ∃ ww, ww = mWord 0x04 c.val + a.val * 2 ^ 12 + rmCode rm * 2 ^ 27 + bit zero * 2 ^ 35 + bit ta * 2 ^ 36 + mc.val * 2 ^ 38 + nc.val * 2 ^ 40 := ⟨_, rfl⟩
  refine of_word (w := ww) (by rw [hW]; rfl) fun h => ?_
  simp only [guardBits, mWord] at hW
  have := c.isLt
  have := a.isLt
  have := nc.isLt
  have := mc.isLt
  have := bit_le ta
  have := bit_le zero
  have := rmCode_lt rm
  have f0 : field ww 7 2 = 4 := by rw [field_eq]; omega
  have f1 : field ww 11 8 = c.val := by rw [field_eq]; omega
  have f2 : field ww 16 12 = a.val := by rw [field_eq]; omega
  have f3 : field ww 41 40 = nc.val := by rw [field_eq]; omega
  have f4 : field ww 39 38 = mc.val := by rw [field_eq]; omega
  have b5 : field ww 36 36 = bit ta := by rw [field_eq]; omega
  have f5 : flagAt ww 36 = ta := flag_of b5
  have b6 : field ww 35 35 = bit zero := by rw [field_eq]; omega
  have f6 : flagAt ww 35 = zero := flag_of b6
  have f7 : field ww 29 27 = rmCode rm := by rw [field_eq]; omega
  have f8 : unusedZero ww [(41, 40), (39, 38), (36, 36), (35, 35), (29, 27), (16, 12), (11, 8)] = true := unused_of (m := 19) (by omega) (fold_cons f3 (fold_cons f4 (fold_cons b5 (fold_cons b6 (fold_cons f7 (fold_cons f2 (fold_cons f1 (fold_nil (by omega)))))))))
  exact matrix64 (by omega) (by omega) (by simp [decodeMatrix, andThen, need, show rm ≠ .dyn by simpa using (show (rm != .dyn) = true from h), show ww % 4 = 3 by omega, f0, f1, f2, f3, f4, f5, f6, f7, f8])

theorem RoundTrip.mst (a : Fin 32) (c : Fin 16) (nc : Fin 4) (mc : Fin 4) (ta : Bool) (dcf : Dcf) (rm : Rm) : Statement (.mst a c nc mc ta dcf rm) := by
  obtain ⟨ww, hW⟩ : ∃ ww, ww = mWord 0x05 c.val + a.val * 2 ^ 12 + dcfCode dcf * 2 ^ 24 + rmCode rm * 2 ^ 27 + bit ta * 2 ^ 36 + mc.val * 2 ^ 38 + nc.val * 2 ^ 40 := ⟨_, rfl⟩
  refine of_word (w := ww) (by rw [hW]; rfl) fun h => ?_
  simp only [guardBits, mWord] at hW
  have := c.isLt
  have := a.isLt
  have := nc.isLt
  have := mc.isLt
  have := bit_le ta
  have := dcfCode_lt dcf
  have := rmCode_lt rm
  have f0 : field ww 7 2 = 5 := by rw [field_eq]; omega
  have f1 : field ww 11 8 = c.val := by rw [field_eq]; omega
  have f2 : field ww 16 12 = a.val := by rw [field_eq]; omega
  have f3 : field ww 41 40 = nc.val := by rw [field_eq]; omega
  have f4 : field ww 39 38 = mc.val := by rw [field_eq]; omega
  have b5 : field ww 36 36 = bit ta := by rw [field_eq]; omega
  have f5 : flagAt ww 36 = ta := flag_of b5
  have f6 : field ww 26 24 = dcfCode dcf := by rw [field_eq]; omega
  have f7 : field ww 29 27 = rmCode rm := by rw [field_eq]; omega
  have f8 : unusedZero ww [(41, 40), (39, 38), (36, 36), (29, 27), (26, 24), (16, 12), (11, 8)] = true := unused_of (m := 23) (by omega) (fold_cons f3 (fold_cons f4 (fold_cons b5 (fold_cons f7 (fold_cons f6 (fold_cons f2 (fold_cons f1 (fold_nil (by omega)))))))))
  exact matrix64 (by omega) (by omega) (by simp [decodeMatrix, andThen, need, show rm ≠ .dyn ∧ dcf ≠ .i8 by simpa using (show (rm != .dyn && dcf != .i8) = true from h), show ww % 4 = 3 by omega, f0, f1, f2, f3, f4, f5, f6, f7, f8])

theorem RoundTrip.mqdual (a : Fin 32) (b : Fin 32) (c : Fin 16) (nc : Fin 4) (mc : Fin 4) (dcf : Dcf) : Statement (.mqdual a b c nc mc dcf) := by
  obtain ⟨ww, hW⟩ : ∃ ww, ww = mWord 0x06 c.val + a.val * 2 ^ 12 + b.val * 2 ^ 18 + dcfCode dcf * 2 ^ 24 + mc.val * 2 ^ 38 + nc.val * 2 ^ 40 := ⟨_, rfl⟩
  refine of_word (w := ww) (by rw [hW]; rfl) fun h => ?_
  simp only [guardBits, mWord] at hW
  have := c.isLt
  have := a.isLt
  have := b.isLt
  have := nc.isLt
  have := mc.isLt
  have := dcfCode_lt dcf
  have f0 : field ww 7 2 = 6 := by rw [field_eq]; omega
  have f1 : field ww 11 8 = c.val := by rw [field_eq]; omega
  have f2 : field ww 16 12 = a.val := by rw [field_eq]; omega
  have f3 : field ww 41 40 = nc.val := by rw [field_eq]; omega
  have f4 : field ww 39 38 = mc.val := by rw [field_eq]; omega
  have f5 : field ww 26 24 = dcfCode dcf := by rw [field_eq]; omega
  have f6 : field ww 22 18 = b.val := by rw [field_eq]; omega
  have f7 : unusedZero ww [(41, 40), (39, 38), (26, 24), (22, 18), (16, 12), (11, 8)] = true := unused_of (m := 27) (by omega) (fold_cons f3 (fold_cons f4 (fold_cons f5 (fold_cons f6 (fold_cons f2 (fold_cons f1 (fold_nil (by omega))))))))
  exact matrix64 (by omega) (by omega) (by simp [decodeMatrix, andThen, need, show wfQdual dcf = true from h, show ww % 4 = 3 by omega, f0, f1, f2, f3, f4, f5, f6, f7])

theorem RoundTrip.malg (g : Fin 4) (v : Fin 32) (dim : Fin 4) : Statement (.malg g v dim) := by
  obtain ⟨ww, hW⟩ : ∃ ww, ww = mWord 0x07 0 + v.val * 2 ^ 12 + (g.val + 1) * 2 ^ 30 + dim.val * 2 ^ 38 := ⟨_, rfl⟩
  refine of_word (w := ww) (by rw [hW]; rfl) fun h => ?_
  simp only [guardBits, mWord] at hW
  have := g.isLt
  have := v.isLt
  have := dim.isLt
  have f0 : field ww 7 2 = 7 := by rw [field_eq]; omega
  have f1 : field ww 33 30 = g.val + 1 := by rw [field_eq]; omega
  have f2 : field ww 16 12 = v.val := by rw [field_eq]; omega
  have f3 : field ww 39 38 = dim.val := by rw [field_eq]; omega
  have f4 : unusedZero ww [(39, 38), (33, 30), (16, 12)] = true := unused_of (m := 31) (by omega) (fold_cons f3 (fold_cons f1 (fold_cons f2 (fold_nil (by omega)))))
  exact matrix64 (by omega) (by omega) (by simp [decodeMatrix, andThen, need, show g.val + 1 ≤ 4 by omega, show ww % 4 = 3 by omega, f0, f1, f2, f3, f4])

theorem RoundTrip.myoke (ac : Fin 16) (au : Fin 16) : Statement (.myoke ac au) := by
  obtain ⟨ww, hW⟩ : ∃ ww, ww = mWord 0x08 ac.val + au.val * 2 ^ 38 := ⟨_, rfl⟩
  refine of_word (w := ww) (by rw [hW]; rfl) fun h => ?_
  simp only [guardBits, mWord] at hW
  have := ac.isLt
  have := au.isLt
  have f0 : field ww 7 2 = 8 := by rw [field_eq]; omega
  have f1 : field ww 11 8 = ac.val := by rw [field_eq]; omega
  have f2 : field ww 41 38 = au.val := by rw [field_eq]; omega
  have f3 : unusedZero ww [(41, 38), (11, 8)] = true := unused_of (m := 35) (by omega) (fold_cons f2 (fold_cons f1 (fold_nil (by omega))))
  exact matrix64 (by omega) (by omega) (by simp [decodeMatrix, andThen, need, show ww % 4 = 3 by omega, f0, f1, f2, f3])

theorem RoundTrip.mguide (c : Fin 16) : Statement (.mguide c) := by
  obtain ⟨ww, hW⟩ : ∃ ww, ww = mWord 0x09 c.val := ⟨_, rfl⟩
  refine of_word (w := ww) (by rw [hW]; rfl) fun h => ?_
  simp only [guardBits, mWord] at hW
  have := c.isLt
  have f0 : field ww 7 2 = 9 := by rw [field_eq]; omega
  have f1 : field ww 11 8 = c.val := by rw [field_eq]; omega
  have f2 : unusedZero ww [(11, 8)] = true := unused_of (m := 39) (by omega) (fold_cons f1 (fold_nil (by omega)))
  exact matrix64 (by omega) (by omega) (by simp [decodeMatrix, andThen, need, show ww % 4 = 3 by omega, f0, f1, f2])

theorem RoundTrip.mview (t : Fin 32) (sp : TSpace) (base : BitVec 32) (rs : BitVec 12) (ty : Ty) : Statement (.mview t sp base rs ty) := by
  obtain ⟨ww, hW⟩ : ∃ ww, ww = 0x2B + t.val * 2 ^ 8 + tspaceCode sp * 2 ^ 13 + tyCode ty * 2 ^ 16 + rs.toNat * 2 ^ 20 + base.toNat * 2 ^ 32 := ⟨_, rfl⟩
  refine of_word (w := ww) (by rw [hW]; rfl) fun h => ?_
  have hr : ¬ rs = 0 := by
    have : rs ≠ 0 ∧ wfViewTy ty = true := by simpa using (show (rs != 0 && wfViewTy ty) = true from h)
    exact this.1
  have hv : wfViewTy ty = true := by
    have : rs ≠ 0 ∧ wfViewTy ty = true := by simpa using (show (rs != 0 && wfViewTy ty) = true from h)
    exact this.2
  have hr' : rs.toNat ≠ 0 := fun e => hr (BitVec.eq_of_toNat_eq (by simpa using e))
  have := t.isLt
  have := tspaceCode_lt sp
  have := tyCode_lt ty
  have := rs.isLt
  have := base.isLt
  have f0 : field ww 7 2 = 10 := by rw [field_eq]; omega
  have f1 : field ww 31 20 = rs.toNat := by rw [field_eq]; omega
  have f2 : field ww 15 13 = tspaceCode sp := by rw [field_eq]; omega
  have f3 : field ww 19 16 = tyCode ty := by rw [field_eq]; omega
  have f4 : field ww 12 8 = t.val := by rw [field_eq]; omega
  have f5 : field ww 63 32 = base.toNat := by rw [field_eq]; omega
  exact matrix64 (by omega) (by omega) (by simp [decodeMatrix, andThen, need, withCode, needTy, hr', hv, show ww % 4 = 3 by omega, f0, f1, f2, f3, f4, f5])

theorem RoundTrip.mlin (t : Fin 32) (f : LinForm) : Statement (.mlin t f) := by
  rcases f with _ | ⟨sp, lb, lsh⟩ | v
  · obtain ⟨ww, hW⟩ : ∃ ww, ww = 0x2F + t.val * 2 ^ 8 := ⟨_, rfl⟩
    refine of_word (w := ww) (by rw [hW]; rfl) fun h => ?_
    have := t.isLt
    have f0 : field ww 7 2 = 11 := by rw [field_eq]; omega
    have f1 : field ww 12 8 = t.val := by rw [field_eq]; omega
    have f2 : field ww 63 32 = 0 := by rw [field_eq]; omega
    have f3 : field ww 25 22 = 0 := by rw [field_eq]; omega
    have f4 : field ww 21 19 = 0 := by rw [field_eq]; omega
    have f5 : field ww 18 15 = 0 := by rw [field_eq]; omega
    have f6 : field ww 31 26 = 0 := by rw [field_eq]; omega
    have b7 : field ww 13 13 = 0 := by rw [field_eq]; omega
    have f7 : flagAt ww 13 = false := flag_of b7
    have b8 : field ww 14 14 = 0 := by rw [field_eq]; omega
    have f8 : flagAt ww 14 = false := flag_of b8
    exact matrix64 (by omega) (by omega) (by simp [decodeMatrix, andThen, need, decodeMlin, withCode, show ww % 4 = 3 by omega, f0, f1, f2, f3, f4, f5, f6, f7, f8])
  · obtain ⟨ww, hW⟩ : ∃ ww, ww = 0x2F + t.val * 2 ^ 8 + 2 ^ 13 + tspaceCode sp * 2 ^ 19 + lsh.val * 2 ^ 22 + lb.toNat * 2 ^ 32 := ⟨_, rfl⟩
    refine of_word (w := ww) (by rw [hW]; rfl) fun h => ?_
    have := t.isLt
    have := tspaceCode_lt sp
    have := lb.isLt
    have := lsh.isLt
    have f0 : field ww 7 2 = 11 := by rw [field_eq]; omega
    have f1 : field ww 12 8 = t.val := by rw [field_eq]; omega
    have f2 : field ww 63 32 = lb.toNat := by rw [field_eq]; omega
    have f3 : field ww 25 22 = lsh.val := by rw [field_eq]; omega
    have f4 : field ww 21 19 = tspaceCode sp := by rw [field_eq]; omega
    have f5 : field ww 18 15 = 0 := by rw [field_eq]; omega
    have f6 : field ww 31 26 = 0 := by rw [field_eq]; omega
    have b7 : field ww 13 13 = 1 := by rw [field_eq]; omega
    have f7 : flagAt ww 13 = true := flag_of b7
    have b8 : field ww 14 14 = 0 := by rw [field_eq]; omega
    have f8 : flagAt ww 14 = false := flag_of b8
    exact matrix64 (by omega) (by omega) (by simp [decodeMatrix, andThen, need, decodeMlin, withCode, show ww % 4 = 3 by omega, lsh.isLt, f0, f1, f2, f3, f4, f5, f6, f7, f8])
  · obtain ⟨ww, hW⟩ : ∃ ww, ww = 0x2F + t.val * 2 ^ 8 + 2 ^ 13 + 2 ^ 14 + v.val * 2 ^ 15 := ⟨_, rfl⟩
    refine of_word (w := ww) (by rw [hW]; rfl) fun h => ?_
    have := t.isLt
    have := v.isLt
    have f0 : field ww 7 2 = 11 := by rw [field_eq]; omega
    have f1 : field ww 12 8 = t.val := by rw [field_eq]; omega
    have f2 : field ww 63 32 = 0 := by rw [field_eq]; omega
    have f3 : field ww 25 22 = 0 := by rw [field_eq]; omega
    have f4 : field ww 21 19 = 0 := by rw [field_eq]; omega
    have f5 : field ww 18 15 = v.val := by rw [field_eq]; omega
    have f6 : field ww 31 26 = 0 := by rw [field_eq]; omega
    have b7 : field ww 13 13 = 1 := by rw [field_eq]; omega
    have f7 : flagAt ww 13 = true := flag_of b7
    have b8 : field ww 14 14 = 1 := by rw [field_eq]; omega
    have f8 : flagAt ww 14 = true := flag_of b8
    exact matrix64 (by omega) (by omega) (by simp [decodeMatrix, andThen, need, decodeMlin, withCode, show ww % 4 = 3 by omega, f0, f1, f2, f3, f4, f5, f6, f7, f8])

theorem RoundTrip.marv (b : Fin 16) : Statement (.marv b) := by
  obtain ⟨ww, hW⟩ : ∃ ww, ww = mWord 0x0C b.val := ⟨_, rfl⟩
  refine of_word (w := ww) (by rw [hW]; rfl) fun h => ?_
  simp only [guardBits, mWord] at hW
  have := b.isLt
  have f0 : field ww 7 2 = 12 := by rw [field_eq]; omega
  have f1 : field ww 11 8 = b.val := by rw [field_eq]; omega
  have f2 : unusedZero ww [(11, 8)] = true := unused_of (m := 51) (by omega) (fold_cons f1 (fold_nil (by omega)))
  exact matrix64 (by omega) (by omega) (by simp [decodeMatrix, andThen, need, show ww % 4 = 3 by omega, f0, f1, f2])

theorem RoundTrip.mwt (b : Fin 16) : Statement (.mwt b) := by
  obtain ⟨ww, hW⟩ : ∃ ww, ww = mWord 0x0D b.val := ⟨_, rfl⟩
  refine of_word (w := ww) (by rw [hW]; rfl) fun h => ?_
  simp only [guardBits, mWord] at hW
  have := b.isLt
  have f0 : field ww 7 2 = 13 := by rw [field_eq]; omega
  have f1 : field ww 11 8 = b.val := by rw [field_eq]; omega
  have f2 : unusedZero ww [(11, 8)] = true := unused_of (m := 55) (by omega) (fold_cons f1 (fold_nil (by omega)))
  exact matrix64 (by omega) (by omega) (by simp [decodeMatrix, andThen, need, show ww % 4 = 3 by omega, f0, f1, f2])

theorem RoundTrip.mgive (a : Fin 16) : Statement (.mgive a) := by
  obtain ⟨ww, hW⟩ : ∃ ww, ww = mWord 0x0E a.val := ⟨_, rfl⟩
  refine of_word (w := ww) (by rw [hW]; rfl) fun h => ?_
  simp only [guardBits, mWord] at hW
  have := a.isLt
  have f0 : field ww 7 2 = 14 := by rw [field_eq]; omega
  have f1 : field ww 11 8 = a.val := by rw [field_eq]; omega
  have f2 : unusedZero ww [(11, 8)] = true := unused_of (m := 59) (by omega) (fold_cons f1 (fold_nil (by omega)))
  exact matrix64 (by omega) (by omega) (by simp [decodeMatrix, andThen, need, show ww % 4 = 3 by omega, f0, f1, f2])

theorem RoundTrip.mtake (a : Fin 16) : Statement (.mtake a) := by
  obtain ⟨ww, hW⟩ : ∃ ww, ww = mWord 0x0F a.val := ⟨_, rfl⟩
  refine of_word (w := ww) (by rw [hW]; rfl) fun h => ?_
  simp only [guardBits, mWord] at hW
  have := a.isLt
  have f0 : field ww 7 2 = 15 := by rw [field_eq]; omega
  have f1 : field ww 11 8 = a.val := by rw [field_eq]; omega
  have f2 : unusedZero ww [(11, 8)] = true := unused_of (m := 63) (by omega) (fold_cons f1 (fold_nil (by omega)))
  exact matrix64 (by omega) (by omega) (by simp [decodeMatrix, andThen, need, show ww % 4 = 3 by omega, f0, f1, f2])

theorem RoundTrip.mloop (n : BitVec 16) (off : BitVec 32) : Statement (.mloop n off) := by
  obtain ⟨ww, hW⟩ : ∃ ww, ww = mWord 0x10 0 + n.toNat * 2 ^ 8 + off.toNat * 2 ^ 32 := ⟨_, rfl⟩
  refine of_word (w := ww) (by rw [hW]; rfl) fun h => ?_
  simp only [guardBits, mWord] at hW
  have := n.isLt
  have := off.isLt
  have f0 : field ww 7 2 = 16 := by rw [field_eq]; omega
  have f1 : field ww 31 24 = 0 := by rw [field_eq]; omega
  have f2 : field ww 63 32 = off.toNat := by rw [field_eq]; omega
  have f3 : field ww 23 8 = n.toNat := by rw [field_eq]; omega
  exact matrix64 (by omega) (by omega) (by simp [decodeMatrix, andThen, need, of_decide_eq_true (p := 2 ≤ off.toInt) h, show ww % 4 = 3 by omega, f0, f1, f2, f3])

theorem RoundTrip.mjmp (off : BitVec 32) : Statement (.mjmp off) := by
  obtain ⟨ww, hW⟩ : ∃ ww, ww = mWord 0x11 0 + off.toNat * 2 ^ 32 := ⟨_, rfl⟩
  refine of_word (w := ww) (by rw [hW]; rfl) fun h => ?_
  simp only [guardBits, mWord] at hW
  have := off.isLt
  have f0 : field ww 7 2 = 17 := by rw [field_eq]; omega
  have f1 : field ww 31 8 = 0 := by rw [field_eq]; omega
  have f2 : field ww 63 32 = off.toNat := by rw [field_eq]; omega
  exact matrix64 (by omega) (by omega) (by simp [decodeMatrix, andThen, need, show ww % 4 = 3 by omega, f0, f1, f2])

theorem RoundTrip.mseed (k : BitVec 16) : Statement (.mseed k) := by
  obtain ⟨ww, hW⟩ : ∃ ww, ww = mWord 0x13 0 + k.toNat * 2 ^ 38 := ⟨_, rfl⟩
  refine of_word (w := ww) (by rw [hW]; rfl) fun h => ?_
  simp only [guardBits, mWord] at hW
  have := k.isLt
  have f0 : field ww 7 2 = 19 := by rw [field_eq]; omega
  have f1 : field ww 53 38 = k.toNat := by rw [field_eq]; omega
  have f2 : unusedZero ww [(53, 38)] = true := unused_of (m := 79) (by omega) (fold_cons f1 (fold_nil (by omega)))
  exact matrix64 (by omega) (by omega) (by simp [decodeMatrix, andThen, need, show ww % 4 = 3 by omega, f0, f1, f2])

theorem RoundTrip.mscale (v : Fin 32) : Statement (.mscale v) := by
  obtain ⟨ww, hW⟩ : ∃ ww, ww = mWord 0x14 0 + v.val * 2 ^ 12 := ⟨_, rfl⟩
  refine of_word (w := ww) (by rw [hW]; rfl) fun h => ?_
  simp only [guardBits, mWord] at hW
  have := v.isLt
  have f0 : field ww 7 2 = 20 := by rw [field_eq]; omega
  have f1 : field ww 16 12 = v.val := by rw [field_eq]; omega
  have f2 : unusedZero ww [(16, 12)] = true := unused_of (m := 83) (by omega) (fold_cons f1 (fold_nil (by omega)))
  exact matrix64 (by omega) (by omega) (by simp [decodeMatrix, andThen, need, show ww % 4 = 3 by omega, f0, f1, f2])

theorem RoundTrip.matrixOpStart (t : TeamRef) : Statement (.matrixOpStart t) := event rfl

theorem RoundTrip.matrixOpComplete (t : TeamRef) : Statement (.matrixOpComplete t) := event rfl

theorem RoundTrip.arrayGrant (core : Nat) : Statement (.arrayGrant core) := event rfl

theorem RoundTrip.ringSubscriptionFill (t : TeamRef) (q : Fin 16) : Statement (.ringSubscriptionFill t q) := event rfl

theorem RoundTrip.ringFillComplete (op : Nat) : Statement (.ringFillComplete op) := event rfl

theorem RoundTrip.ringDrainTake (t : TeamRef) (q : Fin 16) : Statement (.ringDrainTake t q) := event rfl

theorem RoundTrip.ringDrainWriteComplete (op : Nat) : Statement (.ringDrainWriteComplete op) := event rfl

theorem RoundTrip.launch (q : Fin 64) : Statement (.launch q) := event rfl

theorem RoundTrip.launchAdmit (q : Fin 64) (place : List Rect) (lanes : Mask) : Statement (.launchAdmit q place lanes) := event rfl

theorem RoundTrip.teamRetire (t : TeamRef) : Statement (.teamRetire t) := event rfl

theorem RoundTrip.launchComplete (ctx : Fin 8) : Statement (.launchComplete ctx) := event rfl

theorem RoundTrip.launchStop (ctx : Fin 8) : Statement (.launchStop ctx) := event rfl

theorem RoundTrip.taskArmApply (op : Nat) : Statement (.taskArmApply op) := event rfl

theorem RoundTrip.taskDoneApply (op : Nat) : Statement (.taskDoneApply op) := event rfl

theorem RoundTrip.pocketTimerExpire (t : TeamRef) (e : Fin 64) : Statement (.pocketTimerExpire t e) := event rfl

theorem RoundTrip.childGroupStart (t : TeamRef) : Statement (.childGroupStart t) := event rfl

theorem RoundTrip.swapOut (t : TeamRef) : Statement (.swapOut t) := event rfl

theorem RoundTrip.deadlockCheck (ctx : Fin 8) : Statement (.deadlockCheck ctx) := event rfl

theorem RoundTrip.hostLinkTrain (link : Fin 2) (m : LinkMode) : Statement (.hostLinkTrain link m) := event rfl

theorem RoundTrip.hostLinkDown (link : Fin 2) : Statement (.hostLinkDown link) := event rfl

theorem RoundTrip.hostAckTimeout (link : Fin 2) : Statement (.hostAckTimeout link) := event rfl

theorem RoundTrip.hostCxlMemRead (link : Fin 2) (pa : Nat) (len : Nat) : Statement (.hostCxlMemRead link pa len) := event rfl

theorem RoundTrip.hostCxlMemWrite (link : Fin 2) (pa : Nat) (bytes : List Byte) : Statement (.hostCxlMemWrite link pa bytes) := event rfl

theorem RoundTrip.hostAtomic (link : Fin 2) (pa : Nat) (op : AtomOp) (w64 : Bool) (cmp : Word) (v : Word) : Statement (.hostAtomic link pa op w64 cmp v) := event rfl

theorem RoundTrip.bar2Access (w : Writer) (off : Nat) (wr : Option (List Byte)) (len : Nat) : Statement (.bar2Access w off wr len) := event rfl

theorem RoundTrip.fabricLinkTrain (link : Fin 16) (width : Fin 4) (peer : Byte) : Statement (.fabricLinkTrain link width peer) := event rfl

theorem RoundTrip.flitCrcError (link : Fin 16) (recovered : Bool) : Statement (.flitCrcError link recovered) := event rfl

theorem RoundTrip.sctlWrite (s : Writer × Fin 64) (v : BitVec 32) : Statement (.sctlWrite s v) := event rfl

theorem RoundTrip.reductionContributionArrive (x : Arrival) : Statement (.reductionContributionArrive x) := event rfl

theorem RoundTrip.reductionUplinkResult (s : Fin 64) (round : BitVec 16) (vals : List (BitVec 32)) : Statement (.reductionUplinkResult s round vals) := event rfl

theorem RoundTrip.fredComplete (op : Nat) : Statement (.fredComplete op) := event rfl

theorem RoundTrip.reductionRoundTimeout (s : Fin 64) : Statement (.reductionRoundTimeout s) := event rfl

theorem RoundTrip.tnRingf (rd : Fin 32) (q : Fin 64) : Statement (.tnRingf rd q) := by
  obtain ⟨ww, hW⟩ : ∃ ww, ww = 0x0B + rd.val * 2 ^ 7 + q.val * 2 ^ 20 := ⟨_, rfl⟩
  refine of_word (w := ww) (by rw [hW]; rfl) fun h => ?_
  have := rd.isLt
  have := q.isLt
  have f0 : field ww 6 0 = 11 := by rw [field_eq]; omega
  have f1 : field ww 14 12 = 0 := by rw [field_eq]; omega
  have f2 : field ww 11 7 = rd.val := by rw [field_eq]; omega
  have f3 : field ww 31 26 = 0 := by rw [field_eq]; omega
  have f4 : field ww 19 15 = 0 := by rw [field_eq]; omega
  have f5 : field ww 25 20 = q.val := by rw [field_eq]; omega
  exact tison32 (by omega) (by omega) (by simp [decodeTison, f0, f1, f2, f3, f4, f5])

theorem RoundTrip.tnBfx (rd : Fin 32) (rs1 : Fin 32) (pos : Fin 64) (lenM1 : Fin 64) : Statement (.tnBfx rd rs1 pos lenM1) := by
  obtain ⟨ww, hW⟩ : ∃ ww, ww = 0x0B + rd.val * 2 ^ 7 + 1 * 2 ^ 12 + rs1.val * 2 ^ 15 + pos.val * 2 ^ 20 + lenM1.val * 2 ^ 26 := ⟨_, rfl⟩
  refine of_word (w := ww) (by rw [hW]; rfl) fun h => ?_
  have := rd.isLt
  have := rs1.isLt
  have := pos.isLt
  have := lenM1.isLt
  have f0 : field ww 6 0 = 11 := by rw [field_eq]; omega
  have f1 : field ww 14 12 = 1 := by rw [field_eq]; omega
  have f2 : field ww 11 7 = rd.val := by rw [field_eq]; omega
  have f3 : field ww 19 15 = rs1.val := by rw [field_eq]; omega
  have f4 : field ww 25 20 = pos.val := by rw [field_eq]; omega
  have f5 : field ww 31 26 = lenM1.val := by rw [field_eq]; omega
  exact tison32 (by omega) (by omega) (by simp [decodeTison, f0, f1, f2, f3, f4, f5])

theorem RoundTrip.tnSigw (rd : Fin 32) (rs1 : Fin 32) (t : BitVec 12) : Statement (.tnSigw rd rs1 t) := by
  obtain ⟨ww, hW⟩ : ∃ ww, ww = 0x0B + rd.val * 2 ^ 7 + 2 * 2 ^ 12 + rs1.val * 2 ^ 15 + t.toNat * 2 ^ 20 := ⟨_, rfl⟩
  refine of_word (w := ww) (by rw [hW]; rfl) fun h => ?_
  have := rd.isLt
  have := rs1.isLt
  have := t.isLt
  have f0 : field ww 6 0 = 11 := by rw [field_eq]; omega
  have f1 : field ww 14 12 = 2 := by rw [field_eq]; omega
  have f2 : field ww 11 7 = rd.val := by rw [field_eq]; omega
  have f3 : field ww 19 15 = rs1.val := by rw [field_eq]; omega
  have f4 : field ww 31 20 = t.toNat := by rw [field_eq]; omega
  exact tison32 (by omega) (by omega) (by simp [decodeTison, f0, f1, f2, f3, f4])

theorem RoundTrip.tnSigwTimeout (core : Fin 4) : Statement (.tnSigwTimeout core) := event rfl

theorem RoundTrip.tnDisp (rs1 : Fin 32) (rs2 : Fin 32) : Statement (.tnDisp rs1 rs2) := by
  obtain ⟨ww, hW⟩ : ∃ ww, ww = 0x0B + 3 * 2 ^ 12 + rs1.val * 2 ^ 15 + rs2.val * 2 ^ 20 := ⟨_, rfl⟩
  refine of_word (w := ww) (by rw [hW]; rfl) fun h => ?_
  have := rs1.isLt
  have := rs2.isLt
  have f0 : field ww 6 0 = 11 := by rw [field_eq]; omega
  have f1 : field ww 14 12 = 3 := by rw [field_eq]; omega
  have f2 : field ww 11 7 = 0 := by rw [field_eq]; omega
  have f3 : field ww 19 15 = rs1.val := by rw [field_eq]; omega
  have f4 : field ww 31 26 = 0 := by rw [field_eq]; omega
  have f5 : field ww 25 25 = 0 := by rw [field_eq]; omega
  have f6 : field ww 24 20 = rs2.val := by rw [field_eq]; omega
  exact tison32 (by omega) (by omega) (by simp [decodeTison, f0, f1, f2, f3, f4, f5, f6])

theorem RoundTrip.doorbell (q : Writer × Fin 64) (tail : BitVec 12) : Statement (.doorbell q tail) := event rfl

theorem RoundTrip.rheadWrite (q : Writer × Fin 64) (v : BitVec 32) : Statement (.rheadWrite q v) := event rfl

theorem RoundTrip.completionEntryWrite (q : Fin 64) : Statement (.completionEntryWrite q) := event rfl

theorem RoundTrip.signal (q : Fin 64) : Statement (.signal q) := event rfl

theorem RoundTrip.waitCommand (q : Fin 64) : Statement (.waitCommand q) := event rfl

theorem RoundTrip.waitCommandTimeout (q : Fin 64) : Statement (.waitCommandTimeout q) := event rfl

theorem RoundTrip.bias (q : Fin 64) : Statement (.bias q) := event rfl

theorem RoundTrip.shrink (q : Fin 64) (place : List Rect) : Statement (.shrink q place) := event rfl

theorem RoundTrip.powerTarget (q : Fin 64) : Statement (.powerTarget q) := event rfl

theorem RoundTrip.powerCollarCap (q : Fin 64) : Statement (.powerCollarCap q) := event rfl

theorem RoundTrip.dieGate (q : Fin 64) : Statement (.dieGate q) := event rfl

theorem RoundTrip.dieUngate (q : Fin 64) : Statement (.dieUngate q) := event rfl

theorem RoundTrip.powerSafeCap (q : Fin 64) : Statement (.powerSafeCap q) := event rfl

theorem RoundTrip.copy (q : Fin 64) : Statement (.copy q) := event rfl

theorem RoundTrip.svcEcho (f : FragRef) : Statement (.svcEcho f) := event rfl

theorem RoundTrip.svcNotice (f : FragRef) : Statement (.svcNotice f) := event rfl

theorem RoundTrip.svcReadProgress (f : FragRef) : Statement (.svcReadProgress f) := event rfl

theorem RoundTrip.svcMakeResident (f : FragRef) : Statement (.svcMakeResident f) := event rfl

theorem RoundTrip.controlInterval (lims : List Limits) : Statement (.controlInterval lims) := event rfl

theorem RoundTrip.ictlWrite (isl : Fin 48) (v : BitVec 5) : Statement (.ictlWrite isl v) := event rfl

theorem RoundTrip.moveComplete (isl : Fin 48) : Statement (.moveComplete isl) := event rfl

theorem RoundTrip.collarGrant (isl : Fin 48) : Statement (.collarGrant isl) := event rfl

theorem RoundTrip.overCurrentCheck (isl : Fin 48) (milliamps : Nat) : Statement (.overCurrentCheck isl milliamps) := event rfl

theorem RoundTrip.rackCapMessage (seq : Nat) (cap : Nat) (valid : Nat) : Statement (.rackCapMessage seq cap valid) := event rfl

theorem RoundTrip.quiesceRequest (isl : Fin 48) : Statement (.quiesceRequest isl) := event rfl

theorem RoundTrip.quiesceCancel (isl : Fin 48) : Statement (.quiesceCancel isl) := event rfl

theorem RoundTrip.coreQuiesced (isl : Fin 48) (c : Fin 12) : Statement (.coreQuiesced isl c) := event rfl

theorem RoundTrip.retentionSave (isl : Fin 48) : Statement (.retentionSave isl) := event rfl

theorem RoundTrip.retentionSaveComplete (isl : Fin 48) : Statement (.retentionSaveComplete isl) := event rfl

theorem RoundTrip.clockGate (isl : Fin 48) : Statement (.clockGate isl) := event rfl

theorem RoundTrip.clockUngate (isl : Fin 48) : Statement (.clockUngate isl) := event rfl

theorem RoundTrip.railRetain (isl : Fin 48) : Statement (.railRetain isl) := event rfl

theorem RoundTrip.railOff (isl : Fin 48) : Statement (.railOff isl) := event rfl

theorem RoundTrip.wake (isl : Fin 48) : Statement (.wake isl) := event rfl

theorem RoundTrip.wakeComplete (isl : Fin 48) : Statement (.wakeComplete isl) := event rfl

theorem RoundTrip.icollarWrite (isl : Fin 48) (v : BitVec 16) : Statement (.icollarWrite isl v) := event rfl

theorem RoundTrip.registerWrite (r : Writer × RegId) (v : Word) : Statement (.registerWrite r v) := event rfl

theorem RoundTrip.traceRecordWrite (r : TraceRec) : Statement (.traceRecordWrite r) := event rfl

theorem RoundTrip.singleStep (t : TeamRef) (b : Fin 16) (p : Nat) : Statement (.singleStep t b p) := event rfl

theorem RoundTrip.debugAccRead (t : TeamRef) (a : Fin 16) : Statement (.debugAccRead t a) := event rfl

theorem RoundTrip.breakpoint (f : FragRef) : Statement (.breakpoint f) := event rfl

theorem RoundTrip.debugResume (f : FragRef) (next : Bool) : Statement (.debugResume f next) := event rfl

theorem RoundTrip.causalExperimentStart (ctx : Fin 8) (lo : Word) (hi : Word) (f : Nat) : Statement (.causalExperimentStart ctx lo hi f) := event rfl

theorem RoundTrip.causalDelay (ctx : Fin 8) (core : Nat) : Statement (.causalDelay ctx core) := event rfl

theorem RoundTrip.fabricLinkRetryTimer (link : Fin 16) (width : Fin 4) (peer : Byte) : Statement (.fabricLinkRetryTimer link width peer) := event rfl

theorem RoundTrip.firmwareStage (image : List Byte) : Statement (.firmwareStage image) := event rfl

theorem RoundTrip.recoveryImageStage (image : List Byte) : Statement (.recoveryImageStage image) := event rfl

theorem RoundTrip.attestationRequest (nonce : List Byte) : Statement (.attestationRequest nonce) := event rfl

theorem RoundTrip.lifeCycleToken (target : LifeCycle) (token : List Byte) : Statement (.lifeCycleToken target token) := event rfl

theorem RoundTrip.selfTest (sp : Nat) (line : Nat) (uncorrected : Bool) : Statement (.selfTest sp line uncorrected) := event rfl

theorem RoundTrip.selfTestComplete (sp : Nat) (line : Nat) (pass : Bool) (spare : Bool) : Statement (.selfTestComplete sp line pass spare) := event rfl

theorem RoundTrip.storeAcknowledged (op : Nat) : Statement (.storeAcknowledged op) := event rfl

theorem RoundTrip.burstReservationRelease (isl : Fin 48) : Statement (.burstReservationRelease isl) := event rfl

theorem RoundTrip.yieldExpiry (f : FragRef) : Statement (.yieldExpiry f) := event rfl

theorem RoundTrip.fabricLinkDown (link : Fin 16) : Statement (.fabricLinkDown link) := event rfl

theorem RoundTrip.causalExperimentEnd (ctx : Fin 8) : Statement (.causalExperimentEnd ctx) := event rfl

theorem RoundTrip.nop : Statement (.nop) := by
  exact z16_plain (by decide) rfl fun w hw => by simp only [decodeZ16, hw]

theorem RoundTrip.ret : Statement (.ret) := by
  exact z16_plain (by decide) rfl fun w hw => by simp only [decodeZ16, hw]

theorem RoundTrip.exit : Statement (.exit) := by
  exact z16_plain (by decide) rfl fun w hw => by simp only [decodeZ16, hw]

theorem RoundTrip.yield : Statement (.yield) := by
  exact z16_plain (by decide) rfl fun w hw => by simp only [decodeZ16, hw]

theorem RoundTrip.brk : Statement (.brk) := by
  exact z16_plain (by decide) rfl fun w hw => by simp only [decodeZ16, hw]

theorem RoundTrip.lane : Statement (.lane) := by
  exact z16_plain (by decide) rfl fun w hw => by simp only [decodeZ16, hw]

theorem RoundTrip.s2l : Statement (.s2l) := by
  exact z16_plain (by decide) rfl fun w hw => by simp only [decodeZ16, hw]

theorem RoundTrip.ballot : Statement (.ballot) := by
  obtain ⟨ww, hW⟩ : ∃ ww, ww = xlnWord 3 0 0 false 0 := ⟨_, rfl⟩
  refine of_word (w := ww) (by rw [hW]; rfl) fun h => ?_
  obtain ⟨h4, hw, f0, f1, f2, f3, f4, f5⟩ := xln_fields hW (by omega)
  exact lane32 h4 hw (by simp [decodeS32, f0, decodeXln, f1, f2, f3, f4, f5, andThen, withCode, need, needTy])

theorem RoundTrip.ppush : Statement (.ppush) := by
  obtain ⟨ww, hW⟩ : ∃ ww, ww = xlnWord 12 0 0 false 0 := ⟨_, rfl⟩
  refine of_word (w := ww) (by rw [hW]; rfl) fun h => ?_
  obtain ⟨h4, hw, f0, f1, f2, f3, f4, f5⟩ := xln_fields hW (by omega)
  exact lane32 h4 hw (by simp [decodeS32, f0, decodeXln, f1, f2, f3, f4, f5, andThen, withCode, need, needTy])

theorem RoundTrip.ppop : Statement (.ppop) := by
  obtain ⟨ww, hW⟩ : ∃ ww, ww = xlnWord 13 0 0 false 0 := ⟨_, rfl⟩
  refine of_word (w := ww) (by rw [hW]; rfl) fun h => ?_
  obtain ⟨h4, hw, f0, f1, f2, f3, f4, f5⟩ := xln_fields hW (by omega)
  exact lane32 h4 hw (by simp [decodeS32, f0, decodeXln, f1, f2, f3, f4, f5, andThen, withCode, need, needTy])

theorem RoundTrip.disp : Statement (.disp) := by
  obtain ⟨ww, hW⟩ : ∃ ww, ww = engWord 10 0 0 := ⟨_, rfl⟩
  refine of_word (w := ww) (by rw [hW]; rfl) fun h => ?_
  obtain ⟨h4, hw, f0, f1, f2, f3, f4⟩ := eng_fields hW (by omega)
  exact lane32 h4 hw (by simp [decodeS32, f0, decodeEng, f1, f2, f3, f4, andThen, withCode, need])

theorem RoundTrip.taskGet : Statement (.taskGet) := by
  obtain ⟨ww, hW⟩ : ∃ ww, ww = engWord 11 0 0 := ⟨_, rfl⟩
  refine of_word (w := ww) (by rw [hW]; rfl) fun h => ?_
  obtain ⟨h4, hw, f0, f1, f2, f3, f4⟩ := eng_fields hW (by omega)
  exact lane32 h4 hw (by simp [decodeS32, f0, decodeEng, f1, f2, f3, f4, andThen, withCode, need])

theorem RoundTrip.cwait : Statement (.cwait) := by
  obtain ⟨ww, hW⟩ : ∃ ww, ww = engWord 17 0 0 := ⟨_, rfl⟩
  refine of_word (w := ww) (by rw [hW]; rfl) fun h => ?_
  obtain ⟨h4, hw, f0, f1, f2, f3, f4⟩ := eng_fields hW (by omega)
  exact lane32 h4 hw (by simp [decodeS32, f0, decodeEng, f1, f2, f3, f4, andThen, withCode, need])

theorem RoundTrip.mnop : Statement (.mnop) := by
  obtain ⟨ww, hW⟩ : ∃ ww, ww = mWord 0x00 0 := ⟨_, rfl⟩
  refine of_word (w := ww) (by rw [hW]; rfl) fun h => ?_
  simp only [guardBits, mWord] at hW
  have f0 : field ww 7 2 = 0 := by rw [field_eq]; omega
  have f1 : unusedZero ww [] = true := unused_of (m := 3) (by omega) (fold_nil (by omega))
  exact matrix64 (by omega) (by omega) (by simp [decodeMatrix, andThen, need, show ww % 4 = 3 by omega, f0, f1])

theorem RoundTrip.mhalt : Statement (.mhalt) := by
  obtain ⟨ww, hW⟩ : ∃ ww, ww = mWord 0x12 0 := ⟨_, rfl⟩
  refine of_word (w := ww) (by rw [hW]; rfl) fun h => ?_
  simp only [guardBits, mWord] at hW
  have f0 : field ww 7 2 = 18 := by rw [field_eq]; omega
  have f1 : unusedZero ww [] = true := unused_of (m := 75) (by omega) (fold_nil (by omega))
  exact matrix64 (by omega) (by omega) (by simp [decodeMatrix, andThen, need, show ww % 4 = 3 by omega, f0, f1])

theorem RoundTrip.biasFlipComplete : Statement (.biasFlipComplete) := event rfl

theorem RoundTrip.capExpiry : Statement (.capExpiry) := event rfl

theorem RoundTrip.thermalTrip : Statement (.thermalTrip) := event rfl

theorem RoundTrip.systemStop : Statement (.systemStop) := event rfl

theorem RoundTrip.systemResume : Statement (.systemResume) := event rfl

theorem RoundTrip.stepComplete : Statement (.stepComplete) := event rfl

theorem RoundTrip.snapshotTrigger : Statement (.snapshotTrigger) := event rfl

theorem RoundTrip.moduleReset : Statement (.moduleReset) := event rfl

theorem RoundTrip.powerLoss : Statement (.powerLoss) := event rfl

end Sys2Proof.Laws
end

