-- ==== Sys2Proof/Tests/Slice0.lean ====
section
/-!
SUPPORT. The model's own tests: an ill-formed term for each check of WellFormed; words that the spec writes out, with the
instruction that each stands for; single steps whose results the spec states or an arithmetic by hand gives; and, for every
statement with premises, a state and operands that meet them (`wit_…`).
-/
set_option linter.unusedVariables false
set_option Elab.async false
namespace Sys2Proof.Tests
open Sys2Proof.Machine

/-- The always-true guard. -/
def g0 : Guard := ⟨0, false⟩

/-! ### WellFormed refuses -/

/-- R43, R115: an integer type takes wrap and saturate alone, and a narrow type no arithmetic. -/
theorem test_wf_arith : Instr.wf (.add .rtz .i32 false) = false ∧ Instr.wf (.sub .rne .e4m3 false) = false ∧
    Instr.wf (.mul .rne .b32 false) = false ∧ Instr.wf (.div .sat .n64 false) = false ∧ Instr.wf (.neg .rtz .f32 false) = false ∧
    Instr.wf (.abs .rup .i64 false) = false ∧ Instr.wf (.mulhi .f32 false) = false ∧ Instr.wf (.rem .f64 false) = false ∧
    Instr.wf (.fma .rne .i32 false) = false ∧ Instr.wf (.sqrt .rne .n32 false) = false ∧ Instr.wf (.rint .rne .i64 false) = false ∧
    Instr.wf (.min .b64 false) = false ∧ Instr.wf (.max .f4 false) = false ∧ Instr.wf (.clamp .b32 false) = false ∧
    Instr.wf (.floor .i32 false) = false ∧ Instr.wf (.ceil .n32 false) = false ∧ Instr.wf (.trunc .b32 false) = false ∧
    Instr.wf (.copysign .i64 false) = false := by decide

/-- R115: the bit operations take `b32` and `b64`. -/
theorem test_wf_bits : Instr.wf (.and .i32 false) = false ∧ Instr.wf (.or .f32 false) = false ∧ Instr.wf (.xor .n64 false) = false ∧
    Instr.wf (.not .i64 true) = false ∧ Instr.wf (.shl .h2 false) = false ∧ Instr.wf (.shr .i32 false) = false ∧
    Instr.wf (.sar .i32 false) = false ∧ Instr.wf (.rotl .i64 false) = false ∧ Instr.wf (.popc .n32 false) = false ∧
    Instr.wf (.clz .f64 false) = false ∧ Instr.wf (.ctz .i8 false) = false ∧ Instr.wf (.bfx .i32 false) = false ∧
    Instr.wf (.bfi .i64 false) = false := by decide

/-- R87, R118: the scalar domain has 256 slots; the lane domain's numbers have 11 bits. -/
theorem test_wf_slots : Instr.wf (.get true 256) = false ∧ Instr.wf (.set true 2047) = false ∧ Instr.wf (.tee2 true 300) = false ∧
    Instr.wf (.inc true 256 0) = false ∧ Instr.wf (.clr true 256) = false ∧ Instr.wf (.get true 255) = true ∧
    Instr.wf (.get false 2047) = true := by decide

/-- R167, R169: a `loop` body is not empty, and a `rep` count is at least 1. -/
theorem test_wf_loop : Instr.wf (.loop g0 2) = false ∧ Instr.wf (.loop g0 (-4)) = false ∧ Instr.wf (.loop g0 3) = true ∧
    Instr.wf (.rep g0 0) = false := by decide

/-- R121: an ordered test takes a float type, `tst` a bit type, and no condition a narrow one. -/
theorem test_wf_cmp : Instr.wf (.cmp false .unord .i32 1 2 .norm g0) = false ∧ Instr.wf (.cmp false .tst .f32 1 2 .norm g0) = false ∧
    Instr.wf (.cmp false .ltz .n32 1 2 .norm g0) = false ∧ Instr.wf (.cmp false .eq .e5m2 1 2 .norm g0) = false := by decide

/-- R122, R123: a hint stands in space g alone, the scalar domain has no slice, and an atomic no space l. -/
theorem test_wf_memory : Instr.wf (.ld false .c .w32 .far 0) = false ∧ Instr.wf (.ld true .l .w32 .near 0) = false ∧
    Instr.wf (.st false .d .b8 .noal g0 0) = false ∧ Instr.wf (.st true .l .b64 .near g0 0) = false ∧
    Instr.wf (.atom false .add .l false g0 false 0) = false := by decide

/-- R124, R125: types of the cross-lane family, and `spawn.try` needs a predicate that it can write. -/
theorem test_wf_cross : Instr.wf (.perm .i8) = false ∧ Instr.wf (.bcast .f4) = false ∧ Instr.wf (.red .add .b32) = false ∧
    Instr.wf (.red .and .i32) = false ∧ Instr.wf (.scan .min .ds8 false) = false ∧ Instr.wf (.spawnTry 0 1 g0) = false := by decide

/-- R89, R126, R128, R134, R147, R148, R149, R150: register numbers, conversions, `sel`, `qcvt`, `vset`, `pick` and `roll`. -/
theorem test_wf_long : Instr.wf (.rdsr 0x013) = false ∧ Instr.wf (.wrsr 0xFFF) = false ∧ Instr.wf (.vset true 0 0 1) = false ∧
    Instr.wf (.cvt .rne .f32 .f32 false) = false ∧ Instr.wf (.cvt .rne .f64 .h2 false) = false ∧
    Instr.wf (.cvt .rtz .i32 .n64 false) = false ∧ Instr.wf (.sel .e4m3 g0 false) = false ∧ Instr.wf (.qcvt .f64 .e4m3 16) = false ∧
    Instr.wf (.qcvt .f32 .f32 16) = false ∧ Instr.wf (.qcvt .f32 .e4m3 0) = false ∧ Instr.wf (.qcvt .f32 .e4m3 33) = false ∧
    Instr.wf (.pick 1032 false) = false ∧ Instr.wf (.pick 32 true) = false ∧ Instr.wf (.roll 32 true) = false := by decide

/-- A product with its second operand in a view. -/
def mmaTest : MmaArgs :=
  { c := 0, aa := false, a := 0, bq := false, b := 1, x5 := 0, rd := false, kq := 4, nc := 1, mc := 1, tb := false, ta := false,
    zero := false, rev := false, alg := 0, rm := .rne, dcf := .f32 }

/-- R249, R250, R252, R259, R260, R268, R270: the matrix stream's reserved combinations. -/
theorem test_wf_matrix : Instr.wf (.mma mmaTest) = true ∧ Instr.wf (.mma { mmaTest with rm := .dyn }) = false ∧
    Instr.wf (.mma { mmaTest with rd := true }) = false ∧ Instr.wf (.mma { mmaTest with x5 := 3 }) = false ∧
    Instr.wf (.mma { mmaTest with dcf := .bf16 }) = false ∧ Instr.wf (.mma { mmaTest with aa := true }) = false ∧
    Instr.wf (.mma { mmaTest with aa := true, dcf := .bf16, a := 16 }) = false ∧
    Instr.wf (.mma { mmaTest with bq := true, b := 16 }) = false ∧ Instr.wf (.mld 0 0 1 1 false false .dyn) = false ∧
    Instr.wf (.mst 0 0 1 1 false .f32 .dyn) = false ∧ Instr.wf (.mst 0 0 1 1 false .i8 .rne) = false ∧
    Instr.wf (.mqdual 0 1 0 1 1 .f32) = false ∧ Instr.wf (.mview 0 .c 0 0 .f32) = false ∧ Instr.wf (.mview 0 .c 0 4 .i32) = false ∧
    Instr.wf (.mloop 3 1) = false := by decide

/-! ### Words of the spec -/

/-- R113 to R116: the Z16 words that the spec writes out, and two with a reserved field. -/
theorem test_decode_short : decodeTableWord 16 0x0240 = some (.add .rne .i32 false) ∧
    decodeTableWord 16 0xA640 = some (.add .rsr .f32 false) ∧ decodeTableWord 16 0xE240 = some (.add .sat .i32 false) ∧
    decodeTableWord 16 0x0C68 = some (.div .rne .n64 false) ∧ decodeTableWord 16 0x2768 = some (.conj .d4 0 false) ∧
    decodeTableWord 16 0x8770 = some (.norm .d2 1 false) ∧ decodeTableWord 16 0xA240 = none ∧
    decodeTableWord 16 0x01F8 = none := by decide

/-- R118, R119: slots and literals. -/
theorem test_decode_slots : decodeTableWord 32 0x00000A01 = some (.get false 5) ∧
    decodeTableWord 32 0x001008C1 = some (.inc false 4 1) ∧ decodeTableWord 32 0x00000661 = some (.set true 3) ∧
    decodeTableWord 32 0xFFFFFFC5 = some (.lit false (-1)) ∧ decodeTableWord 32 0x000002A5 = some (.lit true 10) := by decide

/-- R120: branches. -/
theorem test_decode_branches : decodeTableWord 32 0x0000C129 = some (.brl ⟨1, false⟩ 12) ∧
    decodeTableWord 32 0xFFFFA249 = some (.bru ⟨2, false⟩ (-6)) ∧ decodeTableWord 32 0x000000C9 = some (.jmp g0) ∧
    decodeTableWord 32 0x000030A9 = some (.rep g0 3) := by decide

/-- R121, R122, R123: compares, `plog`, loads, stores and atomics; a store's guard with a bit its format does not use is refused. -/
theorem test_decode_memory : decodeTableWord 32 0x00144C8D = some (.cmp false .lt .f32 1 2 .unc g0) ∧
    decodeTableWord 32 0x0041D051 = some (.st false .g .b32 .far ⟨3, false⟩ 8) ∧ decodeTableWord 32 0x0041D011 = none ∧
    decodeTableWord 32 0xFFE01011 = some (.ld false .g .w32 .near (-4)) ∧
    decodeTableWord 32 0x00800511 = some (.ld false .c .z8 .near 16) ∧
    decodeTableWord 32 0x00442A55 = some (.atom false .cas .c true g0 true 8) := by decide

/-- R157, R159: a compare that combines by OR, and `plog` as AND. -/
theorem test_decode_predicates : decodeTableWord 32 0x0030C60D = some (.cmp false .eqz .i32 3 0 .or g0) ∧
    decodeTableWord 32 0x002271D9 = some (.plog 8 3 false 1 2) := by decide

/-- R124: cross-lane operations, barriers and seams. -/
theorem test_decode_cross : decodeTableWord 32 0x00000019 = some (.perm .b32) ∧
    decodeTableWord 32 0x00060039 = some (.bcast .f32) ∧ decodeTableWord 32 0x00022059 = some (.vote .all 1 false) ∧
    decodeTableWord 32 0x00060099 = some (.red .add .f32) ∧ decodeTableWord 32 0x00000319 = some (.barArrive 1 false false) ∧
    decodeTableWord 32 0x00020319 = some (.barArrive 1 true false) ∧ decodeTableWord 32 0x00000339 = some (.barWait 1 false) ∧
    decodeTableWord 32 0x00000159 = some (.seam 0) ∧ decodeTableWord 32 0x003C0579 = some (.mend 2 (-2)) := by decide

/-- R125: engines, accumulators, special registers and services. -/
theorem test_decode_engine : decodeTableWord 32 0xF87FFC1D = some (.wait 63 63 1 31) ∧
    decodeTableWord 32 0x0024033D = some (.rdsr 0x009) ∧ decodeTableWord 32 0x0020035D = some (.wrsr 0x008) ∧
    decodeTableWord 32 0x0000029D = some (.accLd 0) ∧ decodeTableWord 32 0x00000A5D = some (.acq 2) ∧
    decodeTableWord 32 0x001002DD = some (.mstart 4) ∧ decodeTableWord 32 0x0014037D = some (.trap 5) ∧
    decodeTableWord 32 0x0004039D = some (.tret true) ∧ decodeTableWord 32 0x000C03BD = some (.mark 3) ∧
    decodeTableWord 32 0x001C03DD = some (.svc 7) ∧ decodeTableWord 32 0x000007FD = some (.spawnFlush 1) := by decide

/-- R126, R127, R128: the 48-bit formats, the first parcel in the low bits. -/
theorem test_decode_long : decodeTableWord 48 0x00000C000112 = some (.pick 3 false) ∧
    decodeTableWord 48 0x000002400052 = some (.sel .b32 ⟨1, true⟩ false) ∧
    decodeTableWord 48 0x000064001892 = some (.amul .rne .d4 2 true false) ∧
    decodeTableWord 48 0x0000003D1812 = some (.cvt .sat .f32 .e4m3 false) ∧
    decodeTableWord 48 0x0000080518D2 = some (.qcvt .f32 .e4m3 2) ∧
    decodeTableWord 48 0x345678900002 = some (.lit32 false 0x34567890) := by decide

/-- R248, R249: matrix words, whose bits 1 and 0 are ones, and bits 7 to 2 the operation. -/
theorem test_decode_matrix : decodeTableWord 64 0x133 = some (.marv 1) ∧ decodeTableWord 64 0x137 = some (.mwt 1) ∧
    decodeTableWord 64 0x3B = some (.mgive 0) ∧ decodeTableWord 64 0x3F = some (.mtake 0) ∧ decodeTableWord 64 0x4B = some .mhalt ∧
    decodeTableWord 64 0x9053 = some (.mscale 9) ∧ decodeTableWord 64 0x30F = some (.mzero 3) ∧
    decodeTableWord 64 0x227 = some (.mguide 2) ∧ decodeTableWord 64 0x1133 = none := by decide

/-- R335: the Tison words that the spec writes out. -/
theorem test_decode_tison : decodeTableWord 32 0x0030050B = some (.tnRingf 10 3) ∧
    decodeTableWord 32 0x1C85158B = some (.tnBfx 11 10 8 7) := by decide

/-- The same words from the encoder. -/
theorem test_encode : encode (.add .rsr .f32 false) = some (16, 0xA640) ∧ encode (.mend 2 (-2)) = some (32, 0x003C0579) ∧
    encode (.amul .rne .d4 2 true false) = some (48, 0x000064001892) ∧ encode (.mscale 9) = some (64, 0x9053) ∧
    encode (.tnBfx 11 10 8 7) = some (32, 0x1C85158B) ∧ encode .systemStop = none := by decide

/-! ### Single steps -/

/-- An entry that waits for nothing and carries no mark. -/
def ent (w : Word) : Entry := { val := w, pend := none, pois := none }

/-- The probe's team with these values on lane 0's stack and on the scalar stack, the top first. -/
def st (lane scalar : List Word) : State :=
  let b := State.reset.withFetchWord 16 0
  (b.setLanes (b.gp.lanes.modify 0 fun l => { l with stk := lane.map ent })).setFr
    { b.tm.gp.fr with sstk := scalar.map ent }

/-- The same with lanes 0 and 1 live and on one fragment, each with its own stack. -/
def st2 (lane0 lane1 scalar : List Word) : State :=
  let s := st lane0 scalar
  let s := s.setLanes (s.gp.lanes.set 1 { s.gp.lanes.headD (Lane.empty 0) with ix := 1, stk := lane1.map ent })
  s.setFr { s.tm.gp.fr with mask := 3 }

/-- What `f` reads of a next state. -/
def after {α : Type} (o : Host.Outcome State Fault Refusal) (f : State → α) : Option α :=
  match o with
  | .next t => some (f t)
  | _ => none

/-- Lane 0's stack. -/
def stk0 (s : State) : List Word := s.laneVals 0

/-- R130, R138: 2^31 - 1 and 1 wrap to -2^31, an i32 result sign-extended in its entry; saturated, the sum stays 2^31 - 1. -/
theorem test_add_wraps : after (exec (.add .rne .i32 false) (st [1, 0x7FFFFFFF] [])) stk0 = some [0xFFFFFFFF80000000] ∧
    after (exec (.add .sat .i32 false) (st [1, 0x7FFFFFFF] [])) stk0 = some [0x7FFFFFFF] := by decide +kernel

/-- R139: the deeper operand is the dividend; -7 / 2 is -3 with remainder -1, and a zero divisor gives all ones and the dividend. -/
theorem test_div : after (exec (.div .rne .i32 false) (st [2, 0xFFFFFFF9] [])) stk0 = some [0xFFFFFFFFFFFFFFFD] ∧
    after (exec (.rem .i32 false) (st [2, 0xFFFFFFF9] [])) stk0 = some [0xFFFFFFFFFFFFFFFF] ∧
    after (exec (.div .rne .n64 false) (st [0, 5] [])) stk0 = some [0xFFFFFFFFFFFFFFFF] ∧
    after (exec (.rem .i64 false) (st [0, 5] [])) stk0 = some [5] := by decide +kernel

/-- R141: 1 + 2^-24 is a tie that rounds to even, 1, with NX; upward it is the next float. -/
theorem test_float_add : after (exec (.add .rne .f32 false) (st [0x33800000, 0x3F800000] [])) stk0 = some [0x3F800000] ∧
    after (exec (.add .rup .f32 false) (st [0x33800000, 0x3F800000] [])) stk0 = some [0x3F800001] := by decide +kernel

/-- R145: a shift count is taken modulo the width. -/
theorem test_shift : after (exec (.shl .b32 false) (st [33, 0x80000001] [])) stk0 = some [2] ∧
    after (exec (.sar .b32 false) (st [4, 0x80000000] [])) stk0 = some [0xF8000000] := by decide +kernel

/-- R133, R134: `rot` brings the third entry to the top; `pick 1` copies the second. -/
theorem test_stack : after (exec (.rot false) (st [3, 2, 1] [])) stk0 = some [1, 3, 2] ∧
    after (exec (.pick 1 false) (st [3, 2, 1] [])) stk0 = some [2, 3, 2, 1] ∧
    after (exec (.swap true) (st [] [3, 2])) (fun t => vals t.fr.sstk) = some [2, 3] := by decide +kernel

/-- R163, R94: with one lane of two for the branch, `brl` detaches the taken side on the tie; `bru` raises BRNU, code 0x06, which
without a handler ends the launch. -/
theorem test_split : after (exec (.brl ⟨1, false⟩ 8) ((st2 [] [] []).setLanes ((st2 [] [] []).gp.lanes.modify 1 fun l => { l with preds := 2 })))
      (fun t => (t.fr.mask, t.fr.pc, t.gp.frs.map fun f => (f.mask, f.pc))) = some (1, 0x1004, [(2, 0x1010)]) ∧
    after (exec (.bru ⟨1, false⟩ 8) ((st2 [] [] []).setLanes ((st2 [] [] []).gp.lanes.modify 1 fun l => { l with preds := 2 })))
      (fun t => (t.fr.wait, t.ctx.fatal.map Fatal.code)) = some (.dead, some 0x06) := by decide +kernel

/-- R4, R191: a store of the low half word is little-endian, and a load extends what it reads. -/
theorem test_memory : after (exec (.st false .c .b16 .near g0 2) (st [0x1234ABCD, 0] [])) (fun t => (t.byteAt 2 2, t.byteAt 2 3, t.byteAt 2 4)) =
      some (0xCD, 0xAB, 0) ∧
    after (exec (.ld false .c .s8 .near 3) ((st [0] []).putByte 2 3 0x80)) stk0 = some [0xFFFFFFFFFFFFFF80] := by decide +kernel

/-- R199: `atom.add` returns the old value and stores the sum; `cas` stores only where it finds what it expects. -/
theorem test_atomic : after (exec (.atom false .add .c false g0 true 0) ((st [5, 8] []).putNat 2 8 4 7)) (fun t => (stk0 t, t.natAt 2 8 4)) =
      some ([7], 12) ∧
    after (exec (.atom false .cas .c false g0 true 0) ((st [9, 6, 8] []).putNat 2 8 4 7)) (fun t => (stk0 t, t.natAt 2 8 4)) =
      some ([7], 7) := by decide +kernel

/-- R214, R215: with a handler, a trap goes there with its code, its address and its operand. -/
theorem test_trap : after (exec (.trap 5) (let s := st [] []; s.setTm { s.tm with lp := { s.tm.lp with trap := 0x2000 } }))
    (fun t => (t.fr.pc, t.fr.fcode, t.fr.fpc, t.fr.finfo, t.fr.trap.map TrapRec.pc)) =
      some (0x2000, 0x40, 0x1000, 5, some 0x1000) := by decide +kernel

/-- R173, R213: `add` with one entry raises STKUNF, code 0x03, which without a handler ends the launch. -/
theorem test_underflow : after (exec (.add .rne .i32 false) (st [1] [])) (fun t => (t.fr.wait, t.ctx.fatal.map Fatal.code)) =
    some (.dead, some 0x03) := by decide +kernel

/-- R181: the group that stands at `bar.arrive` of a barrier with the sequencer does not complete the phase alone; the sequencer's
arrival does. -/
theorem test_barrier : after (exec (.barArrive 1 false false) (st [] [])) (fun t => ((t.tm.barAt 1).phase, (t.tm.barAt 1).arr)) =
      some (0, [(0, 1)]) ∧
    after (exec (.marv 1) (let s := st [] []; s.setTm { s.tm with bars := s.tm.bars.modify 1 fun b => { b with arr := [(0, 1)] } }))
      (fun t => (t.tm.barAt 1).phase) = some 1 := by decide +kernel

/-- R335: `tn.bfx` takes LEN bits from POS on, and x0 discards. -/
theorem test_tison : after (exec (.tnBfx 5 6 8 7) { State.reset with tison := [{ Tison.reset with regs := Tison.reset.regs.set 6 0xABCDEF }] })
    (fun t => ((t.tison.headD Tison.reset).regs.getD 5 0, (t.tison.headD Tison.reset).pc)) = some (0xCD, 4) := by decide +kernel

/-- R352, R353: an island that is ON takes a quiesce request, and a wake sets SEQERR. -/
theorem test_island : after (exec (.quiesceRequest 5) State.reset) (fun t => ((t.islandAt 5).pstate, (t.islandAt 5).seqerr)) =
      some (.quiescing, false) ∧
    after (exec (.wake 5) State.reset) (fun t => ((t.islandAt 5).pstate, (t.islandAt 5).seqerr)) = some (.on, true) := by decide +kernel

/-- The probe: the parcel at the fragment's pc, `nop`, runs as the next step, and the fragment goes on behind it. -/
theorem test_step : after (step (State.reset.withFetchWord 16 0)) (fun t => t.fr.pc) = some 0x1002 := by decide +kernel

/-! ### Premises that are met: stack, arithmetic, slots -/

/-- O1 stack moves: the widest use of each clause, with exactly the entries it takes. -/
theorem wit_stackMoves : (st [] []).Ready ∧ (st [3, 2, 1] [3, 2, 1]).Ready ∧ (st [] []).RoomOf false (.of 0 1) ∧
    (st [1] []).RoomOf false ⟨1, 0, 1⟩ ∧ (st [1] []).RoomOf false (.of 1 0) ∧ (st [2, 1] []).RoomOf false (.of 2 2) ∧
    (st [2, 1] []).RoomOf false ⟨2, 0, 1⟩ ∧ (st [3, 2, 1] []).RoomOf false (.of 3 3) ∧ (st [2, 1] []).RoomOf false (.of 2 1) ∧
    (st [] [2, 1]).RoomOf true ⟨(1 : BitVec 11).toNat + 1, 0, 1⟩ ∧
    (st [] [2, 1]).RoomOf true ⟨(1 : BitVec 11).toNat + 1, (1 : BitVec 11).toNat + 1, (1 : BitVec 11).toNat + 1⟩ := by
  simp only [State.Ready, State.Fresh, State.LanesOk, State.RoomOf]; decide +kernel

theorem wit_literals : (st [2, 1] [7]).Ready ∧ (st [] []).RoomOf true (.of 0 1) ∧ (st [1] []).OperandsOf false (.of 1 1) ∧
    (st [] [7]).stackFault (.of 0 1) (.of 1 0) = none ∧ (st [2, 1] []).OperandsOf false (.of 2 1) ∧
    (st [] [2, 1]).OperandsOf true (.of 2 1) := by
  simp only [State.Ready, State.Fresh, State.LanesOk, State.RoomOf, State.OperandsOf, State.Operands]; decide +kernel

theorem wit_integer : (st [3, 2, 1] []).Ready ∧ Ty.isInt .n64 = true ∧ Rm.isInt .sat = true ∧
    (st [2, 1] []).OperandsOf false (.of 2 1) ∧ (st [1] []).OperandsOf false (.of 1 1) ∧ (st [3, 2, 1] []).OperandsOf false (.of 3 1) ∧
    (st [] [3, 2, 1]).OperandsOf true (.of 3 1) := by
  simp only [State.Ready, State.Fresh, State.LanesOk, State.OperandsOf, State.Operands]; decide +kernel

theorem wit_float : (st [3, 2, 1] []).Ready ∧ Ty.isFloat .h2 = true ∧ (st [2, 1] []).OperandsOf false (.of 2 1) ∧
    (st [1] []).OperandsOf false (.of 1 1) ∧ (st [3, 2, 1] []).OperandsOf false (.of 3 1) := by
  simp only [State.Ready, State.Fresh, State.LanesOk, State.OperandsOf, State.Operands]; decide +kernel

theorem wit_transcendentals : (st [0x3F800000] []).Ready ∧ (st [0x3F800000] []).OperandsOf false (.of 1 1) ∧
    (st [] [0x3F800000]).Ready ∧ (st [] [0x3F800000]).OperandsOf true (.of 1 1) := by
  simp only [State.Ready, State.Fresh, State.LanesOk, State.OperandsOf, State.Operands]; decide +kernel

theorem wit_bits : (st [4, 3, 2, 1] []).Ready ∧ Ty.isBits .b64 = true ∧ (st [2, 1] []).OperandsOf false (.of 2 1) ∧
    (st [1] []).OperandsOf false (.of 1 1) ∧ (st [3, 2, 1] []).OperandsOf false (.of 3 1) ∧
    (st [4, 3, 2, 1] []).OperandsOf false (.of 4 1) := by
  simp only [State.Ready, State.Fresh, State.LanesOk, State.OperandsOf, State.Operands]; decide +kernel

/-- A table for d = 2: e0 e0 = e0, e0 e1 = e1 e0 = e1, e1 e1 = -e0, in R52's layout with its conjugation. -/
def complexTable : List Byte :=
  (List.range 72).map fun i => if i == 0 then 0x40 else if i == 1 then 0x41 else if i == 8 then 0x41 else if i == 9 then 0xC0
    else if i == 64 then 2 else 0

/-- `st` with the complex table in G0, and in G1 one whose first product names e5. -/
def stAlg (lane : List Word) : State :=
  let s := st lane []
  s.setTm { s.tm with tabs := (s.tm.tabs.set 0 { bytes := complexTable, dim := 2 }).set 1 { bytes := complexTable.set 0 0x45, dim := 8 } }

theorem wit_algebra : (stAlg [2, 1]).Ready ∧ tableBad complexTable (dimOf .d2) = none ∧
    ((stAlg []).tm.tabs.getD 0 AlgTable.empty).bytes = complexTable ∧ (stAlg [2, 1]).OperandsOf false (.of 2 2) ∧
    (stAlg [2, 1]).OperandsOf false (.of 2 1) ∧ (stAlg [4, 3, 2, 1]).OperandsOf false (.of (2 * 2) 2) ∧
    tableBad ((stAlg []).tm.tabs.getD 1 AlgTable.empty).bytes (dimOf .d2) = some 0 := by
  simp only [State.Ready, State.Fresh, State.LanesOk, State.OperandsOf, State.Operands]; decide +kernel

theorem wit_conversions : (st [1] []).Ready ∧ (st [2, 1] []).OperandsOf false (.of (cvtPops .f32 .h2) (cvtPushes .f32 .h2)) ∧
    (st [1] []).OperandsOf false (.of (cvtPops .f32 .i32) (cvtPushes .f32 .i32)) ∧ (st [1] []).OperandsOf false (.of 1 2) := by
  simp only [State.Ready, State.Fresh, State.LanesOk, State.OperandsOf, State.Operands]; decide +kernel

/-- Slots 63 and 62 are the last of a frame of 64, and 255 and 254 of the scalar domain. -/
theorem wit_slots : (st [1] [1]).Ready ∧ (st [1] []).slotFault false false 63 = none ∧ (st [] [1]).slotFault true false 255 = none ∧
    (st [1] []).slotFault false true 62 = none ∧ (st [] [1]).slotFault true true 254 = none ∧ (st [1] []).RoomOf false (.of 0 1) ∧
    (st [1] []).OperandsOf false (.of 1 0) ∧ (st [1] []).OperandsOf false ⟨1, 0, 0⟩ ∧ (st [] [1]).OperandsOf true (.of 1 0) := by
  simp only [State.Ready, State.Fresh, State.LanesOk, State.RoomOf, State.OperandsOf, State.Operands]; decide +kernel

/-! ### Premises that are met: special registers, predicates, control flow -/

/-- `st` on a scalar stack of `n` entries. -/
def deep (n : Nat) : State := st [] (List.replicate n 5)

/-- `s` with its fragment changed. -/
def onFr (s : State) (f : Frag → Frag) : State := s.setFr (f s.tm.gp.fr)

/-- A trap record of the probe's fragment. -/
def rec0 : TrapRec :=
  { pc := 0x1000, next := 0x1004, lc := 0, lb := 0, le := 0, rc := 0, cpreds := 0, region := Region.empty, replay := none, ldepth := 0,
    sdepth := 0, marks := [] }

/-- `st` inside a handler. -/
def trapped (s : State) : State := onFr s fun f => { f with trap := some rec0 }

theorem wit_specialReads : (st [] []).Ready ∧ (st [] []).RoomOf false (.of 0 1) ∧ (st [] []).RoomOf true (.of 0 1) := by
  simp only [State.Ready, State.Fresh, State.LanesOk, State.RoomOf]; decide +kernel

/-- Every case of a write to `%exm`: no lane, all of them, a proper part, and inside a handler. -/
theorem wit_specialWrites : (st2 [1] [1] [1]).Ready ∧ (st2 [1] [1] []).OperandsOf false (.of 1 0) ∧
    (st2 [] [] [1]).OperandsOf true (.of 1 0) ∧ lo32 (4 : Word) &&& (st2 [] [] [4]).fr.mask = 0 ∧
    lo32 (3 : Word) &&& (st2 [] [] [3]).fr.mask = (st2 [] [] [3]).fr.mask ∧ (trapped (st2 [] [] [1])).fr.trap.isSome = true ∧
    (trapped (st2 [] [] [1])).Ready ∧ lo32 (1 : Word) &&& (st2 [] [] [1]).fr.mask ≠ 0 ∧
    lo32 (1 : Word) &&& (st2 [] [] [1]).fr.mask ≠ (st2 [] [] [1]).fr.mask ∧ (st2 [] [] [1]).fr.trap = none ∧
    (deep 9).fr.sstk.length ≤ 9 := by
  simp only [State.Ready, State.Fresh, State.LanesOk, State.OperandsOf, State.Operands]; decide +kernel

theorem wit_compares : (st [2, 1] []).Ready ∧ (st [2, 1] []).OperandsOf false (.of (condArity .lt) 0) ∧
    (st [] [1]).OperandsOf true (.of (condArity .eqz) 0) ∧ (st [] []).RoomOf false (.of 0 1) ∧ (st [1] []).OperandsOf false (.of 1 0) := by
  simp only [State.Ready, State.Fresh, State.LanesOk, State.RoomOf, State.OperandsOf, State.Operands]; decide +kernel

/-- Two lanes of which the second has P1. -/
def split2 (scalar : List Word) : State :=
  let s := st2 [] [] scalar
  s.setLanes (s.gp.lanes.modify 1 fun l => { l with preds := 2 })

/-- The guard holds in every lane, in none, and in one of two; with 8 and with 9 scalar entries; in and outside a handler; and `jmp`
at an even and an odd address. -/
theorem wit_branches : (split2 []).Ready ∧ (split2 []).guarded false g0 = (split2 []).fr.mask ∧ (split2 []).guarded false ⟨2, false⟩ = 0 ∧
    (split2 []).guarded false ⟨1, false⟩ ≠ (split2 []).fr.mask ∧ (split2 []).guarded false ⟨1, false⟩ ≠ 0 ∧
    (trapped (split2 [])).fr.trap.isSome = true ∧ (trapped (split2 [])).Ready ∧ (split2 []).fr.trap = none ∧
    8 < (split2 (List.replicate 9 5)).fr.sstk.length ∧ (split2 (List.replicate 9 5)).Ready ∧
    (split2 (List.replicate 8 5)).fr.sstk.length ≤ 8 ∧ (split2 (List.replicate 8 5)).Ready ∧
    (st [] [0x2000]).OperandsOf true (.of 1 0) ∧ (st [] [0x2000]).fr.guard ⟨1, false⟩ = false ∧ (st [] [0x2000]).fr.guard g0 = true ∧
    (0x2000 : Word).getLsbD 0 = false ∧ (0x2001 : Word).getLsbD 0 = true := by
  simp only [State.Ready, State.Fresh, State.LanesOk, State.OperandsOf, State.Operands]; decide +kernel

/-- `st` with this link stack. -/
def linked (ls : List LinkEntry) : State := onFr (st [] []) fun f => { f with link := ls }

/-- `st` in a loop. -/
def looping (lc : Half) (le : Word) (link : List LinkEntry) : State :=
  onFr (st [] []) fun f => { f with lc := lc, lb := 0xFF0, le := le, link := link }

/-- Room for one entry at 31 and, in a loop, for two at 30; none at 32; a return to a caller outside and inside a loop; nothing to
return to. -/
theorem wit_calls : (linked (List.replicate 31 (.ret 0x2000))).Awake ∧ (linked []).fr.guard g0 = true ∧ (linked []).Fresh ∧
    (linked []).fr.guard ⟨1, false⟩ = false ∧ (linked (List.replicate 31 (.ret 0x2000))).fr.link.length + 1 ≤ 32 ∧
    (looping 3 0x2000 (List.replicate 30 (.ret 0x2000))).Awake ∧ (looping 3 0x2000 (List.replicate 30 (.ret 0x2000))).fr.lc ≠ 0 ∧
    (looping 3 0x2000 (List.replicate 30 (.ret 0x2000))).fr.link.length + 2 ≤ 32 ∧
    32 < (linked (List.replicate 32 (.ret 0x2000))).fr.link.length + 1 ∧
    dropLoops (linked [.loopTriple 3 0xFF0 0x1010, .ret 0x2000]).fr.link = .ret 0x2000 :: [] ∧
    dropLoops (linked [.ret 0x2000, .callTriple 3 0xFF0 0x1010]).fr.link = .ret 0x2000 :: .callTriple 3 0xFF0 0x1010 :: [] ∧
    (0x2000 : Word) ≠ 0x1010 ∧ dropLoops (linked []).fr.link = [] := by
  simp only [State.Awake, State.Fresh, State.LanesOk]; decide +kernel

/-- `st` with `nop`, or with `ret`, behind its instruction of four bytes, in memory and in the core's instruction cache. -/
def before (w : Nat) (scalar : List Word) : State :=
  let s := (st [] scalar).putNat 0 0x1004 2 w
  { s with icache := [{ core := 0, line := 0x1000 / 128, bytes := s.bytesAt 0 0x1000 128 }] }

/-- A loop with a count, with none, and not taken; a `rep` before `nop` and before `ret`; a window that ends with the frame and one
behind it; the last pass of a loop with and without an outer one; a branch out of a body; a repeat that goes on and one that ends. -/
theorem wit_loops : (st [] [5]).Ready ∧ (st [] [5]).OperandsOf true (.of 1 0) ∧ 2 < (3 : BitVec 20).toInt ∧
    (before 0 []).Ready ∧ repeatable .nop = true ∧ (before 0x68 []).Ready ∧ repeatable .ret = false ∧
    encode (.rep g0 3) = some (32, 0x000030A9) ∧
    (0 : BitVec 11).toNat + (64 : BitVec 12).toNat ≤ (st [] []).tm.lp.frame ∧ (st [] []).tm.lp.frame < (1 : BitVec 11).toNat + (64 : BitVec 12).toNat ∧
    (looping 2 0x1002 []).Awake ∧ (looping 2 0x1002 []).fr.rc = 0 ∧ 1 < (looping 2 0x1002 []).fr.lc.toNat ∧
    (looping 2 0x1002 []).fr.le = (looping 2 0x1002 []).fr.pc + 2 ∧ (looping 1 0x1002 []).fr.lc = 1 ∧ (looping 1 0x1002 []).fr.link = [] ∧
    (looping 1 0x1002 [.loopTriple 3 0xFE0 0x1010]).fr.link = [.loopTriple 3 0xFE0 0x1010] ∧ (0x1010 : Word) ≠ 0x1002 ∧
    (looping 3 0x1010 []).fr.lc ≠ 0 ∧ (looping 3 0x1010 []).fr.le < (looping 3 0x1010 []).fr.pc + BitVec.ofInt 64 (2 * (9 : BitVec 20).toInt) ∧
    1 < (onFr (st [] []) fun f => { f with rc := 2 }).fr.rc.toNat ∧ (onFr (st [] []) fun f => { f with rc := 1 }).fr.rc = 1 := by
  simp only [State.Ready, State.Awake, State.Fresh, State.LanesOk, State.OperandsOf, State.Operands]; decide +kernel

theorem wit_repeated : (before 0 []).fetchLane ((before 0 []).fr.pc + 4).toNat = .bytes [0, 0] ∧
    decodeBytes .lane [0, 0] = .ok .nop ∧
    (before 0x180 []).fetchLane ((before 0x180 []).fr.pc + 4).toNat = .bytes [0x80, 1] ∧
    decodeBytes .lane [0x80, 1] = .ok .ret := ⟨rfl, rfl, rfl, rfl⟩

/-! ### Premises that are met: lanes together, seams, barriers -/

/-- `s` with its team changed. -/
def onTm (s : State) (f : Team → Team) : State := s.setTm (f s.tm)

/-- Two fragments: lane 0 executes, lane 1 waits in `w`. -/
def pair (lane scalar : List Word) (w : Wait) : State :=
  let s := st2 lane [] scalar
  let f := s.fr
  (onFr s fun f => { f with mask := 1 }).setGp
    { (onFr s fun f => { f with mask := 1 }).tm.gp with frs := [{ f with mask := 2, wait := w, parkedAt := 1 }] }

theorem alone (s : State) (h : s.gp.frs = []) : s.AloneAtPc := by
  intro f hf; rw [h] at hf; cases hf

/-- Lane 0 names itself; with two fragments it names a lane that has not arrived, and one that has exited. -/
theorem wit_crossLane : (st [2, 1, 0] [1]).Ready ∧ lo32 (1 : Word) &&& ~~~(st [] [1]).fr.mask = 0 ∧
    lo32 (1 : Word) &&& ~~~(st [] [1]).gp.liveMask = 0 ∧ (st [2, 1, 0] [1]).Operands (.of 3 1) (.of 1 0) ∧
    (st [5] [1, 0]).Operands (.of 1 1) (.of 2 0) ∧ (st [5] [1]).Operands (.of 1 0) (.of 1 0) ∧
    (st [5] [1]).Operands (.of 1 0) (.of 1 1) ∧ (st [5] [1]).Operands (.of 1 1) (.of 1 0) ∧
    (pair [5] [3] .none).Ready ∧ (pair [5] [3] .none).Operands (.of 1 0) (.of 1 1) ∧
    lo32 (3 : Word) &&& ~~~(pair [5] [3] .none).gp.liveMask = 0 ∧ lo32 (3 : Word) &&& ~~~(pair [5] [3] .none).fr.mask ≠ 0 ∧
    lo32 (4 : Word) &&& ~~~(pair [5] [4] .none).gp.liveMask ≠ 0 := by
  simp only [State.Ready, State.Fresh, State.LanesOk, State.Operands]; decide +kernel

theorem wit_crossLaneAlone : (st [5] [1]).AloneAtPc ∧ (pair [5] [3] .none).AloneAtPc := by
  refine ⟨alone _ rfl, ?_⟩
  intro f hf _ m
  have : f.wait = .none := by
    have h : ∀ f ∈ (pair [5] [3] .none).gp.frs, f.wait = .none := by decide +kernel
    exact h f hf
  rw [this]; simp

/-- `st` with seam 1 in this state, and transfer slot 2 full. -/
def seamed (s : State) (x : Seam) : State :=
  onTm (s.setGp { s.tm.gp with seams := s.tm.gp.seams.set 1 x }) fun t => { t with xs := t.xs.set 2 { XSlot.empty with full := true } }

/-- A slot to fill and one to empty; `seam` at an IDLE and at an open seam; `mend` at an IDLE seam, before the other lane and as the
last one; and the release of a group whose only fragment waits at a PART seam. -/
theorem wit_seams : (st [5] []).Ready ∧ (st [5] []).OperandsOf false (.of 1 0) ∧ ((st [5] []).tm.xs.getD 1 XSlot.empty).full = false ∧
    (st [5] []).before (fun w => w == .xslot 1 true) = false ∧ (seamed (st [] []) Seam.idle).RoomOf false (.of 0 1) ∧
    ((seamed (st [] []) Seam.idle).tm.xs.getD 2 XSlot.empty).full = true ∧
    (seamed (st [] []) Seam.idle).before (fun w => w == .xslot 2 false) = false ∧
    ((st [] []).gp.seams.getD 1 Seam.idle).st = .idle ∧
    (let s := seamed (pair [] [] .none) ⟨.opened, 3, 0, 0, 0⟩
     s.Ready ∧ s.laneDepth = 0 ∧ s.fr.sstk.length = 0 ∧ (s.gp.seams.getD 1 Seam.idle).st ≠ .idle ∧
       s.fr.mask &&& (3 : Mask) ≠ 0 ∧ (s.laneDepth : Int) = 0 + (0 : BitVec 5).toInt ∧ (3 : Mask) &&& ~~~(0 ||| s.fr.mask) ≠ 0) ∧
    (let s := seamed (pair [] [] (.seam 1)) ⟨.part, 3, 2, 0, 0⟩
     s.Ready ∧ (3 : Mask) &&& ~~~(2 ||| s.fr.mask) = 0 ∧ s.gp.frs.all (fun f => f.wait != .seam 1 || f.lc == 0) = true) ∧
    (let s := seamed (onFr (st [] []) fun f => { f with wait := .seam 1 }) ⟨.part, 3, 1, 0, 0⟩
     s.tm.live = true ∧ s.gp.alive = true ∧
       s.gp.allFrags.all (fun f => f.trap.isNone && match f.wait with | .seam _ => true | _ => false) = true ∧ (s.gp.seamAt 1).st = .part ∧
       (∀ k < 1, (s.gp.seamAt k).st ≠ .part) ∧ s.gp.parkedAtSeam 1 = s.fr :: []) := by
  simp only [State.Ready, State.Fresh, State.LanesOk, State.RoomOf, State.OperandsOf, State.Operands]; decide +kernel

/-- `st` with barrier 1 so, for a group, and with the sequencer where `m` holds. -/
def barred (m : Bool) (f : Barrier → Barrier) : State :=
  onTm (st [] []) fun t => { t with bars := t.bars.set 1 (f { Barrier.empty with groups := 1, plusM := m }) }

/-- A group outside a barrier; an arrival that leaves the phase open, and one that completes it; one that has arrived already; a wait
for a phase that is over and for one that is not. -/
theorem wit_barriers : (barred true id).Ready ∧ (barred false fun b => { b with groups := 0 }).participates { Barrier.empty with groups := 0 } = false ∧
    (let s := barred true id
     let x := s.tm.barAt 1
     let y := x.arrive s.gp.gix s.fr false false
     s.participates x = true ∧ s.fr.mask &&& (x.arr.lookup s.gp.gix).getD 0 = 0 ∧
       ((List.range x.groups).all ((s.tm.setBar 1 y).hasArrived y) && (!x.plusM || x.seqArr)) = false ∧
       (∀ k, s.stepOf s.tm = some k → k.doneAt = none → (s.tm.barAt k.bar).phase ≤ k.phase)) ∧
    (let s := barred false id
     let x := s.tm.barAt 1
     let y := x.arrive s.gp.gix s.fr false false
     s.Ready ∧ s.participates x = true ∧ s.fr.mask &&& (x.arr.lookup s.gp.gix).getD 0 = 0 ∧
       ((List.range x.groups).all ((s.tm.setBar 1 y).hasArrived y) && (!x.plusM || x.seqArr)) = true ∧ 1 < s.tm.bars.length ∧
       s.stepping = none ∧ s.gp.alive = true ∧ s.tm.groupAt s.gp.gix ≠ none) ∧
    (let s := barred true fun b => { b with arr := [(0, 1)], last := [(0, 0)] }
     let x := s.tm.barAt 1
     s.participates x = true ∧ s.fr.mask &&& (x.arr.lookup s.gp.gix).getD 0 ≠ 0 ∧ x.last.lookup s.gp.gix = some 0 ∧
       x.over 0 false = false) ∧
    (let s := barred true fun b => { b with phase := 1, last := [(0, 0)], gangRel := [0] }
     (s.tm.barAt 1).last.lookup s.gp.gix = some 0 ∧ (s.tm.barAt 1).over 0 true = true ∧ (s.tm.barAt 1).over 0 false = true) := by
  simp only [State.Ready, State.Fresh, State.LanesOk]; decide +kernel

/-- A gang of one team that has completed phase 0 of barrier 1 as a gang phase, and one that has completed none. -/
theorem wit_gang : (let s := barred false fun b => { b with phase := 1, gangDone := [(0, 7)] }
    let k := s.ctxs.getD 0 LaunchCtx.empty
    let members := (k.map.map (·.1)).filter fun v => gangLevel k.lp v == gangLevel k.lp 0
    (∃ u ∈ s.tm :: s.teams, (u.live = true ∧ u.ctx = 0 ∧ u.vcore ∈ members) ∧
      (0 ∈ (u.barAt 1).gangDone.map (·.1) ∧ 0 ∉ (u.barAt 1).gangRel)) ∧
    (∀ u ∈ s.tm :: s.teams, ∀ q ∈ (u.barAt 1).gangDone.map (·.1), q = 0) ∧ (∀ v ∈ members, s.gangPts 0 v 1 0 ≠ none) ∧
    ∀ u ∈ s.tm :: s.teams, 1 < u.bars.length) ∧
    ∀ u ∈ (barred false id).tm :: (barred false id).teams, (u.barAt 1).gangDone = [] := by decide +kernel

/-! ### Premises that are met: memory -/

/-- A page at 0x10000: device memory at 0x20000, or host memory. -/
def page0 (host : Bool) : PageEntry :=
  { fn := 0, va := 0x10000, log2 := 16, pa := if host then 2 ^ 51 else 0x20000, r := true, w := true, region := 0, owner := 0,
    resident := true, lost := false }

/-- `s` with these pages beside the code's, those that are resident known to the core. -/
def paged (s : State) (ps : List PageEntry) : State :=
  { s with pages := s.pages ++ ps, tlb := s.tlb ++ (ps.filter (·.resident)).map fun p => (0, p) }

/-- A load from the last word of the scratchpad, of global memory, and by the fragment from the die scratchpad. -/
theorem wit_loads : (st [0xBFFFC] []).Ready ∧ (st [0xBFFFC] []).OperandsOf false (.of 1 1) ∧
    (st [0xBFFFC] []).Reaches (ldOp false .c .w32 .near 0) ∧ (paged (st [0x10000] []) [page0 false]).Reaches (ldOp false .g .w64 .near 8) ∧
    (st [] [0xFFF8]).OperandsOf true (.of 1 1) ∧ (st [] [0xFFF8]).Reaches (ldOp true .d .w64 .near 0) ∧
    (st [252] []).Reaches (ldOp false .l .w32 .near 0) := by
  simp only [State.Ready, State.Fresh, State.LanesOk, State.OperandsOf, State.Operands, State.Reaches]; decide +kernel

/-- A store to the scratchpad, to the slice, and to a page of host memory. -/
theorem wit_stores : (st [1, 0xBFFFC] []).Ready ∧ (st [1, 0xBFFFC] []).OperandsOf false (.of 2 0) ∧
    (st [1, 0xBFFFC] []).Reaches (stOp false .c .b32 g0 0) ∧ ((st [1, 0xBFFFC] []).stored (stOp false .c .b32 g0 0)).all (fun w => !w.host) = true ∧
    (st [1, 248] []).Reaches (stOp false .l .b64 g0 0) ∧
    (let s := paged (st [1, 0x10000] []) [page0 true]
     s.Reaches (stOp false .g .b16 g0 2) ∧ (s.stored (stOp false .g .b16 g0 2)).isEmpty = false ∧
       (s.stored (stOp false .g .b16 g0 2)).all (fun w => w.host && linkOf w.key == 0) = true ∧
       (s.hlinks.getD 0 { up := true, mode := .cxl }).up = true) := by
  simp only [State.Ready, State.Fresh, State.LanesOk, State.OperandsOf, State.Operands, State.Reaches]; decide +kernel

theorem wit_atomics : (st [5, 0x10000] []).Ready ∧ (st [5, 0x10000] []).OperandsOf false (.of 2 1) ∧
    (paged (st [5, 0x10000] []) [page0 false]).Reaches (atomOp false .add .g false g0 true 0) ∧
    (st [] [5, 6, 8]).OperandsOf true (.of 3 0) ∧ (st [] [5, 6, 8]).Reaches (atomOp true .cas .c true g0 false 0) := by
  simp only [State.Ready, State.Fresh, State.LanesOk, State.OperandsOf, State.Operands, State.Reaches]; decide +kernel

/-- One past the scratchpad's last word, an odd address, a line under a transfer, and a page that is not mapped; and each clause's
limit in the slice and in the scratchpads. -/
theorem wit_accessFaults : (st [0xC0000] []).Ready ∧ (Instr.ld false .c .w32 .near 0).wf = true ∧
    memOpOf (.ld false .c .w32 .near 0) = some (ldOp false .c .w32 .near 0) ∧ (st [0xC0000] []).OperandsOf false (.of 1 1) ∧
    (let m := ldOp false .c .w32 .near 0
     let c := fun (s : State) => s.checkAll m (s.reqs m (s.todoOf m))
     (c (st [0xC0000] [])).bad = some ⟨.space, 1, 0xC0000⟩ ∧ (c (st [2] [])).bad = some ⟨.align, 1, 2⟩ ∧
       (c { st [0] [] with absent := [0] }).bad = none ∧ (c { st [0] [] with absent := [0] }).wait ≠ []) ∧
    (let m := ldOp false .c .w32 .near 0
     let busy := fun n => onTm (st [0] []) fun t => { t with outs := [{ id := 1, cls := .ld, who := 0, mask := 1, reqs := n, done := none }] }
     let c := fun (s : State) => s.checkAll m (s.reqs m (s.todoOf m))
     (c (busy 1024)).bad = none ∧ (busy 1024).hasRoom ((c (busy 1024)).requests m) = false ∧
       (busy 1023).hasRoom ((c (busy 1023)).requests m) = true) ∧
    (let m := ldOp false .g .w32 .near 0
     let c := fun (s : State) => s.checkAll m (s.reqs m (s.todoOf m))
     let s := paged (st [0x10000] []) [{ page0 false with resident := false }]
     (c s).bad = none ∧ (c s).wait = [] ∧ (c s).miss ≠ []) ∧
    4 * (st [] []).tm.lp.frame ≤ 256 ∧ 254 < 4 * (st [] []).tm.lp.frame ∧ 254 % 4 ≠ 0 ∧ 252 < 4 * (st [] []).tm.lp.frame ∧
    252 % 8 = 4 ∧ (st [] []).tm.lp.spad ≤ 0xC0000 ∧ 0xBFFFE < (st [] []).tm.lp.spad ∧ 0xBFFFE % 4 ≠ 0 ∧
    (st [] []).tm.lp.dspad ≤ 0x10000 ∧ 0xFFFF < (st [] []).tm.lp.dspad ∧ 2 ^ 56 ≤ 2 ^ 56 ∧
    (let s := onTm (st [] []) fun t => { t with lp := { t.lp with frame := 33 } }
     128 < 4 * s.tm.lp.frame ∧ 128 % 8 = 0 ∧ 4 * s.tm.lp.frame < 128 + 8) := by
  simp only [State.Ready, State.Fresh, State.LanesOk, State.OperandsOf, State.Operands]; decide +kernel

/-- Counts that are met at once, and a copy that is not complete; a fence at once and one behind a load; a store's acknowledgement. -/
def waiting1 : State :=
  onTm (st [] []) fun t => { t with outs := [{ id := 1, cls := .ld, who := 0, mask := 1, reqs := 1, done := none }] }

/-- A store of the probe's fragment on its way to the host. -/
def posted1 : Posted := { id := 3, team := ⟨0, 0⟩, who := 0, mask := 1, link := 0, bytes := [(2 ^ 51, 5)], passed := 0 }

theorem wit_waits : waiting1.Ready ∧ waiting1.tm.countsMet waiting1.gp waiting1.fr 1 0 0 0 = true ∧
    waiting1.tm.countsMet waiting1.gp waiting1.fr 0 0 0 0 = false ∧ (st [] []).fenceReady .die = true ∧ waiting1.fenceReady .die = false ∧
    (waiting1.tm.outs.any fun o => o.id == 1 && o.cls == .ld) = true ∧ { st [] [] with posted := [posted1] }.fenceReady .host = false ∧
    (let s := onFr (st [] []) fun f => { f with wait := .fence .host }
     s.Placed ∧ s.fr.wait = .fence .host ∧ s.fr.rc = 0 ∧ s.fr.lc = 0 ∧ s.fenceReady .host = true) ∧
    (∀ q ∈ [posted1], q.id ≠ 4) ∧ posted1.passed < 2 ∧ { posted1 with passed := 2 }.passed = 2 ∧ { st [] [] with posted := [posted1] }.posted = posted1 :: [] ∧ posted1.id = 3 := by
  simp only [State.Ready, State.Fresh, State.LanesOk, State.Placed]; decide +kernel

/-- A fragment that waits for a page: one whose page the pager will bring, one whose page is resident and not yet known to the core, and
one whose page is unmapped, with a handler; a fragment passed over for 256 cycles, and one that waits for a line of code. -/
theorem wit_paging : (let p := { page0 false with resident := false }
     let s := paged (onFr (st [] []) fun f => { f with wait := .page 0x10000 }) [p]
     s.Placed ∧ s.fr.wait = .page 0x10000 ∧ s.fr.replay = none ∧ s.transOf 0x10000 = none ∧ s.pageOf s.ctx.fn 0x10000 = some p ∧
       s.pageFails s.ctx.fn 0x10000 = false ∧ s.flipHeld (p.phys 0x10000) = false) ∧
    (let s := { paged (onFr (st [] []) fun f => { f with wait := .page 0x10000 }) [page0 false] with tlb := [] }
     s.Placed ∧ s.transOf 0x10000 = none ∧ s.pageOf s.ctx.fn 0x10000 = some (page0 false) ∧ s.pageFails s.ctx.fn 0x10000 = false ∧
       s.flipHeld ((page0 false).phys 0x10000) = false) ∧
    (let s := onTm (onFr (st [] []) fun f => { f with wait := .page 0x10000 }) fun t => { t with lp := { t.lp with trap := 0x2000 } }
     s.Placed ∧ (s.pageOf s.ctx.fn 0x10000).all (fun q => !q.resident) = true ∧ s.fr.replay = none ∧ s.fr.trap = none ∧
       s.tm.lp.trap ≠ 0) ∧
    (let s := onFr (st [] []) fun f => { f with passed := 256 }
     s.Placed ∧ 256 ≤ s.fr.passed) ∧
    (let s := onFr (st [] []) fun f => { f with wait := .fetch 32 }
     s.Placed ∧ s.fr.wait = .fetch 32) := by
  simp only [State.Placed]; decide +kernel

/-! ### Premises that are met: engines, rings, work -/

/-- A view of one row of eight f32 in global memory at 0x10000. -/
def view1 : List Half := [0x10000, 0, 8, 1, 1, 1, 64, 0, 0, 3, 0, 0, 0, 8 + 2 ^ 16, 0, 0]

/-- `st` with `view1` in V1 and its page mapped. -/
def viewed (scalar : List Word) : State :=
  onTm (paged (st [] scalar) [page0 false]) fun t => { t with views := t.views.set 1 view1 }

/-- A transfer of that tile into the scratchpad. -/
def op1 : EngineOp :=
  { id := 1, kind := .tld, team := ⟨0, 0⟩, who := 0, cluster := 0, home := 0, mask := 1, pts := 0, view := view1, tile := 0, psp := 2,
    paddr := 0, src := [⟨0, 1024, 1024⟩], dst := [⟨2, 0, 0⟩], waiting := false, absent := [], ring := 0, slot := 0, session := 0, joined := false,
    result := none, unit := false, got := false }

/-- `s` with one operation in flight. -/
def flying (s : State) (o : EngineOp) : State := { s with ops := [o] }

theorem wit_copies : (viewed [0]).Ready ∧ (viewed [7]).OperandsOf true (.of 1 0) ∧ (viewed [0]).Operands Use.none (.of 1 0) ∧
    (viewed [2, 0]).Operands Use.none (.of 2 0) ∧ (viewed [0]).viewFault (viewOf view1) (wordOf (.tld 1)) [0] = none ∧
    (viewed [0]).viewFault (viewOf view1) (wordOf (.tst 1)) [0] = none ∧
    (viewed [0]).viewFault (viewOf view1) (wordOf (.xfer 1)) [0] = none ∧
    (viewed [0]).operandFault ⟨.tld, 1, 2, 0⟩ (viewOf view1).tileBytes = none ∧
    (viewed [0]).operandFault ⟨.tst, 1, 2, 0⟩ (viewOf view1).tileBytes = none ∧
    (viewed [2, 0]).operandFault ⟨.xfer, 1, 2, 0⟩ (viewOf view1).tileBytes = none ∧ (viewed [0]).tm.cpBusy < 32 ∧ (viewed [0]).TablesOpen ∧
    (flying (viewed []) { op1 with waiting := true }).opById 1 = some { op1 with waiting := true } ∧
    (flying (viewed []) op1).opById 1 = some op1 ∧ (flying (viewed []) op1).opBlocked op1 = false ∧ op1.kind = .tld ∧ op1.psp = 2 ∧
    (viewOf op1.view).nibs ≠ 1 := by
  simp only [State.Ready, State.Fresh, State.LanesOk, State.OperandsOf, State.Operands, State.TablesOpen]; decide +kernel

theorem wit_copyPages :
    (viewed [0]).checkPages (viewed [0]).tm ((viewOf view1).globals [0]) (packedGlobals 2 0 (viewOf view1).tileBytes) = .ok ∧
    (viewed [0]).checkPages (viewed [0]).tm (packedGlobals 2 0 (viewOf view1).tileBytes) ((viewOf view1).globals [0]) = .ok ∧
    (viewed [0]).checkPages (viewed [0]).tm ((viewOf view1).globals [0]) [] = .ok ∧
    (viewed [0]).checkPages (viewed [0]).tm [] ((viewOf view1).globals [0]) = .ok := ⟨rfl, rfl, rfl, rfl⟩

/-- A ring of two slots of 128 bytes. -/
def ring1 : Ring := { Ring.empty with base := 1024, slotBytes := 128, slots := 2, st := [.free, .free], spts := [0, 0] }

/-- `viewed` with ring 3. -/
def ringed (scalar : List Word) (f : Ring → Ring) : State :=
  onTm (viewed scalar) fun t => { t with rings := t.rings.set 3 (f ring1) }

theorem wit_rings : (ringed [] id).Ready ∧ (ringed [] id).tm.rings.length = 16 ∧ (ringed [] id).RoomOf true (.of 0 1) ∧
    ((ringed [] id).tm.ringAt 4).slots = 0 ∧ ((ringed [] id).tm.ringAt 3).slots ≠ 0 ∧ ((ringed [] id).tm.ringAt 3).drain = none ∧
    (let s := ringed [] fun r => { r with st := [.free, .full], queue := [1] }
     (s.tm.ringAt 3).queue = 1 :: [] ∧ s.before (fun w => w == .ring 3 false) = false ∧ s.tm.matrixWants 3 = false) ∧
    (let s := ringed [] fun r => { r with prods := [⟨some 0, true, 0⟩] }
     (s.tm.ringAt 3).queue = [] ∧ (s.tm.ringAt 3).allEos = true) ∧
    (ringed [BitVec.allOnes 64] id).OperandsOf true (.of 1 1) ∧ (ringed [0] id).fr.guard ⟨1, false⟩ = false ∧ (ringed [0] id).fr.guard g0 = true ∧
    ((ringed [] id).tm.ringAt 3).sub = none ∧ (ringed [] id).before (fun w => w == .ring 3 true) = false ∧
    (ringed [1] id).OperandsOf true (.of 1 0) ∧ (1 : Word).toNat < ((ringed [] id).tm.ringAt 3).slots ∧
    (let s := ringed [1] fun r => { r with st := [.free, .taken 0] }
     (s.tm.ringAt 3).st.getD (1 : Word).toNat .free = .taken 0) ∧ (viewOf view1).tileBytes ≤ ((ringed [] id).tm.ringAt 3).slotBytes ∧
    ((ringed [] id).tm.ringAt 3).ended = false ∧ ((ringed [] id).tm.ringAt 3).prods.length < 4 ∧
    (∀ p ∈ ((ringed [] id).tm.ringAt 3).prods, p.who ≠ none) ∧ ((ringed [] id).tm.ringAt 3).freeSlot ≠ none ∧
    (ringed [] id).viewFault (viewOf view1) (wordOf (.ringSub 3 1)) (List.range (viewOf view1).tiles) = none ∧
    (ringed [] id).viewRegion (viewOf view1) false = none ∧ ((ringed [] id).tm.ringAt 3).taken = false ∧
    (ringed [] id).viewFault (viewOf view1) (wordOf (.ringDrain 3 1)) (List.range (viewOf view1).tiles) = none ∧
    (ringed [] id).viewRegion (viewOf view1) true = none := by
  simp only [State.Ready, State.Fresh, State.LanesOk, State.RoomOf, State.OperandsOf, State.Operands]; decide +kernel

/-- A first `ring.put` and a `ring.eos` become a producer; the lowest FREE slot is slot 0. -/
theorem wit_ringOffers :
    (∃ r, ((ringed [BitVec.allOnes 64] id).tm.ringAt 3).offer 0 0 (BitVec.allOnes 64) true = .ok r ∧ r.freeSlot = some 0) ∧
    ∃ r, ((ringed [BitVec.allOnes 64] id).tm.ringAt 3).offer 0 0 (BitVec.allOnes 64) false = .ok r :=
  ⟨⟨_, rfl, rfl⟩, ⟨_, rfl⟩⟩

/-- A stream at its first tile. -/
def stream1 : Stream := { view := view1, next := 0, pts := 0, busy := [], since := none, stamp := 0, born := 0 }

theorem wit_ringTransfers : (ringed [] id).tm.live = true ∧ (ringed [] id).tm.halting = false ∧ (ringed [] id).tm.rings.length = 16 ∧ (ringed [] id).TablesOpen ∧
    (let s := ringed [] fun r => { r with sub := some stream1 }
     (s.tm.ringAt 3).sub = some stream1 ∧ (s.tm.ringAt 3).freeSlot = some 0 ∧ stream1.wants = true ∧ s.putterAhead 3 stream1 = false ∧
       s.teamRuns s.tm = true ∧ s.streamServed s.tm false stream1 = true) ∧
    (let s := ringed [] fun r => { r with st := [.free, .full], queue := [1], drain := some stream1 }
     (s.tm.ringAt 3).drain = some stream1 ∧ (s.tm.ringAt 3).queue = 1 :: [] ∧ stream1.wants = true ∧ s.teamRuns s.tm = true ∧ s.streamServed s.tm true stream1 = true) ∧
    (let o : EngineOp := { op1 with kind := .fill, ring := 3, slot := 0, paddr := 1024, dst := [⟨2, 8, 8⟩] }
     let d : Stream := { stream1 with next := 1, busy := [(0, 0, false)] }
     let s := flying (ringed [] fun r => { r with st := [.resvSub, .free], sub := some d }) o
     s.opById 1 = some o ∧ o.waiting = false ∧ s.opBlocked o = false ∧ o.team = s.teamRef ∧ o.ring = 3 ∧ o.kind = .fill ∧
       (s.tm.ringAt 3).sub = some d ∧ d.busy = [(0, o.slot, false)] ∧ o.slot < (s.tm.ringAt 3).st.length ∧ o.psp = 2 ∧ (viewOf o.view).nibs ≠ 1) ∧
    (let o : EngineOp := { op1 with kind := .drain, ring := 3, slot := 1, paddr := 1152, src := [⟨2, 9, 9⟩], dst := [⟨0, 1024, 1024⟩] }
     let d : Stream := { stream1 with next := 1, busy := [(0, 1, false)] }
     let s := flying (ringed [] fun r => { r with st := [.free, .takenDrain], drain := some d }) o
     s.opById 1 = some o ∧ s.opBlocked o = false ∧ o.team = s.teamRef ∧ (s.tm.ringAt 3).drain = some d) := by
  simp only [State.TablesOpen]; decide +kernel

/-- The first tile of the stream lies on a page that is resident. -/
theorem wit_streamPages :
    (let s := ringed [] fun r => { r with sub := some stream1 }
     s.checkPages s.tm ((viewOf stream1.view).globals [stream1.next]) [] = .ok) ∧
    (let s := ringed [] fun r => { r with st := [.free, .full], queue := [1], drain := some stream1 }
     s.checkPages s.tm [] ((viewOf stream1.view).globals [stream1.next]) = .ok) := ⟨rfl, rfl⟩

/-- A ready task whose TCB lies at 0x10000. -/
def task1 : ReadyTask := { prio := 0, rseq := 0, addr := 0x10000, pts := 0 }

/-- `viewed` with its launch's task context, or another part of its context, changed. -/
def onCtx (s : State) (f : LaunchCtx → LaunchCtx) : State := s.modCtx 0 f

theorem wit_tasks : (viewed [0x10000]).Ready ∧ (viewed []).RoomOf true (.of 0 1) ∧ (viewed []).fr.region.disp = none ∧ (viewed []).fr.redisp = none ∧
    (onTm (viewed []) fun t => { t with block := [7] }).tm.block = 7 :: [] ∧ (viewed []).tm.block = [] ∧ (viewed []).ctx.returned = [] ∧
    (onCtx (viewed []) fun k => { k with dispC := 64 }).ctx.lp.dcount ≤ (onCtx (viewed []) fun k => { k with dispC := 64 }).ctx.dispC ∧
    (viewed []).tm.lp.task = true ∧ (viewed []).launchBefore (fun _ => true) (fun w => w == .task) = false ∧
    (let s := onCtx (viewed []) fun k => { k with tasks := { k.tasks with pool := [task1], opened := 1 } }
     s.ctx.tasks.first = some task1 ∧ s.tm.ctx < s.ctxs.length ∧ s.physOf s.ctx.fn task1.addr.toNat = some 0x20000) ∧
    (viewed []).ctx.tasks.first = none ∧ (viewed []).ctx.tasks.opened = 0 ∧ ((viewed []).poolOps.any fun o => o.arm && o.ctx == (viewed []).tm.ctx) = false ∧
    (viewed [0x10000]).OperandsOf true (.of 1 0) ∧ (viewed [0x10000]).fr.guard ⟨1, false⟩ = false ∧ (viewed [0x10000]).fr.guard g0 = true ∧
    (viewed []).checkAddr .atomic .g 64 (0x10000 : Word).toNat = .good { sp := 0, key := 0x20000, host := false, stamped := true, leased := true } ∧
    (viewed []).pageOf (viewed []).ctx.fn (0x10000 : Word).toNat = some (page0 false) ∧ (page0 false).region = 0 := by
  simp only [State.Ready, State.Fresh, State.LanesOk, State.RoomOf, State.OperandsOf, State.Operands]; decide +kernel

/-- A posted operation on the TCB at 0x20000. -/
def pool1 (arm : Bool) : PoolOp :=
  { id := 1, arm := arm, ctx := 0, team := ⟨0, 0⟩, who := 0, mask := 1, tcb := 0x10000, pa := 0x20000, pts := 0 }

/-- A NEW task that waits for one and for none; a RUNNING one without a successor; and one whose list at 0x10100 names the ARMED
task at 0x10080, which waits for it alone. -/
theorem wit_pool : (let s := { viewed [] with poolOps := [pool1 true] }
     s.poolNext 1 true = some (pool1 true) ∧ (pool1 true).ctx < s.ctxs.length ∧ (s.byteAt 0 (0x20000 + 25)).toNat = 0 ∧
       (s.byteAt 0 (0x20000 + 24)).toNat ≤ 7 ∧ s.natAt 0 (0x20000 + 16) 4 = 0 ∧ (s.putNat 0 0x20010 4 1).natAt 0 (0x20000 + 16) 4 ≠ 0 ∧
       (s.ctxs.getD 0 LaunchCtx.empty).tasks.pool.length < 4096) ∧
    (let s := ({ viewed [] with poolOps := [pool1 false] }.putByte 0 0x20019 3)
     s.poolNext 1 false = some (pool1 false) ∧ (s.byteAt 0 (0x20000 + 25)).toNat = 3 ∧ s.natAt 0 (0x20000 + 20) 4 = 0) ∧
    (let s := (((({ viewed [] with poolOps := [pool1 false] }.putByte 0 0x20019 3).putNat 0 0x20014 4 1).putNat 0 0x20020 8 0x10100).putNat 0
        0x20100 8 0x10080).putNat 0 0x20090 4 1 |>.putByte 0 0x20099 1
     s.natAt 0 (0x20000 + 20) 4 = 1 ∧ s.physOf 0 (s.natAt 0 (0x20000 + 32) 8) = some 0x20100 ∧ s.physOf 0 (s.natAt 0 0x20100 8) = some 0x20080 ∧
       (∀ i < 64, ∀ j < 64, 0x20000 + i ≠ 0x20080 + j) ∧ (s.byteAt 0 (0x20080 + 25)).toNat = 1 ∧ s.natAt 0 (0x20080 + 16) 4 = 1) := by
  decide +kernel

/-- A queue of these items, granted as window entry 2. -/
def queue1 (n : Nat) : WorkQueue := { die := 0, unit := 5, ctx := some 0, win := 2, items := List.replicate n (1, 2, 3) }

/-- A full queue, one with a place left, and one that holds an item. -/
theorem wit_queues : (st [2, 1] []).Ready ∧ { st [2, 1] [] with wqs := [queue1 4] }.queueUnit 2 = some (queue1 4) ∧
    (st [2, 1] []).OperandsOf false (.of 2 0) ∧ (st [] []).RoomOf false (.of 0 2) ∧
    (queue1 4095).items.length + countLanes ((st [] []).guarded false g0) ≤ 4096 ∧ (st [] []).queueAhead 2 true = false ∧
    countLanes ((st [] []).guarded false g0) ≤ (queue1 1).items.length ∧ (st [] []).queueAhead 2 false = false := by
  simp only [State.Ready, State.Fresh, State.LanesOk, State.RoomOf, State.OperandsOf, State.Operands]; decide +kernel

/-- `viewed` with a gathering line of entry 1 that has room, entries at 0x3000, and a join counter for lane 0. -/
def spawning (lane : List Word) (jcp : Word) : State :=
  let s := paged (st lane []) [page0 false]
  let s := s.setLanes (s.gp.lanes.modify 0 fun l => { l with jcp := jcp })
  onTm s fun t => { t with lines := [⟨1, [], false, 9, 0⟩], resv := [4], lp := { t.lp with spawns := List.replicate 64 0x3000 } }

/-- `spawning` with no line, room for two groups beside the children and a spill area of `n` bytes. -/
def roomy (lane : List Word) (jcp : Word) (n : Nat) : State :=
  onTm (spawning lane jcp) fun t => { t with lines := [], lp := { t.lp with cres := 1, spillsz := n } }

/-- An undeclared entry; a lane without a join counter; no lane at all; a line with room. -/
theorem wit_spawn : (spawning [7] 0x10000).Ready ∧ (st [7] []).tm.lp.spawns.getD 1 0 = 0 ∧ (spawning [] 0).tm.lp.spawns.getD 1 0 ≠ 0 ∧
    (spawning [7] 0x10000).Operands (.of 1 0) Use.none ∧ (spawning [7] 0x10000).Operands ⟨1, 0, 0⟩ Use.none ∧
    (((spawning [7] 0).active.filter fun l => l.guard g0).filter fun l => l.jcp == 0) ≠ [] ∧
    (spawning [7] 0).Operands (.of 1 0) Use.none ∧
    (∀ l ∈ (spawning [7] 0x10000).active.filter fun l => l.guard g0, l.jcp ≠ 0) ∧
    ((spawning [7] 0x10000).active.filter fun l => l.guard ⟨1, false⟩) = [] ∧
    ((spawning [7] 0x10000).active.filter fun l => l.guard g0) ≠ [] ∧
    (spawning [7] 0x10000).tm.lineOf 1 = some ⟨1, [], false, 9, 0⟩ ∧
    0 + ((spawning [7] 0x10000).active.filter fun l => l.guard g0).length ≤ 32 ∧
    (spawning [] 0).tm.children ≤ (spawning [] 0).tm.lp.cres ∧ ((spawning [] 0).tm.lines.map PocketLine.born).Nodup := by
  simp only [State.Ready, State.Fresh, State.LanesOk, State.Operands]; decide +kernel

/-- No line, with and without memory for one; a `cwait` whose counters are 0 and one whose are not. -/
theorem wit_spawnLine : (let s := roomy [7] 0x10000 2048
     s.Ready ∧ s.Operands (.of 1 0) Use.none ∧ s.tm.lineOf 1 = none ∧ 2048 ≤ s.spillFree ∧ (s.pocketOf s.tm.core).length < 16 ∧
       s.tm.children < s.tm.lp.cres ∧ (∀ x ∈ s.tm.lines, x.born ≤ s.seqNo)) ∧
    (let s := roomy [7] 0x10000 2047
     s.Ready ∧ s.Operands ⟨1, 0, 0⟩ Use.none ∧ s.tm.lineOf 1 = none ∧ s.spillFree < 2048) ∧
    (spawning [] 0x10000).joinsDone (spawning [] 0x10000).tm (spawning [] 0x10000).gp (spawning [] 0x10000).fr = true ∧
    (let s := (spawning [] 0x10000).putNat 0 0x20000 4 2
     s.joinsDone s.tm s.gp s.fr = false) ∧ (spawning [] 0).tm.live = true := by
  simp only [State.Ready, State.Fresh, State.LanesOk, State.Operands]; decide +kernel

theorem wit_joins :
    (spawning [7] 0x10000).checkJoins .atomic ((spawning [7] 0x10000).active.filter fun l => l.guard g0) = .ok ∧
    (spawning [] 0x10000).checkJoins .load ((spawning [] 0x10000).active.filter fun l => l.jcp != 0) = .ok ∧
    (roomy [7] 0x10000 2048).checkJoins .atomic ((roomy [7] 0x10000 2048).active.filter fun l => l.guard g0) = .ok ∧
    (roomy [7] 0x10000 2047).checkJoins .atomic ((roomy [7] 0x10000 2047).active.filter fun l => l.guard g0) = .ok :=
  ⟨rfl, rfl, rfl, rfl⟩

/-- A free reserve slot with a swapped-out group that is ready, with a queued one, and with a formed line; and a formed line without a
free slot. -/
theorem wit_children : (let s := onTm (spawning [] 0) fun t => { t with lines := [⟨1, [⟨[5], 0x10000, 3⟩], true, 9, 0⟩] }
     s.tm.live = true ∧ s.tm.freeReserve = 0 :: [] ∧ s.tm.swapped.find? (fun g => s.swapReady s.tm g.2) = none ∧ s.tm.queued = [] ∧
       s.tm.lines.find? (fun l => l.formed) = some ⟨1, [⟨[5], 0x10000, 3⟩], true, 9, 0⟩) ∧
    (let s := onTm (spawning [] 0) fun t => { t with swapped := [(1, { t.gp with fr := { t.gp.fr with wait := .cwait } })] }
     s.tm.freeReserve = 0 :: [] ∧ (s.tm.swapped.find? fun g => s.swapReady s.tm g.2).isSome = true) ∧
    (let s := onTm (spawning [] 0) fun t => { t with queued := [(1, [⟨[5], 0x10000, 3⟩])] }
     s.tm.freeReserve = 0 :: [] ∧ s.tm.swapped.find? (fun g => s.swapReady s.tm g.2) = none ∧
       s.tm.queued = (1, [⟨[5], 0x10000, 3⟩]) :: []) ∧
    (let s := onTm (spawning [] 0) fun t => { t with resv := [], lines := [⟨1, [⟨[5], 0x10000, 3⟩], true, 9, 0⟩] }
     s.tm.freeReserve = [] ∧ s.tm.lines.find? (fun l => l.formed) = some ⟨1, [⟨[5], 0x10000, 3⟩], true, 9, 0⟩) := by decide +kernel

/-- A team whose one reserve slot holds a child group parked in `cwait`, with a group queued and a spill area with `n` bytes free. -/
def swapping (n : Nat) : State :=
  let s := onTm (spawning [] 0) fun t => { t with lines := [], queued := [(1, [])], lp := { t.lp with spillsz := n + 2048 } }
  onTm s fun t => { t with gs := [{ t.gp with uid := 7, gix := 32, gslot := 4, child := true, fr := { t.gp.fr with wait := .cwait } }] }

theorem spill (n : Nat) : (swapping n).spillFree = n := by
  have h : (swapping n).spillUsed (swapping n).tm.ctx = 2048 := by
    simp [State.spillUsed, State.allTeams, swapping, onTm, spawning, paged, st, State.setTm, State.setLanes, State.setFr, State.reset,
      State.withFetchWord, tableStream, probeTeam, probeCtx, LaunchCtx.empty, TaskCtx.empty, Team.empty]
  have g : (swapping n).tm.lp.spillsz = n + 2048 := by simp only [swapping, onTm, State.setTm]
  rw [State.spillFree, h, g, Nat.add_sub_cancel]

/-- The spill area has room for the record, whatever its size. -/
theorem wit_swap : ∃ n, (swapping n).tm.live = true ∧ (swapping n).tm.freeReserve = [] ∧ ((swapping n).tm.groups.filter Group.child) ≠ [] ∧
    ((swapping n).tm.groups.filter Group.child).all Group.inCwait = true ∧ ((swapping n).tm.groups.map Group.gslot).Nodup ∧
    (swapping n).tm.queued ≠ [] ∧ 4096 * Config.swapGranules (swapping n).ticks ≤ (swapping n).spillFree := by
  have h : ∀ n, (swapping n).ticks = 0 := fun _ => rfl
  refine ⟨4096 * Config.swapGranules 0, by decide +kernel, by decide +kernel, by decide +kernel, by decide +kernel, by decide +kernel,
    by decide +kernel, ?_⟩
  rw [spill, h]

/-! ### Premises that are met: accumulators, handlers, services, exit -/

/-- `s` with accumulator slot 3 in this token state. -/
def holding (s : State) (k : Token) : State := onTm s fun t => { t with acc := t.acc.set 3 { AccSlot.empty with tok := k } }

/-- Slot 3 of 16 in each token state, the sequencer halted, running and waiting for the slot; the last element of a tile. -/
theorem wit_accumulators : (holding (st [5, 4095] []) .given).Ready ∧ 3 < (holding (st [] []) .given).tm.acc.length ∧
    ((holding (st [] []) .given).tm.acc.getD 3 AccSlot.empty).tok = .given ∧
    ((holding (st [] []) (.lane 0)).tm.acc.getD 3 AccSlot.empty).tok = .lane (holding (st [] []) (.lane 0)).gp.uid ∧
    ((st [] []).tm.acc.getD 3 AccSlot.empty).tok = .mat ∧ (st [] []).tm.seq.st ≠ .wtok 3 ∧
    (let s := onTm (holding (st [] []) (.lane 0)) fun t => { t with seq := { t.seq with st := .wtok 3 } }
     s.Ready ∧ s.tm.seq.st = .wtok 3 ∧ s.tm.seq.loops = [] ∧ s.tm.seq.st ≠ .halted) ∧
    (holding (st [4095] []) (.lane 0)).underTest ((holding (st [4095] []) (.lane 0)).accKey 3) = false ∧ (holding (st [4095] []) (.lane 0)).OperandsOf false (.of 1 1) ∧
    (∀ l ∈ (holding (st [4095] []) (.lane 0)).active, (arg l.regs.stk 0).toNat < 4096) ∧
    (holding (st [5, 4095] []) (.lane 0)).OperandsOf false (.of 2 0) ∧
    (∀ l ∈ (holding (st [5, 4095] []) (.lane 0)).active, (arg l.regs.stk 1).toNat < 4096) ∧ (st [] []).tm.seq.st = .halted ∧
    (st [] []).before (fun w => w == .mstart) = false := by
  simp only [State.Ready, State.Fresh, State.LanesOk, State.OperandsOf, State.Operands]; decide +kernel

/-- `s` with a handler at 0x2000. -/
def handled (s : State) : State := onTm s fun t => { t with lp := { t.lp with trap := 0x2000 } }

/-- Stacks one short of `swap`'s two entries, and of two that the region did not push; a full lane stack and a full scalar one. -/
theorem wit_faults : (handled (looping 2 0x1010 [])).Awake ∧ (handled (st [] [])).fr.trap = none ∧ (handled (st [] [])).tm.lp.trap ≠ 0 ∧
    (handled (st [] [])).ctx.attached = false ∧ (onCtx (handled (st [] [])) fun k => { k with attached := true }).ctx.attached = true ∧
    (st [1] []).Awake ∧ (st [1] []).exempt = false ∧ (st [1] []).depthOf false < 2 ∧
    (let s := onFr (st [2, 1] []) fun f => { f with region := { f.region with ldepth := 1 } }
     s.Awake ∧ s.exempt = false ∧ 2 ≤ s.depthOf false ∧ s.depthOf false - 2 < s.entryDepth false) ∧
    (deep 32).capOf true ≤ (deep 32).depthOf true ∧ 1 ≤ (deep 32).depthOf true ∧ (deep 32).exempt = false ∧
    (st (List.replicate 72 5) []).capOf false ≤ (st (List.replicate 72 5) []).depthOf false := by
  simp only [State.Awake, State.LanesOk]; decide +kernel

/-- In a handler at the recorded depths, and one entry above them; outside one; a launch without a handler. -/
theorem wit_returns : (trapped (st [] [])).Awake ∧ encode (.tret false) = some (32, 0x0000039D) ∧ encode (.tret true) = some (32, 0x0004039D) ∧
    (st [] []).fr.trap = none ∧ (trapped (st [] [])).fr.trap = some rec0 ∧ (trapped (st [] [])).laneDepth = rec0.ldepth ∧
    (trapped (st [] [])).fr.sstk.length = rec0.sdepth ∧ rec0.replay = none ∧ rec0.lc = 0 ∧ (trapped (st [1] [])).laneDepth ≠ rec0.ldepth ∧
    (trapped (st [1] [])).fr.trap ≠ none ∧ (st [] []).tm.lp.trap = 0 ∧ Code.algt ≠ .brk ∧ Code.algt ≠ .watch ∧
    (st [] []).tm.ctx < (st [] []).ctxs.length := by
  simp only [State.Awake, State.LanesOk]; decide +kernel

/-- A handler's fragment whose record is `r`, in front of this link stack. -/
def inside (r : TrapRec) (link : List LinkEntry) : State := onFr (st [] []) fun f => { f with trap := some r, link := link }

/-- The end of a body at which the loop goes on, one that ends it, with and without a loop outside it; and a load that PAGE stopped. -/
theorem wit_resumes : (let r := { rec0 with lc := 2, lb := 0xFF0, le := 0x1004 }
     (inside r []).Awake ∧ 1 < r.lc.toNat ∧ r.next = r.le ∧ (inside r []).laneDepth = r.ldepth) ∧
    (let r := { rec0 with lc := 1, lb := 0xFF0, le := 0x1004 }
     r.lc = 1 ∧ r.next = r.le ∧ (inside r []).fr.link = [] ∧
       (inside r [.loopTriple 2 0xFE0 0x1010]).fr.link = .loopTriple 2 0xFE0 0x1010 :: [] ∧ (0x1010 : Word) ≠ r.next) ∧
    (let p : Replay := { ins := .ld false .g .w32 .near 0, todo := 1, vals := [], entry := true, op := none, again := false }
     let r := { rec0 with replay := some p, ldepth := 1 }
     let s := onFr (st [0x30000] []) fun f => { f with trap := some r, fcode := 0x10 }
     s.Awake ∧ s.fr.fcode = 0x10 ∧ s.laneDepth = r.ldepth ∧ s.fr.sstk.length = r.sdepth ∧ r.lc = 0 ∧
       memOpOf p.ins = some (ldOp false .g .w32 .near 0)) := by
  simp only [State.Awake, State.LanesOk]; decide +kernel

/-- `st` parked in a service call. -/
def serving (n : Nat) (a : Word) : State := onFr (paged (st [] []) [page0 false]) fun f => { f with wait := .svc n a }

theorem wit_services : (st [] [7]).Ready ∧ (st [] []).tm.ctx < (st [] []).ctxs.length ∧ (st [] []).ctx.prog.length = 16 ∧
    (st [] [7]).OperandsOf true (.of 1 1) ∧ 4 ≤ (4 : BitVec 14).toNat ∧ (3 : BitVec 14).toNat < 4 ∧
    (let s := onFr (st [] [7]) fun f => { f with wait := .reply 9 }
     s.fr.wait = .reply 9 ∧ s.fr.replay = none ∧ s.fr.rc = 0 ∧ s.fr.lc = 0 ∧ s.LanesOk ∧ s.OperandsOf true (.of 1 1)) ∧
    (serving 0 5).Placed ∧ (serving 0 5).fr.wait = .svc 0 5 ∧ (serving 2 15).fr.wait = .svc 2 15 ∧
    (serving 3 0x10000).pageOf (serving 3 0x10000).ctx.fn (0x10000 : Word).toNat = some (page0 false) ∧
    (serving 3 0x30000).pageOf (serving 3 0x30000).ctx.fn (0x30000 : Word).toNat = none ∧
    (let s := onCtx (serving 1 5) fun k => { k with svcArea := 0x10000, svcNext := 63 }
     s.Placed ∧ s.fr.wait = .svc 1 5 ∧ s.tm.ctx < s.ctxs.length ∧ s.ctx.queue < s.queues.length ∧
       s.physOf s.ctx.fn (s.ctx.svcArea.toNat + 64 * (s.ctx.svcNext % 64)) = some (0x20000 + 64 * 63)) := by
  simp only [State.Ready, State.Fresh, State.LanesOk, State.OperandsOf, State.Operands, State.Placed]; decide +kernel

/-- A group that exits while another of its fragments waits for a barrier, and a child lane. -/
theorem wit_exit : (pair [] [] (.barrier 1 0 false)).Awake ∧ (pair [] [] (.barrier 1 0 false)).stepping = none ∧
    (∀ x ∈ (pair [] [] (.barrier 1 0 false)).gp.seams, x.st ≠ .part) ∧ (∀ l ∈ (pair [] [] (.barrier 1 0 false)).active, l.jex = none) ∧
    (let s := paged (st [] []) [page0 false]
     let s := s.setLanes (s.gp.lanes.modify 0 fun l => { l with jex := some 0x10000 })
     s.Awake ∧ s.gp.frs = [] ∧ s.active.length = 1 ∧ (∀ l ∈ s.active, l.jex = some 0x10000) ∧
       s.physOf s.ctx.fn (0x10000 : Word).toNat = some 0x20000) ∧
    (let s := (st [] []).setLanes ((st [] []).gp.lanes.modify 0 fun l => { l with jex := some 0x10000 })
     (s.active.filterMap (·.jex)).length ≠ ((s.active.filterMap (·.jex)).filterMap fun a => s.physOf s.ctx.fn a.toNat).length) := by
  simp only [State.Awake, State.LanesOk]; decide +kernel

theorem wit_exitAlone : ∀ f ∈ (pair [] [] (.barrier 1 0 false)).gp.frs, ∀ m, f.wait ≠ .xlane m := by
  intro f hf m
  have h : ∀ f ∈ (pair [] [] (.barrier 1 0 false)).gp.frs, f.wait = .barrier 1 0 false := by decide +kernel
  rw [h f hf]; simp

/-! ### Premises that are met: the matrix stream -/

/-- `st` with its sequencer running at 0x1000 and changed by `f`. -/
def mx (f : Seq → Seq) : State := onTm (st [] []) fun t => { t with seq := f { t.seq with st := .run } }

/-- `mx` with YOKE. -/
def yoked (f : Seq → Seq) : State := onTm (mx f) fun t => { t with lp := { t.lp with yoke := true } }

/-- Three loops on the stack, and four; a label in the code and one outside; the last pass of a body inside another one. -/
theorem wit_matrixControl : (7 : BitVec 16) ≠ 0 ∧ (mx fun q => { q with loops := List.replicate 3 ⟨1, 0, 0⟩ }).tm.seq.loops.length < 4 ∧
    (mx id).inCode ((mx id).tm.seq.mpc + ((2 : BitVec 32).signExtend 64 <<< 3)) = true ∧ (0 : Nat) < (mx id).tm.acc.length ∧
    (1 : Nat) < (mx id).tm.acc.length ∧ (yoked id).tm.lp.yoke = true ∧ (0 : Fin 16) ≠ 1 ∧
    (let s := mx fun q => { q with loops := [⟨2, 0xFF8, 0x1008⟩] }
     s.tm.seq.loops = ⟨2, 0xFF8, 0x1008⟩ :: [] ∧ s.tm.seq.mpc + 8 = 0x1008) ∧
    (let s := mx fun q => { q with loops := [⟨1, 0xFF8, 0x1008⟩, ⟨2, 0xFF0, 0x1008⟩] }
     s.tm.seq.loops = ⟨1, 0xFF8, 0x1008⟩ :: [⟨2, 0xFF0, 0x1008⟩]) ∧ (0x1010 : Word) ≠ (mx id).tm.seq.mpc + 8 := by decide +kernel

/-- `mx` with barrier 1 so. -/
def mxBar (f : Barrier → Barrier) : State := onTm (mx id) fun t => { t with bars := t.bars.modify 1 f }

theorem wit_meetings : (mxBar fun b => { b with plusM := false }).tm.barAt 1 ≠ (mx id).tm.barAt 1 ∧ ((mx id).tm.barAt 1).plusM = true ∧
    ((mx id).tm.barAt 1).seqArr = false ∧ (List.range ((mx id).tm.barAt 1).groups).all ((mx id).tm.hasArrived ((mx id).tm.barAt 1)) = false ∧
    (let s := mxBar fun b => { b with arr := [(0, 1)] }
     (List.range (s.tm.barAt 1).groups).all (s.tm.hasArrived (s.tm.barAt 1)) = true ∧ 1 < s.tm.bars.length ∧ s.stepping = none ∧ s.tm.seq.st = .run) ∧
    ((mxBar fun b => { b with seqArr := true, seqLast := some 0 }).tm.barAt 1).seqArr = true ∧ ((mx id).tm.barAt 1).seqLast = none ∧
    ((mxBar fun b => { b with seqArr := true, seqLast := some 0 }).tm.barAt 1).seqLast = some 0 ∧
    0 < ((mxBar fun b => { b with phase := 1, seqLast := some 0 }).tm.barAt 1).phase ∧ (mx id).HasSlot 15 ∧ (mx id).tm.firstAcq 15 = none ∧
    (let s := onFr (mx id) fun f => { f with wait := .acq 15 }
     s.HasSlot 15 ∧ s.tm.firstAcq 15 = some s.gp) ∧
    (15 < (holding (mx id) .back).tm.acc.length) ∧ ((mx id).accSlot 3).tok = .mat ∧ ((holding (mx id) .back).accSlot 3).tok = .back ∧
    ((holding (mx id) .given).accSlot 3).tok ≠ .mat ∧ ((holding (mx id) .given).accSlot 3).tok ≠ .back := by
  simp only [State.HasSlot]; decide +kernel

/-- A view of the scratchpad of this element type, with rows of 64 bytes. -/
def tv (base ty : Nat) : TileView := { TileView.empty with base := base, rs := 4, ty := ty, sp := 2 }

/-- `s` with views T0 and T1 of this type. -/
def tiled (s : State) (ty : Nat) : State :=
  onTm s fun t => { t with seq := { t.seq with tv := (t.seq.tv.set 0 (tv 0 ty)).set 1 (tv 4096 ty) } }

/-- The product of the tests: 16 by 16 by 16, from T0 and T1 into slot 2. -/
def mma16 : MmaArgs := { mmaTest with c := 2, kq := 4, nc := 0, mc := 0 }

/-- The operands of that product in bf16. -/
def mmaIn : State := tiled (mx id) 9

/-- Slots, shapes, regions and array of the product, of one with A in a slot, and of one whose B is the head of ring 3. -/
theorem wit_products : mmaIn.HasSlot mma16.c.val ∧ (mma16.aa = true → mmaIn.HasSlot mma16.a.val) ∧ sizeOf? mma16.mc = some 16 ∧
    sizeOf? mma16.nc = some 16 ∧ mma16.kq ≠ 0 ∧ 16 * mmaIn.algDim mma16.alg.val ≤ 64 ∧
    viewsBad 1 [(mmaShapeOf mma16).aTile (tv 0 9) 16 1] = false ∧ viewsBad 1 [(mmaShapeOf mma16).bTile (tv 4096 9) 16 1] = false ∧
    mmaIn.TilesIn [(mmaShapeOf mma16).aTile (tv 0 9) 16 1, (mmaShapeOf mma16).bTile (tv 4096 9) 16 1] [2, 2] [2] ∧ mmaIn.ArrayFree 6 ∧
    4 * (mmaShapeOf mma16).kq % 16 = 0 ∧ 16 * 16 * (4 * (mmaShapeOf mma16).kq) * 1 * 1 ≤ 4096 * 16384 ∧
    (let x := { mma16 with aa := true, a := 1, dcf := .bf16 }
     mmaIn.HasSlot x.a.val ∧ 4 * (mmaShapeOf x).kq ≤ 64 ∧ ((mmaShapeOf x).aTile TileView.empty 16 1).cols ≤ 64 ∧
       straddles 1 (grainNibs (dcfTy x.dcf)) = false) ∧
    (let x := { mma16 with bq := true, b := 3, x5 := 1, rd := true }
     let s := onTm mmaIn fun t => { t with rings := t.rings.set 3 { ring1 with base := 2048, slotBytes := 1024, st := [.free, .full], queue := [1] } }
     let r := s.tm.ringAt 3
     s.tm.seq.held.find? (fun h => h.1 == x.b.val) = none ∧ r.slots ≠ 0 ∧ r.drain = none ∧ r.queue.head? = some 1 ∧
       s.TilesIn [(mmaShapeOf x).aTile (tv 0 9) 16 1, (mmaShapeOf x).bTile (tv (2048 + 1 * 1024) 9) 16 1] [2, 2] [2]) := by
  simp only [State.HasSlot, State.TilesIn, State.ArrayFree]; decide +kernel

/-- The grain of a bf16 view without a lining. -/
def bf16 : Grain := { ty := some .bh2, scale := none, ent := 0 }

theorem grain_plain (s : State) (v : TileView) (r c : Nat) (h : v.lin = false) (k : rawOk v.type = true) :
    s.grainOr v r c = ⟨some v.type, none, 0⟩ := by
  simp [State.grainOr, State.grainAt, h, k]

theorem pairs16 : pairsOf 16 16 16 (mmaIn.viewA (mmaShapeOf mma16) (tv 0 9) 1) (mmaIn.viewB (mmaShapeOf mma16) (tv 4096 9) 1) =
    List.replicate 16 (bf16, bf16) := by
  have ha : ∀ i j, (mmaIn.viewA (mmaShapeOf mma16) (tv 0 9) 1).grain i j = bf16 := fun i j =>
    grain_plain mmaIn (tv 0 9) ((mmaShapeOf mma16).aAt 1 i j 0).1 ((mmaShapeOf mma16).aAt 1 i j 0).2 rfl rfl
  have hb : ∀ i j, (mmaIn.viewB (mmaShapeOf mma16) (tv 4096 9) 1).grain i j = bf16 := fun i j =>
    grain_plain mmaIn (tv 4096 9) ((mmaShapeOf mma16).bAt 1 i j 0).1 ((mmaShapeOf mma16).bAt 1 i j 0).2 rfl rfl
  unfold pairsOf
  simp only [ha, hb]
  rfl

theorem wit_class : ∃ c, opClass (pairsOf 16 16 16 (mmaIn.viewA (mmaShapeOf mma16) (tv 0 9) 1) (mmaIn.viewB (mmaShapeOf mma16) (tv 4096 9) 1))
    (mmaIn.tileView 0).type (tv 4096 9).type = .ok c ∧ (c.chunk, c.rate, c.units) = (16, 16384, 6) := by
  have h : (mmaIn.tileView 0).type = .bh2 ∧ (tv 4096 9).type = .bh2 := by decide +kernel
  rw [pairs16, h.1, h.2]; exact ⟨_, rfl, rfl⟩

/-- A yoked product of 16 by 16 by 16 on T0 and T1 for both halves, into slots 0 and 1. -/
def mmay16 : MmayArgs := { a := 0, x5 := 0, b := 1, kq := 4, nc := 0, mc := 0, tb := false, ta := false, zero := true, rev := false, alg := 0 }

/-- The operands of it, with both halves present, or none. -/
def mmayIn (cp : BitVec 2) : State := tiled (yoked fun q => { q with yoke := some (0, 1), cp := cp }) 9

theorem wit_yoked : (mmayIn 3).tm.lp.yoke = true ∧ (mmayIn 3).tm.seq.yoke = some (0, 1) ∧ (0 : Nat) ≠ 1 ∧ (mmayIn 3).HasSlot 0 ∧
    (mmayIn 3).HasSlot 1 ∧ sizeOf? mmay16.mc = some 16 ∧ mmay16.kq ≠ 0 ∧ 16 * (mmayIn 3).algDim mmay16.alg.val ≤ 64 ∧ (mmayIn 0).ArrayFree 0 ∧
    (mmayIn 3).tm.seq.cp.getLsbD 1 = true ∧ (mmayIn 3).tm.seq.cp.getLsbD 0 = true ∧
    (let ts := [(mmayShapeOf mmay16).aTile (tv 0 9) 16 1, (mmayShapeOf mmay16).aTile (tv 0 9) 16 1, (mmayShapeOf mmay16).bTile (tv 4096 9) 16 1]
     viewsBad 1 ts = false ∧ (mmayIn 3).TilesIn ts [0, 1] []) ∧ (mmayIn 3).ArrayFree 6 ∧ 16 * 16 * 16 * 1 * 1 * 2 ≤ 4096 * 16384 := by
  simp only [State.HasSlot, State.TilesIn, State.ArrayFree]; decide +kernel

/-- A view of e4m3 with a lining. -/
def ltv (base lbase : Nat) : TileView := { tv base 10 with lin := true, lbase := lbase, lshift := 3, lsp := 2 }

/-- `s` with T0 and T1 of e4m3, each with a lining of its own. -/
def lined (s : State) : State := onTm s fun t => { t with seq := { t.seq with tv := (t.seq.tv.set 0 (ltv 0 0x8000)).set 1 (ltv 4096 0x9000) } }

/-- Each operation on 16 by 16 tiles of f32, of e4m3 with a lining, and on both halves of the yoke. -/
theorem wit_tiles : (tiled (mx id) 3).HasSlot 0 ∧ (tiled (mx id) 3).ArrayFree 0 ∧ sizeOf? 0 = some 16 ∧
    (moveTileOf (tv 0 3) 16 16 false false).tooWide = false ∧ (tiled (mx id) 3).TilesIn [moveTileOf (tv 0 3) 16 16 false false] [0] [] ∧
    (moveTileOf (tv 0 3) 16 16 true true).tooWide = false ∧ (tiled (mx id) 3).TilesIn [moveTileOf (tv 0 3) 16 16 true true] [0] [0] ∧ (tiled (mx id) 3).slotsWait [0] = false ∧
    ((tiled (mx id) 3).tileView 0).type = dcfTy .f32 ∧ ((tiled (mx id) 3).tileView 0).lin = false ∧
    (mmayIn 3).HasSlot 5 ∧ (mmayIn 3).slotsWait [5, 0, 1] = false ∧ (mmayIn 3).slotsBad [0, 1] = none ∧ (mmayIn 3).tm.seq.lp = 3 ∧ (mmayIn 3).ArrayFree 0 := by
  simp only [State.HasSlot, State.TilesIn, State.ArrayFree]; decide +kernel

/-- The regions of the two copies. -/
def dual (v : TileView) : Tile := { v := v, rows := 16, cols := 16, wr := true }

theorem wit_dual : (dual (ltv 0 0x8000)).tooWide = false ∧ (dual (ltv 4096 0x9000)).tooWide = false ∧ (dual (ltv 0 0x8000)).blockBad = false ∧
    (dual (ltv 4096 0x9000)).blockBad = false ∧ (lined (mx id)).tileView 0 = ltv 0 0x8000 ∧ (lined (mx id)).tileView 1 = ltv 4096 0x9000 ∧
    (ltv 0 0x8000).lin = true ∧ (ltv 0 0x8000).shiftOk = true ∧ (ltv 0 0x8000).type = dcfTy .e4m3 ∧ (ltv 4096 0x9000).lin = true ∧
    (ltv 4096 0x9000).shiftOk = true ∧ (ltv 4096 0x9000).type = dcfTy .e4m3 := by decide +kernel

theorem wit_dualTiles : (lined (mx id)).TilesIn [dual (ltv 0 0x8000), dual (ltv 4096 0x9000)] [0] [0] := by
  simp only [State.TilesIn]; decide +kernel

/-- `mx` with the complex table's bytes at T0's base. -/
def tabled : State := (tiled (mx id) 13).putBytes 2 0 complexTable

theorem wit_bases : tabled.BaseIn (tabled.tileView 0) 72 complexTable ∧ tableFault complexTable (2 ^ (1 : Fin 4).val) = none ∧
    tabled.BaseIn (tabled.tileView 0) 4 [0x40, 0x41, 0, 0] := by
  simp only [State.BaseIn]; decide +kernel

/-- `mx` waiting with `mzero` for the array, alone on its core; with the array; an absent line; and an operation in flight. -/
theorem wit_arrays : State.arrayBusy { mx id with teams := [{ (mx id).tm with ctx := 1, seq := { (mx id).tm.seq with array := true } }] } = true ∧
    (let s := { tiled (mx id) 3 with absent := [0] }
     s.HasSlot 0 ∧ (moveTileOf (s.tileView 0) 16 16 false false).tooWide = false ∧ s.tileFault [moveTileOf (s.tileView 0) 16 16 false false] = none ∧
       s.linesWait (linesOf (s.readPlaces [moveTileOf (s.tileView 0) 16 16 false false])) [] = true) ∧
    (let s := mx fun q => { q with st := .wres (.mzero 0) }
     s.tm.live = true ∧ s.teamRuns s.tm = true ∧ s.seqHeld s.tm = false ∧ (s.teams.all fun u => u.core != s.tm.core) = true ∧
       s.tm.seq.st = .wres (.mzero 0) ∧ s.HasSlot 0 ∧ s.slotsWait [0] = false ∧ s.tm.seq.array = false ∧ s.tm.seq.flight = none ∧ s.tm.seq.units = 0) ∧
    (let s := tiled (mx fun q => { q with st := .wres (.mma mma16) }) 9
     s.readyUnits s.tm = some 6 ∧ (6 : Nat) ≠ 0 ∧ s.teamRuns s.tm = true ∧ s.seqHeld s.tm = false) ∧
    (let f : Flight := { tiles := [⟨0, [5], false, false⟩], writes := [⟨2, 0, 1⟩], reads := [], gen := 0, lp := none, free := none, table := none, gs := none }
     let s := mx fun q => { q with flight := some f, array := true, units := 6 }
     s.tm.live = true ∧ s.tm.seq.flight = some f ∧ f.free = none ∧ f.table = none ∧ s.tm.over = false) := by
  simp only [State.HasSlot]; decide +kernel

/-- What an operation holds when it starts, with these units. -/
def ready6 : State := tiled (mx fun q => { q with st := .wres (.mma mma16), array := true, units := 6 }) 9

theorem prep_state (s : State) : (mmaPrep mma16 s).1 = s := by
  unfold mmaPrep
  dsimp only
  split
  · rfl
  · split
    · rfl
    · rfl

theorem pair_eta {α β : Type} (p : α × β) (a : α) (h : p.1 = a) : p = (a, p.2) := by subst h; rfl

theorem prep_ready : ready6.prepWres = some (.mma mma16, true, ready6, (mmaPrep mma16 ready6).2) := by
  have h : ready6.seq.st = .wres (.mma mma16) := rfl
  unfold State.prepWres
  rw [h]
  have g := pair_eta (mmaPrep mma16 ready6) ready6 (prep_state _)
  simp only [prepOf, Option.map_some]
  rw [← g]

theorem wit_starts : ∃ f rd hits, (∃ i, ready6.prepWres = some (i, true, ready6, .go 6 f rd hits)) ∧ ready6.tm.seq.array = true ∧ ready6.tm.seq.units = 6 := by
  have h : (match (mmaPrep mma16 ready6).2 with | .go 6 _ _ _ => true | _ => false) = true := by decide +kernel
  rw [prep_ready]
  split at h
  · rename_i f rd hits e; exact ⟨f, rd, hits, ⟨_, by rw [e]⟩, rfl, rfl⟩
  · cases h

/-- Each refusal: a slot outside the share and one not MAT; no YOKE, one slot twice, no binding; shapes; a bad table; a base outside
the space; four loops; a label outside the code. -/
theorem wit_sequencerFaults : (onTm (mx id) fun t => { t with acc := t.acc.take 4 }).tm.acc.length ≤ (4 : Fin 16).val ∧
    (3 : Nat) < (holding (mx id) .back).tm.acc.length ∧ ((holding (mx id) .back).accSlot 3).tok ≠ .mat ∧ (mx id).tm.lp.yoke = false ∧
    (yoked id).tm.lp.yoke = true ∧ (yoked id).tm.seq.yoke = none ∧ (mx id).HasSlot { mma16 with kq := 0 }.c.val ∧
    { mma16 with kq := 0 }.kq = 0 ∧ { mma16 with mc := 3 }.mc = 3 ∧ { mma16 with nc := 3 }.nc = 3 ∧
    (let bs := complexTable.set 0 0x80
     let s := (tiled (mx id) 13).putBytes 2 0 bs
     s.BaseIn (s.tileView 0) 72 bs ∧ tableFault bs (2 ^ (1 : Fin 4).val) = some 0) ∧
    (let s := onTm (mx id) fun t => { t with seq := { t.seq with tv := t.seq.tv.set 0 (tv 0xBFFFD 3) } }
     s.tm.tileSpace (s.tileView 0).sp (s.tileView 0).base 4 = false) ∧ (7 : BitVec 16) ≠ 0 ∧
    4 ≤ (mx fun q => { q with loops := List.replicate 4 ⟨1, 0, 0⟩ }).tm.seq.loops.length ∧
    (mx id).inCode ((mx id).tm.seq.mpc + ((0x7FFFFFFF : BitVec 32).signExtend 64 <<< 3)) = false := by
  simp only [State.HasSlot, State.BaseIn]; decide +kernel

/-! ### Premises that are met: Tison, commands, launches -/

/-- The bytes of a command with these fields (offset, bytes, value). -/
def cmdOf (fs : List (Nat × Nat × Nat)) : List Byte :=
  fs.foldl (fun c f => c.take f.1 ++ toBytes f.2.1 f.2.2 ++ c.drop (f.1 + f.2.1)) (List.replicate 64 0)

/-- Queue 1 with a command that has been fetched. -/
def queueWith (c : List Byte) (f : HostQueue → HostQueue) : HostQueue :=
  f { HostQueue.reset 1 with cbase := 0x4000, rbase := 0x8000, en := true, log2 := 4, tail := 1, head := 1, order := [5], fetched := [c] }

/-- `s` with a command of these fields at the head of queue 1. -/
def commanded (s : State) (fs : List (Nat × Nat × Nat)) : State := { s with queues := s.queues.set 1 (queueWith (cmdOf fs) id) }

/-- The probe with a page mapped at 0x10000. -/
def host0 : State := paged (st [] []) [page0 false]

/-- A Tison core with these registers. -/
def tison1 (rs : List (Nat × Word)) : State :=
  { host0 with cur := .tison 0, tison := host0.tison.set 0 { Tison.reset with regs := rs.foldl (fun r x => r.set x.1 x.2) Tison.reset.regs } }

/-- A disabled ring, an empty one and one with a command; a signal number at 1023 and 1024, heard and not; a wait that ends; a record
that a queue holds, sent to core 144, and no free context. -/
theorem wit_tison : (tison1 []).curTison < (tison1 []).tison.length ∧ ((tison1 []).queueAt 0).en = false ∧
    (let s := { tison1 [] with queues := (tison1 []).queues.set 1 (queueWith [] id) }
     (s.queueAt 1).en = true ∧ (s.queueAt 1).unfetched = 0) ∧
    (let s := { tison1 [] with queues := (tison1 []).queues.set 1 (queueWith [] fun h => { h with tail := 2 }) }
     (s.queueAt 1).en = true ∧ (s.queueAt 1).unfetched ≠ 0 ∧ s.stopReq = false ∧ s.stopped = false) ∧
    1024 ≤ (((tison1 [(3, 1024)]).tison.getD 0 Tison.reset).reg 3).toNat ∧ (((tison1 [(3, 1023)]).tison.getD 0 Tison.reset).reg 3).toNat < 1024 ∧
    (let s := { tison1 [(3, 1023)] with signals := BitVec.twoPow 1024 1023 }
     s.signals.getLsbD 1023 = true ∧ (s.waiters.any fun w => w.sig == 1023) = false) ∧
    (tison1 [(3, 1023)]).signals.getLsbD 1023 = false ∧ (0 : BitVec 12) = 0 ∧ (5 : BitVec 12) ≠ 0 ∧
    (let s := { tison1 [] with waiters := [.core 0 7 3 (some 10)], now := 10 }
     s.waiters.head? = some (.core 0 7 3 (some 10)) ∧ 10 ≤ s.now) := by decide +kernel

/-- A record for one team of one group. -/
def rec1 : LaunchRec := { probeRecord with entry := 0x10000, spad := 1024 }

/-- A launch of queue 1 with that record. -/
def ctx1 : LaunchCtx := { LaunchCtx.empty with phase := .waiting, queue := 1, recPa := 2 ^ 51 + 0x5000, lp := rec1 }

/-- `host0` with that launch waiting for its resources in context 1. -/
def pending : State := { host0 with ctxs := host0.ctxs.set 1 ctx1 }

/-- A core with the record's address, or another, and a mask that names core 144. -/
def sending (s : State) (pa : Nat) : State :=
  let s := { s with cur := .tison 0, tison := s.tison.set 0 { Tison.reset with
    regs := (Tison.reset.regs.set 4 (BitVec.ofNat 64 (2 ^ 63 + pa))).set 5 0x1000 } }
  s.putNat 5 0x1000 72 (2 ^ 144)

/-- Every context in use. -/
def crammed (s : State) : State := { s with ctxs := List.replicate 8 probeCtx }

/-- The record of a launch that waits; one of the firmware's own, with a free context and without; an address that no memory has; a
module that admits nothing; and a mask that the cores cannot serve. -/
theorem wit_tnDisp : (let s := sending pending (2 ^ 51 + 0x5000)
     let x := s.tison.getD 0 Tison.reset
     s.tisonRange 0 (x.reg 4) 128 = some (0, 2 ^ 51 + 0x5000) ∧ s.tisonRange 0 (x.reg 5) 72 = some (5, 0x1000) ∧
       s.launchAt 0 (2 ^ 51 + 0x5000) = ctx1 ∧ s.recordCtx 0 (2 ^ 51 + 0x5000) = some 1 ∧ 1 < s.ctxs.length ∧
       (s.natAt 5 0x1000 72).testBit 144 = true ∧ s.coreFits rec1 144 = true ∧ s.admits = true ∧ 1 ≤ rec1.team) ∧
    (let s := sending host0 (2 ^ 51 + 0x6000)
     s.recordCtx 0 (2 ^ 51 + 0x6000) = none ∧ s.freeCtx = some 1) ∧
    (crammed host0).freeCtx = none ∧ { pending with stopReq := true }.admits = false ∧
    (let s := sending host0 (2 ^ 50)
     s.tisonRange 0 ((s.tison.getD 0 Tison.reset).reg 4) 128 = none) ∧
    (pending.coreFits { rec1 with spad := 2 ^ 30 } 144 = false) := by decide +kernel

/-- An unknown operation, any command in RECOVERY, a launch record at an odd address, a launch that waits for a context, and one that
is admitted. -/
theorem wit_launch : (commanded host0 [(0, 1, 9)]).headCmd 1 (fun op => op == 0 || decide (8 ≤ op)) = some (cmdOf [(0, 1, 9)]) ∧
    (let c := cmdOf [(0, 1, 1), (16, 8, 0x10001)]
     let s := commanded host0 [(0, 1, 1), (16, 8, 0x10001)]
     s.headCmd 1 (fun x => x == 1) = some c ∧ s.CommandAt 1 1 c ∧ firstBad (s.launchChecks 1 c) = some (badField 16 0) ∧
       State.headerBad { s with recovery := true } c = some (badField 0 0)) ∧
    (let s := { host0 with queues := host0.queues.set 1 (queueWith [] fun h => { h with pendL := some ctx1 }) }
     (s.queueAt 1).pendL = some ctx1 ∧ s.stopReq = false ∧ s.stopped = false ∧ s.freeCtx = some 1 ∧ 1 < s.ctxs.length) ∧
    (pending.waitingCtx 1 = some 1 ∧ pending.admits = true ∧ (1 : Mask) ≠ 0 ∧
      [(⟨0, 11, 11⟩ : Rect)].length = rec1.nclus ∧
      ([(⟨0, 11, 11⟩ : Rect)].all fun p => rectFits rec1.cw rec1.ch p && rec1.dieList.contains p.die) = true ∧
      pending.placeable rec1 ([(⟨0, 11, 11⟩ : Rect)].flatMap (rectCores rec1.cw rec1.ch)) = true ∧ 1 ≤ rec1.team) := by
  simp only [State.CommandAt]; decide +kernel

/-- The command of `launching`. -/
def launchCmd : List (Nat × Nat × Nat) := [(0, 1, 1), (16, 8, 0x100000), (24, 8, 0x101000), (32, 8, 0x110000)]

/-- A command whose record, service area and tables pass every check: one team of one group, four reserve slots, no tables in use. -/
def launching : State :=
  let s := commanded { host0 with pages := [{ page0 false with va := 0x100000, log2 := 20, pa := 0x200000 }] } launchCmd
  [(0, 8, 0x100000), (8, 8, 0x100010), (24, 1, 1), (25, 1, 1), (26, 2, 1), (29, 1, 1), (30, 1, 1), (32, 2, 16), (34, 2, 16), (37, 1, 4),
    (40, 4, 1024), (44, 4, 1024), (80, 8, 0x100400)].foldl (fun s (f : Nat × Nat × Nat) => s.putNat 0 (0x200000 + f.1) f.2.1 f.2.2) s

/-- The checks pass, with a free context and with none. -/
theorem wit_launchChecks : launching.CommandAt 1 1 (cmdOf launchCmd) ∧ firstBad (launching.launchChecks 1 (cmdOf launchCmd)) = none ∧
    launching.freeCtx = some 1 ∧ 1 < launching.ctxs.length ∧
    (let s := { launching with ctxs := launching.ctxs.map fun (k : LaunchCtx) => if k.phase = LaunchPhase.free then { k with phase := LaunchPhase.running } else k }
     s.CommandAt 1 1 (cmdOf launchCmd) ∧ firstBad (s.launchChecks 1 (cmdOf launchCmd)) = none ∧ s.freeCtx = none) := by
  simp only [State.CommandAt]; decide +kernel

/-- A team that is over, a launch without teams, one that stops by a fault and one killed by over-current. -/
def emptied : State := onTm host0 fun t => { t with gp := Group.empty }

/-- `host0` with launch context 3 so. -/
def inCtx (f : LaunchCtx → LaunchCtx) : State := { host0 with ctxs := host0.ctxs.set 3 (f LaunchCtx.empty) }

theorem wit_launchEnds : emptied.tm.live = true ∧ emptied.tm.over = true ∧ emptied.tm.seq.st = .halted ∧ emptied.tm.seq.flight = none ∧
    emptied.opsOf emptied.teamRef = false ∧ emptied.ctx.copy = none ∧
    (let s := inCtx fun k => { k with phase := .running }
     (s.ctxs.getD 3 LaunchCtx.empty).phase = .running ∧ (s.allTeams.any fun t => t.ctx == 3) = false ∧
       (s.ops.any fun o => o.team.ctx == 3) = false ∧ (s.poolOps.any fun o => o.ctx == 3) = false ∧ s.stopped = false ∧ 3 < s.ctxs.length) ∧
    (let s := onCtx host0 fun k => { k with phase := .stopping, fatal := some ⟨1, 3, 0, 0, 0, 0⟩ }
     (s.ctxs.getD 0 LaunchCtx.empty).phase = .stopping ∧ (∀ f ∈ (s.ctxs.getD 0 LaunchCtx.empty).fatal, f.status ≠ 2) ∧
       (∀ u ∈ s.allTeams, u.ctx = 0 → s.canPreempt u = true)) ∧
    (let s := onCtx (onTm host0 fun t => { t with seq := { t.seq with st := .run } }) fun k => { k with
       phase := .stopping, fatal := some ⟨1, 3, 0, 0, 0, 0⟩ }
     (s.ctxs.getD 0 LaunchCtx.empty).phase = .stopping ∧ (∀ f ∈ (s.ctxs.getD 0 LaunchCtx.empty).fatal, f.status ≠ 2) ∧
       (∀ u ∈ s.allTeams, u.ctx = 0 → s.canPreempt u = false)) ∧
    (let s := onCtx host0 fun k => { k with phase := .stopping, fatal := some ⟨2, 0x50, 0, 0, 0, 0⟩ }
     (s.ctxs.getD 0 LaunchCtx.empty).phase = .stopping ∧ (s.ctxs.getD 0 LaunchCtx.empty).fatal = some ⟨2, 0x50, 0, 0, 0, 0⟩) := by decide +kernel

/-- No deadlock while a fragment runs; and one group that waits for a ring with no other producer. -/
theorem wit_deadlock : (host0.ctxs.getD 0 LaunchCtx.empty).phase = .running ∧ host0.stopped = false ∧ host0.deadSet 0 = [] ∧
    (let s := onFr (ringed [] id) fun f => { f with wait := .ring 3 false }
     s.Placed ∧ s.deadSet 0 = [.group s.teamRef s.gp.uid] ∧ (s.deadSet 0).flatMap s.deadFrags = [s.fragRef]) := by
  simp only [State.Placed]; decide +kernel

/-! ### Premises that are met: queues, host, fabric -/

/-- A completion with a signal. -/
def comp1 : Completion := { seq := 7, status := 0, code := 0, engine := 0, detail := 0, sig := some 1023 }

/-- Writers that own queue 1 and that do not; a full completion ring and one with room. -/
theorem wit_hostQueues : (host0.queueAt 1).ownedBy (.vf 0) = true ∧ (host0.queueAt 1).ownedBy (.pf 0) = false ∧
    (let s := { host0 with queues := host0.queues.set 1 (queueWith [] fun h => { h with comps := [comp1], rtail := 15, rhead := 0 }) }
     (s.queueAt 1).comps = comp1 :: [] ∧ (s.queueAt 1).en = true ∧
       ((s.queueAt 1).rtail.toNat % 2 ^ 4 + 1) % 2 ^ 4 = (s.queueAt 1).rhead.toNat % 2 ^ 4) ∧
    (let s := { host0 with queues := host0.queues.set 1 (queueWith [] fun h => { h with comps := [comp1], rtail := 15, rhead := 1 }) }
     ((s.queueAt 1).rtail.toNat % 2 ^ 4 + 1) % 2 ^ 4 ≠ (s.queueAt 1).rhead.toNat % 2 ^ 4 ∧
       s.hostDead (0, 2 ^ 51 + (s.queueAt 1).rbase.toNat % 2 ^ 51 + 16 * 15) = false ∧
       ∀ k ∈ comp1.sig, (s.waiters.any fun w => w.sig == k) = false) := by decide +kernel

/-- SIGNAL at 1024, at 1023, with a Tison core and with another queue waiting; WAIT on a bit that is set and on one that is not; and a
WAIT that times out. -/
theorem wit_signals :
    (let c := [(0, 1, 2), (16, 4, 1024)]
     (commanded host0 c).CommandAt 1 2 (cmdOf c) ∧ 1024 ≤ cmdNat (cmdOf c) 16 4) ∧
    (let c := [(0, 1, 2), (16, 4, 1023)]
     let s := commanded host0 c
     s.CommandAt 1 2 (cmdOf c) ∧ cmdNat (cmdOf c) 16 4 < 1024 ∧ (s.waiters.any fun w => w.sig == cmdNat (cmdOf c) 16 4) = false) ∧
    (let c := [(0, 1, 2), (16, 4, 1023)]
     let s := { commanded host0 c with waiters := [.core 2 1023 5 none] }
     s.CommandAt 1 2 (cmdOf c) ∧ s.waiters.head? = some (.core 2 (cmdNat (cmdOf c) 16 4) 5 none)) ∧
    (let c := [(0, 1, 2), (16, 4, 1023)]
     let s := commanded host0 c
     let s := { s with waiters := [.queue 2 1023 none], queues := s.queues.set 2 (queueWith [3] fun h => { h with blocked := true }) }
     s.CommandAt 1 2 (cmdOf c) ∧ (2 : Nat) ≠ 1 ∧ s.waiters.head? = some (.queue 2 (cmdNat (cmdOf c) 16 4) none) ∧
       (s.queueAt 2).fetched.head? = some [3]) ∧
    (let c := [(0, 1, 3), (16, 4, 9)]
     let s := { commanded host0 c with signals := BitVec.twoPow 1024 9 }
     s.CommandAt 1 3 (cmdOf c) ∧ s.signals.getLsbD (cmdNat (cmdOf c) 16 4) = true) ∧
    (let c := [(0, 1, 3), (16, 4, 9)]
     let s := commanded host0 c
     s.CommandAt 1 3 (cmdOf c) ∧ cmdNat (cmdOf c) 16 4 < 1024 ∧ s.signals.getLsbD (cmdNat (cmdOf c) 16 4) = false) ∧
    (let c := [(0, 1, 3), (16, 4, 9)]
     let s := { commanded host0 c with waiters := [.queue 1 9 (some 10)], now := 10 }
     s.waiters.head? = some (.queue 1 9 (some 10)) ∧ 10 ≤ s.now ∧ (s.queueAt 1).fetched.head? = some (cmdOf c)) := by
  simp only [State.CommandAt]; decide +kernel

/-- A flip job over `n` pages, to the host or to the device. -/
def flip (n : Nat) (host : Bool) : BiasJob := { first := 0x10000, va := 0x10000, n := n, host := host, q := 1, done := comp1 }

/-- `host0` with that job. -/
def biased (n : Nat) (host : Bool) : State := { host0 with biasJobs := [flip n host], flipping := [(0x20, host)] }

/-- A BIAS that is refused, one with the link up and one with it down; flips of one page and of two, both ways; one that waits for an
engine. -/
theorem wit_bias :
    (let c := [(0, 1, 4), (16, 8, 0x10000), (24, 4, 16), (28, 1, 1)]
     let s := commanded host0 c
     s.serialTurn 1 = true ∧ s.CommandAt 1 4 (cmdOf c) ∧ firstBad (s.biasChecks 1 (cmdOf c)) = none ∧
       (s.hlinks.getD 0 { up := true, mode := .cxl }).up = true ∧
       firstBad ({ s with hlinks := s.hlinks.modify 0 fun x => { x with up := false } }.biasChecks 1 (cmdOf c)) = none) ∧
    (let c := [(0, 1, 4), (16, 8, 0x10001), (24, 4, 16), (28, 1, 1)]
     let s := commanded host0 c
     s.serialTurn 1 = true ∧ s.CommandAt 1 4 (cmdOf c) ∧ (firstBad (s.biasChecks 1 (cmdOf c))).isSome = true) ∧
    (biased 1 true).biasJobs = flip 1 true :: [] ∧ (biased 1 true).flipReady ((biased 1 true).frameOf 1 0x10000) true = true ∧
    (biased 2 false).flipReady ((biased 2 false).frameOf 1 0x10000) false = true ∧ (flip 1 true).n ≤ 1 ∧ 1 < (flip 2 false).n ∧
    (let s := { biased 1 true with ops := [op1] }
     s.flipReady (s.frameOf 1 0x10000) true = false) := by
  simp only [State.CommandAt]; decide +kernel

/-- SHRINK of a launch that runs, whose teams can be pre-empted and cannot, that waits, and that is over. -/
theorem wit_shrink :
    (let c := [(0, 1, 5), (16, 1, 0), (17, 1, 15)]
     let s := commanded host0 c
     s.serialTurn 1 = true ∧ s.CommandAt 1 5 (cmdOf c) ∧ cmdNat (cmdOf c) 16 1 ≤ 7 ∧ cmdNat (cmdOf c) 17 1 ≤ 15 ∧
       s.liveDies (cmdNat (cmdOf c) 17 1) ≠ [] ∧ (s.ctxs.getD 0 LaunchCtx.empty).phase = .running ∧
       (∀ u ∈ s.allTeams, u.ctx = 0 → s.canPreempt u = true) ∧ [(⟨3, 0, 0⟩ : Rect)].length = probeRecord.nclus ∧
       ([(⟨3, 0, 0⟩ : Rect)].all fun p => rectFits 1 1 p && (s.liveDies (cmdNat (cmdOf c) 17 1)).contains p.die) = true ∧
       s.placeableMoved 0 probeRecord ([(⟨3, 0, 0⟩ : Rect)].flatMap (rectCores 1 1)) = true ∧
       (∀ u ∈ s.allTeams, u.ctx = 0 → u.vcore < 1)) ∧
    (let c := [(0, 1, 5), (16, 1, 0), (17, 1, 15)]
     let s := commanded (onTm host0 fun t => { t with seq := { t.seq with st := .run } }) c
     s.serialTurn 1 = true ∧ s.CommandAt 1 5 (cmdOf c) ∧ (s.allTeams.map Team.ref).Nodup ∧
       ∃ u ∈ s.allTeams, u.ctx = 0 ∧ s.canPreempt u = false) ∧
    (let c := [(0, 1, 5), (16, 1, 3), (17, 1, 1)]
     let s := commanded (inCtx fun k => { k with lastDone := 6 }) c
     s.serialTurn 1 = true ∧ s.CommandAt 1 5 (cmdOf c) ∧ s.liveDies (cmdNat (cmdOf c) 17 1) ≠ [] ∧
       (s.ctxs.getD 3 LaunchCtx.empty).phase = .free ∧ (s.queueAt 1).order.headD 0 < (s.ctxs.getD 3 LaunchCtx.empty).lastDone) ∧
    (let c := [(0, 1, 5), (16, 1, 3), (17, 1, 1)]
     let s := commanded (inCtx fun k => { k with phase := .waiting, queue := 2 }) c
     s.serialTurn 1 = true ∧ s.CommandAt 1 5 (cmdOf c) ∧ s.liveDies (cmdNat (cmdOf c) 17 1) ≠ [] ∧
       (s.ctxs.getD 3 LaunchCtx.empty).phase = .waiting) := by
  simp only [State.CommandAt]; decide +kernel

/-- Each POWER command at the ends of its ranges. -/
theorem wit_commands :
    (let c := [(0, 1, 6), (17, 1, 3), (18, 1, 255), (19, 1, 23)]
     let s := commanded host0 c
     s.serialTurn 1 = true ∧ s.CommandAt 1 6 (cmdOf c) ∧ cmdNat (cmdOf c) 16 1 = 0 ∧ cmdNat (cmdOf c) 17 1 ≤ 3 ∧
       cmdNat (cmdOf c) 18 1 = 255 ∧ cmdNat (cmdOf c) 19 1 < 24 ∧ s.islands.length = 48) ∧
    (let c := [(0, 1, 6), (16, 1, 1), (17, 1, 3), (18, 1, 11), (20, 8, 65535)]
     (commanded host0 c).CommandAt 1 6 (cmdOf c) ∧ cmdNat (cmdOf c) 16 1 = 1 ∧ cmdNat (cmdOf c) 18 1 ≤ 11 ∧
       1 ≤ cmdNat (cmdOf c) 20 8 ∧ cmdNat (cmdOf c) 20 8 ≤ 65535) ∧
    (let c := [(0, 1, 6), (16, 1, 2), (17, 1, 0), (19, 1, 1)]
     let s := commanded host0 c
     s.CommandAt 1 6 (cmdOf c) ∧ cmdNat (cmdOf c) 16 1 = 2 ∧ cmdNat (cmdOf c) 19 1 = 1 ∧ s.gated.contains (cmdNat (cmdOf c) 17 1) = false ∧
       (s.allTeams.map Team.ref).Nodup ∧ (∀ u ∈ s.allTeams, dieOf u.core = cmdNat (cmdOf c) 17 1 → s.canPreempt u = true)) ∧
    (let c := [(0, 1, 6), (16, 1, 2), (17, 1, 2), (19, 1, 0)]
     let s := { commanded host0 c with gated := [2] }
     s.serialTurn 1 = true ∧ s.CommandAt 1 6 (cmdOf c) ∧ cmdNat (cmdOf c) 19 1 = 0 ∧ s.gated.contains (cmdNat (cmdOf c) 17 1) = true ∧
       (commanded host0 c).gated.contains 2 = (cmdNat (cmdOf c) 19 1 == 1)) ∧
    (let c := [(0, 1, 6), (16, 1, 3), (20, 8, 600)]
     (commanded host0 c).CommandAt 1 6 (cmdOf c) ∧ cmdNat (cmdOf c) 16 1 = 3 ∧ 600 ≤ cmdNat (cmdOf c) 20 8 ∧ cmdNat (cmdOf c) 20 8 ≤ 2800) ∧
    cmdNat (cmdOf [(0, 1, 6), (16, 1, 3), (20, 8, 599)]) 20 8 < 600 := by
  simp only [State.CommandAt]; decide +kernel

/-- A COPY of `n` bytes from 0x10000 to 0x10020. -/
def copyCmd (n : Nat) : List (Nat × Nat × Nat) := [(0, 1, 7), (16, 8, 0x10000), (24, 8, 0x10020), (32, 8, n)]

/-- A COPY that finds a free context and one that finds none. -/
theorem wit_copy : (commanded host0 (copyCmd 16)).CommandAt 1 7 (cmdOf (copyCmd 16)) ∧ cmdNat (cmdOf (copyCmd 16)) 32 8 % 16 = 0 ∧
    (∀ c < 8, ((commanded host0 (copyCmd 16)).ctxs.getD c LaunchCtx.empty).queue = 1 →
      ((commanded host0 (copyCmd 16)).ctxs.getD c LaunchCtx.empty).copy = none) ∧ (commanded host0 (copyCmd 16)).copies = [] ∧
    (commanded host0 (copyCmd 16)).freeCtx = some 1 ∧ 1 < (commanded host0 (copyCmd 16)).ctxs.length ∧
    (commanded (crammed host0) (copyCmd 16)).CommandAt 1 7 (cmdOf (copyCmd 16)) ∧ (commanded (crammed host0) (copyCmd 16)).freeCtx = none ∧
    (∀ c < 8, ((commanded (crammed host0) (copyCmd 16)).ctxs.getD c LaunchCtx.empty).queue = 1 →
      ((commanded (crammed host0) (copyCmd 16)).ctxs.getD c LaunchCtx.empty).copy = none) := by
  simp only [State.CommandAt]; decide +kernel

/-- A COPY kernel of queue 1 that runs in context 0 on core 0, with `n` bytes to copy from `src`. -/
def copying (src n : Nat) : State :=
  let s := onCtx host0 fun k => { k with queue := 1, copy := some { src := src, dst := 0x10020, n := n, pts := 4 } }
  { s with ctxs := s.ctxs.mapIdx fun i (k : LaunchCtx) => if i == 0 then k else { k with queue := 2 } }

/-- Its next 16 bytes, its end, and a source that is not mapped. -/
theorem wit_copyRuns : (let s := copying 0x10000 40
     (s.ctxs.getD 0 LaunchCtx.empty).phase = .running ∧
       (s.ctxs.getD 0 LaunchCtx.empty).copy = some { src := 0x10000, dst := 0x10020, n := 40, pts := 4 } ∧
       (s.ctxs.getD 0 LaunchCtx.empty).queue = 1 ∧ s.headCmd 1 (fun op => op == 7) = none ∧ s.copies = [] ∧
       (∀ d < 8, d ≠ 0 → (s.ctxs.getD d LaunchCtx.empty).queue = 1 → (s.ctxs.getD d LaunchCtx.empty).copy = none) ∧
       s.allTeams.find? (fun t => t.ctx == 0) = some s.tm ∧ s.tm.held = false ∧ s.tm.halting = false ∧ s.stopped = false ∧
       s.islandOn s.tm.core = true ∧
       (∀ i < 16, s.poison.contains (0, lineOf (0x20000 + i)) = false ∧ s.hostDead (0, 0x20000 + i) = false ∧
         s.hostDead (0, 0x20020 + i) = false) ∧
       ∀ i < 16, ∀ j < 16, 0x20000 + i ≠ 0x20020 + j ∧ (0x20020 + i = 0x20020 + j → i = j)) ∧
    ((copying 0x10000 0).ctxs.getD 0 LaunchCtx.empty).copy = some { src := 0x10000, dst := 0x10020, n := 0, pts := 4 } := by
  decide +kernel

theorem wit_copyChecks : (∀ i < 16, ∃ x, (copying 0x10000 40).copyCheck (copying 0x10000 40).tm 0 (0x10000 + i) false = .good x ∧
      x.key = 0x20000 + i) ∧
    (∀ i < 16, ∃ x, (copying 0x10000 40).copyCheck (copying 0x10000 40).tm 0 (0x10020 + i) true = .good x ∧ x.key = 0x20020 + i) ∧
    (copying 0x30000 40).copyCheck (copying 0x30000 40).tm 0 0x30000 false = .bad .page :=
  ⟨fun i h => by interval_cases i <;> exact ⟨_, rfl, rfl⟩, fun i h => by interval_cases i <;> exact ⟨_, rfl, rfl⟩, rfl⟩

/-- Links that train in and outside RECOVERY, with a flip under way and without. -/
theorem wit_hostLinks : host0.recovery = false ∧ ¬((1 : Fin 2) = 0 ∧ LinkMode.cxl = .pcie) ∧ { host0 with recovery := true }.recovery = true ∧
    (Instr.hostLinkDown 0 = .hostLinkDown 0) ∧ (biased 2 true).biasJobs = flip 2 true :: [] ∧ host0.biasJobs = [] ∧
    (3 : Fin 4) ≠ 0 := by decide +kernel

/-- `host0` with a line under test. -/
def testing (sp line : Nat) (unc : Bool) : State := { host0 with tests := [(sp, line, unc)] }

/-- A team on a die, whose function's BAR2 window begins with the launch's share. -/
def barred2 : State := onTm host0 fun t => { t with lp := { t.lp with dspad := 0x10000 } }

/-- Device memory at the top of HBM; a line under test; a read-shared page; an aligned atomic and one that is not; no memory; and the
window of BAR2. -/
theorem wit_hostAccesses : host0.hostReach 0 0x5FFFFFFFFF 1 = true ∧ host0.portHeld 0x5FFFFFFFFF 1 = false ∧
    (testing 0 (0x20000 / 128) true).hostReach 0 0x20000 8 = true ∧ (testing 0 (0x20000 / 128) true).portHeld 0x20000 8 = true ∧
    host0.readShared 0x1000 4 = true ∧ host0.hostReach 1 0x1000 4 = true ∧ host0.portHeld 0x1000 4 = false ∧
    host0.readShared 0x20000 8 = false ∧ host0.hostReach 0 0x20000 8 = true ∧ host0.portHeld 0x20000 8 = false ∧ 0x20000 % 8 = 0 ∧
    0x20001 % 8 ≠ 0 ∧ host0.hostReach 0 (2 ^ 50) 8 = false := by decide +kernel

theorem wit_bar2 : writerFn (.vf 0) = some 0 ∧
    (∀ i < 4, i < 2 ^ 26 ∧ barKey (barred2.barShares 0) i = some (dspKey 0 0 0 + i)) ∧
    (∀ i < 4, barred2.underTest (4, lineOf (dspKey 0 0 0 + i)) = false) ∧
    (∃ i < 4, { barred2 with tests := [(4, lineOf (dspKey 0 0 0), false)] }.underTest (4, lineOf (dspKey 0 0 0 + i)) = true) ∧
    (∃ i < 4, 2 ^ 26 ≤ 2 ^ 26 - 2 + i) ∧ (∀ f, writerFn .tison ≠ some f) :=
  ⟨rfl, by decide +kernel, by decide +kernel, by decide +kernel, ⟨2, by decide, by decide⟩, fun _ => by simp [writerFn]⟩

/-- A session of two contributions of eight f32 with exponent 0, open for launch context 0, with this uplink. -/
def session1 (up : Half) : Session := { Session.reset with sctl := 0x80000002, scnt := 8, sroute := 0x100 + up }

/-- `viewed` with that session as number 5, and an operation of it in flight. -/
def reducing (f : Session → Session) (o : EngineOp) : State := { viewed [0] with sessions := (viewed []).sessions.set 5 (f (session1 0)), ops := [o] }

/-- A contribution under way. -/
def fred1 : EngineOp := { op1 with kind := .fred, session := 5 }

/-- A contribution that is issued. -/
theorem wit_fred : (reducing id op1).Ready ∧ (reducing id op1).Operands Use.none (.of 1 0) ∧
    (reducing id op1).viewFault (viewOf view1) (wordOf (.fred 1 5)) [0] = none ∧ (session1 0).servesCtx (reducing id op1).tm.ctx = true ∧
    (session1 0).ty.map (·.1) = some (viewOf view1).ty ∧ (viewOf view1).tw * (viewOf view1).th = (session1 0).elements ∧ 0 % 128 = 0 ∧
    (reducing id op1).tm.inSpace 2 0 (viewOf view1).tileBytes = true ∧ (reducing id op1).tm.cpBusy < 32 ∧ (reducing id op1).TablesOpen := by
  simp only [State.Ready, State.Fresh, State.LanesOk, State.Operands, State.TablesOpen]; decide +kernel

/-- One that arrives at an open and at a closed session, the second of the round too; a sum from below; an uplink's result; a result that
is written; a round that is out of time, and one on the uplink; and both kinds of writer. -/
theorem wit_reductions : (reducing id fred1).opById 1 = some fred1 ∧ fred1.kind = .fred ∧ fred1.joined = false ∧ fred1.waiting = false ∧
    (reducing id fred1).opBlocked fred1 = false ∧ fred1.session < (reducing id fred1).sessions.length ∧ (session1 0).isOpen = true ∧
    { session1 0 with sctl := 2 }.isOpen = false ∧ (session1 0).count + 1 < (session1 0).ncon ∧
    (session1 0).ncon ≤ { session1 0 with count := 1 }.count + 1 ∧ (session1 0).uplinkNo = 0 ∧ (session1 2).uplinkNo ≠ 0 ∧
    (List.replicate 8 (3 : Int)).length = (session1 0).elements ∧ (List.replicate 8 false).length = (session1 0).elements ∧
    (let u : UpRound := ⟨4, [1], [], [], [], 0⟩
     ((reducing (fun x => { x with uplink := [u] }) fred1).session 5).uplink.find? (fun z => z.round == 4) = some u ∧
       ([u]).find? (fun z => decide (z.began + 1000 * 1000 ≤ 1000000)) = some u) ∧
    (let o := { fred1 with joined := true, result := some (List.replicate 8 0) }
     (reducing id o).opById 1 = some o ∧ o.result = some (List.replicate 8 0) ∧
       (∀ e ∈ (reducing id o).ops, e.id < o.id → ∀ p ∈ o.dst, ∀ z ∈ e.src ++ e.dst, p.meets z = false) ∧ 1 ≤ (viewOf o.view).size ∧
       (viewOf o.view).size ≤ 4 ∧ (viewOf o.view).nibs ≠ 1) ∧
    { session1 0 with began := some 0 }.began = some 0 ∧ 0 + 1000 * 1000 ≤ State.now { reducing id op1 with now := 1000000 } ∧
    (session1 0).began = none ∧ reachesSessions (.vf 3) = false ∧ reachesSessions .tison = true ∧
    ((reducing id fred1).focusRun fred1.team).tm.ctx < (reducing id fred1).ctxs.length := by decide +kernel

/-- The contribution's source page is resident, may not be read, is not yet resident, and is not mapped. -/
theorem wit_reductionPages : (reducing id op1).checkPages (reducing id op1).tm ((viewOf view1).globals [0]) [] = .ok ∧
    (let s := { reducing id fred1 with pages := [{ page0 false with r := false }] }
     ∃ b, s.checkPages s.tm ((viewOf view1).globals [0]) [] = .bad b) ∧
    (let s := { reducing id fred1 with pages := [{ page0 false with resident := false }] }
     ∃ a, s.checkPages s.tm ((viewOf view1).globals [0]) [] = .miss a ∧ s.pageFails s.ctx.fn a = false) ∧
    (let s := { reducing id fred1 with pages := [{ page0 false with resident := false, lost := true }] }
     ∃ a, s.checkPages s.tm ((viewOf view1).globals [0]) [] = .miss a ∧ s.pageFails s.ctx.fn a = true) :=
  ⟨rfl, ⟨_, rfl⟩, ⟨_, rfl, rfl⟩, ⟨_, rfl, rfl⟩⟩

/-! ### Premises that are met: power -/

/-- `host0` with island 5 so. -/
def onIsland (f : Island → Island) : State := { host0 with islands := host0.islands.modify 5 f }

/-- `host0` with island 0 so, and the launches of two teams on it, of priorities 0 and `p`. -/
def crowded (p : Nat) : State := { host0 with teams := [{ host0.tm with ctx := 1, lp := { probeRecord with prio := p } }] }

theorem wit_power : (onIsland id).rack.next = none ∧ { host0 with rack := { host0.rack with next := some (1, 700, 5) } }.rack.next = some (1, 700, 5) ∧
    host0.islands[0]? = some Island.reset ∧ Island.reset.runs = true ∧ Island.reset.moveTo = none ∧
    (sensed [⟨3, 24⟩] 0) = (some 3, none) ∧ ((onIsland fun x => { x with pstate := .off }).islandAt 5).runs = false ∧
    ((onIsland fun x => { x with moveTo := some 2 }).islandAt 5).moveTo = some 2 ∧
    (let r : CollarReq := ⟨⟨0, 0⟩, some 1, false, 8, 0⟩
     let s := onIsland fun x => { x with cq := [r], used := 88 }
     (s.islandAt 5).head = some r ∧ (s.islandAt 5).fits 8 = true ∧
       ((onIsland fun x => { x with cq := [r], used := 89 }).islandAt 5).fits 8 = false) ∧
    (let r : CollarReq := ⟨⟨0, 0⟩, none, false, 6, 0⟩
     let s := { host0 with islands := host0.islands.modify 0 fun x => { x with cq := [r] } }
     (s.islandAt 0).head = some r ∧ (s.islandAt 0).fits 6 = true ∧ r.team = s.teamRef ∧ s.tm.live = true) ∧
    (let r : CollarReq := ⟨⟨0, 0⟩, none, true, 2, 0⟩
     ((onIsland fun x => { x with cq := [r] }).islandAt 5).head = some r ∧ r.burst = true) ∧
    (600 ≤ 600 ∧ 2800 ≤ 2800 ∧ 1 ≤ 65535 ∧ 65535 ≤ 65535) ∧
    (1 + 2 ^ 32 - host0.rack.seq % 2 ^ 32) % 2 ^ 32 = 1 ∧ (0 + 2 ^ 32 - host0.rack.seq % 2 ^ 32) % 2 ^ 32 = 0 ∧
    (2 ^ 31 + 2 ^ 32 - host0.rack.seq % 2 ^ 32) % 2 ^ 32 = 2 ^ 31 ∧
    (let s := { host0 with rack := { host0.rack with cap := some 700, ends := 5 }, now := 5 }
     s.rack.cap ≠ none ∧ s.rack.ends ≤ s.now) ∧ host0.rack.cap = none := by decide +kernel

/-- A current at and above the threshold of CAP 96; launches of one priority on an island that stands above entry 0, at entry 0 and in a
move; and launches of two. -/
theorem wit_overCurrent : 625 * (host0.islandAt 0).cap.toNat < 60001 ∧ ¬ 625 * (host0.islandAt 0).cap.toNat < 60000 ∧
    (∀ a ∈ (crowded 0).islandCtxs 0, ∀ b ∈ (crowded 0).islandCtxs 0, a.2 = b.2) ∧ (∀ a ∈ (crowded 0).islandCtxs 0, a.2 ≤ 7) ∧
    (host0.islandAt 0).moveTo = none ∧ (host0.islandAt 0).runs = true ∧
    (host0.islandAt 0).applied &&& 0x18 ≠ (host0.islandAt 0).applied ∧
    ((onIsland fun x => { x with applied := 8 }).islandAt 5).applied &&& 0x18 = ((onIsland fun x => { x with applied := 8 }).islandAt 5).applied ∧
    (0, 0) ∈ (crowded 7).islandCtxs 0 ∧ (1, 7) ∈ (crowded 7).islandCtxs 0 ∧ (∀ c ∈ (crowded 7).islandCtxs 0, 0 ≤ c.2) ∧
    0 < (crowded 7).ctxs.length ∧ (∀ c ∈ (crowded 7).islandCtxs 0, c.1 = 1 → c.2 = 7) := by decide +kernel

/-- An operation that writes nothing. -/
def flight0 : Flight := { tiles := [], writes := [], reads := [], gen := 0, lp := none, free := none, table := none, gs := none }

/-- `host0` quiescing with an operation under way on core 0. -/
def loaded : State :=
  let s := { host0 with islands := host0.islands.modify 0 fun x => { x with pstate := .quiescing } }
  onTm s fun t => { t with seq := { t.seq with st := .run, flight := some flight0 } }

/-- Island 5 in each state that a request is taken in. -/
theorem wit_islands : host0.islands.length = 48 ∧ (host0.islandAt 5).pstate = .on ∧
    ((onIsland fun x => { x with pstate := .quiescing }).islandAt 5).pstate = .quiescing ∧
    ((onIsland fun x => { x with pstate := .quiet }).islandAt 5).pstate = .quiet ∧
    ((onIsland fun x => { x with pstate := .quiet }).islandAt 5).saving = false ∧
    ((onIsland fun x => { x with pstate := .quiet, saving := true }).islandAt 5).saving = true ∧
    ((onIsland fun x => { x with pstate := .saved }).islandAt 5).pstate = .saved ∧
    ((onIsland fun x => { x with pstate := .clkoff }).islandAt 5).pstate = .clkoff ∧
    (∀ t ∈ (onIsland fun x => { x with pstate := .clkoff }).allTeams, islandOf t.core = 5 → t.held = true) ∧
    ((onIsland fun x => { x with pstate := .waking, fromOff := true }).islandAt 5).pstate = .waking ∧
    ((onIsland fun x => { x with pstate := .waking, fromOff := true }).islandAt 5).fromOff = true ∧
    ((onIsland fun x => { x with pstate := .waking }).islandAt 5).fromOff = false ∧
    (onIsland fun x => { x with pstate := .quiescing }).coreQuiet (5 / 12 * 144 + ((5 % 12 / 4) * 4 + 0 / 3) * 12 + 5 % 4 * 3 + 0 % 3) = true ∧
    (loaded.islandAt 0).pstate = .quiescing ∧ loaded.coreQuiet 0 = false := by decide +kernel

/-! ### Premises that are met: debug, trace, bring-up -/

/-- A trace record of kind 1. -/
def rec356 : TraceRec := { engine := 0, kind := 1, queue := 0, seq := 0, tcb := 0, data := 0 }

/-- `host0` with that record on its way and the trace ring so. -/
def tracing (f : Trace → Trace) : State :=
  { host0 with traceq := [(9, rec356)], trace := f { host0.trace with kinds := 0x100, en := true, base := 0x10000 } }

/-- A record that is not enabled, one with room, in an empty ring and behind the reader, one without; and a page in host bias, with the
link up and down. -/
theorem wit_trace : (tracing id).traceq.head? = some (9, rec356) ∧
    ((tracing id).trace.en = true ∧ 1 ≤ rec356.kind.toNat ∧ rec356.kind.toNat ≤ 11 ∧ (tracing id).trace.kinds.getLsbD (rec356.kind.toNat + 7) = true) ∧
    (tracing fun t => { t with en := false }).trace.en = false ∧ ((0 : Nat) % 4096 + 4096 - 0 % 4096) % 4096 = 0 ∧
    (let t := (tracing fun t => { t with wptr := 4000 }).trace
     32 < (t.rptr.toNat % 4096 + 4096 - t.wptr.toNat % 4096) % 4096) ∧
    (let t := (tracing fun t => { t with wptr := 4064 }).trace
     (t.rptr.toNat % 2 ^ t.log2.toNat + 2 ^ t.log2.toNat - t.wptr.toNat % 2 ^ t.log2.toNat) % 2 ^ t.log2.toNat = 32) ∧
    (tracing id).hostBias.contains (0x10000 / 4096) = false ∧
    { tracing id with hostBias := [0x10] }.hostBias.contains (0x10000 / 4096) = true ∧
    ((tracing id).hlinks.getD 0 { up := true, mode := .cxl }).up = true ∧
    (({ tracing id with hlinks := (tracing id).hlinks.modify 0 fun x => { x with up := false } }).hlinks.getD 0
      { up := true, mode := .cxl }).up = false := by decide +kernel

/-- Every kind of writer; a queue number that no function has, and a function that owns two queues; a grant to a launch of link 0, to a
context without one, and to a launch of another link's function. -/
theorem wit_registers : 34 ≤ (40 : Word).toNat ∧ 2 ≤ (host0.queues.zipIdx.filter fun x => x.2 != 9 && x.1.fn == (0 : Word).toNat).length ∧
    (host0.queues.zipIdx.filter fun x => x.2 != 9 && x.1.fn == (33 : Word).toNat).length < 2 ∧
    ((0x100 : Word).getLsbD 8 = true ∧ (host0.ctxs.getD ((0x100 : Word).toNat / 2 ^ 5 % 8) LaunchCtx.empty).phase ≠ .free ∧
      host0.linkOfFn (host0.ctxs.getD ((0x100 : Word).toNat / 2 ^ 5 % 8) LaunchCtx.empty).fn = 0) ∧
    (0 : Word).getLsbD 8 = false ∧ (host0.ctxs.getD ((0x120 : Word).toNat / 2 ^ 5 % 8) LaunchCtx.empty).phase = .free ∧
    host0.linkOfFn (host0.ctxs.getD 0 LaunchCtx.empty).fn ≠ 1 := by decide +kernel

/-- A trigger that is due, one whose tick has not come, with and without a time that is reached, and none. -/
theorem wit_snapshots : (let s := { host0 with snapDue := some 10, now := 10 }
     s.snapDue = some 10 ∧ 10 ≤ s.now) ∧
    (let s := { host0 with snapDue := some 10, now := 9, snapTime := some 9 }
     s.snapDue = some 10 ∧ s.now < 10 ∧ ∃ a ∈ s.snapTime, a ≤ s.now) ∧
    (let s := { host0 with snapDue := none, snapTime := some 7, now := 9 }
     s.snapDue = none ∧ s.snapTime = some 7 ∧ 7 ≤ s.now) ∧ host0.snapTime = none ∧ host0.snapDue = none := by decide +kernel

/-- An F in and out of range; and a core's debt at 255 and at 256. -/
theorem wit_causal : (256 : Nat) ≤ 256 ∧ 256 < 257 ∧
    (let s := onCtx host0 fun k => { k with causal := some ⟨0, 0, 0, [], [(3, 256), (4, 255)], []⟩ }
     (s.ctxs.getD 0 LaunchCtx.empty).causal = some ⟨0, 0, 0, [], [(3, 256), (4, 255)], []⟩ ∧
       256 ≤ (([(3, 256), (4, 255)] : List (Nat × Nat)).lookup 3).getD 0 ∧
       (([(3, 256), (4, 255)] : List (Nat × Nat)).lookup 4).getD 0 < 256) := by decide +kernel

/-- `host0` stopped, with its team saved. -/
def stopped0 : State := { onTm host0 fun t => { t with held := true } with stopped := true }

/-- A stop of a module that stands stopped, one that a command or a team delays, and one that goes through; a resume; and a step to a
phase that is to come, and to one that is past. -/
theorem wit_stops : stopped0.stopped = true ∧ stopped0.stepping = none ∧ stopped0.stopReq = false ∧ (stopped0.allTeams.map Team.ref).Nodup ∧
    host0.stopped = false ∧ (biased 1 true).commandsOver = false ∧ host0.commandsOver = true ∧ (host0.allTeams.map Team.ref).Nodup ∧
    (∀ u ∈ host0.allTeams, host0.canPreempt u = true) ∧
    (let s := onTm host0 fun t => { t with seq := { t.seq with st := .run } }
     s.commandsOver = true ∧ ∃ u ∈ s.allTeams, s.canPreempt u = false) ∧
    stopped0.tm.live = true ∧ stopped0.tm.held = true ∧ stopped0.gated.contains (dieOf stopped0.tm.core) = false ∧
    (stopped0.tm.barAt 1).phase ≤ 0 ∧
    (let s := onTm stopped0 fun t => { t with bars := t.bars.modify 1 fun b => { b with phase := 1 } }
     0 < (s.tm.barAt 1).phase) := by decide +kernel

/-- A step whose phase is over, with the team's fragment parked. -/
def step1 : Stepping := { team := ⟨0, 0⟩, bar := 1, phase := 0, doneAt := some 0, seqHeld := true }
def stepped : State :=
  { onFr host0 fun f => { f with wait := .barrier 1 1 false, held := true } with stopped := true, stepping := some step1, seqNo := 5 }

theorem wit_stepOver : stepped.stepping = some step1 ∧ step1.team = stepped.teamRef ∧ stepped.tm.live = true ∧ stepped.tm.held = false ∧
    stepped.stepOver step1 stepped.tm = true ∧
    (let k := { step1 with doneAt := none }
     let s := { stepped with stepping := some k }
     s.stepping = some k ∧ k.team = s.teamRef ∧ s.stepOver k s.tm = false) := by decide +kernel

/-- A slot that the sequencer does not hold; one of a halted, of a saved and of a stepped sequencer; one outside the share; and one that
a running stream holds. -/
theorem wit_debugReads : (5 : Nat) < (st [] []).tm.acc.length ∧ ((holding (mx id) .given).accSlot 3).tok ≠ .mat ∧
    (st [] []).tm.seq.flight = none ∧ (st [] []).tm.seq.st = .halted ∧ (stopped0.tm.held = true ∧ stopped0.stopped = true) ∧
    (∃ k ∈ stepped.stepping, k.team = stepped.teamRef ∧ k.seqHeld = true) ∧ (st [] []).tm.acc.length ≤ 16 ∧
    ((mx id).accSlot 3).tok = .mat ∧ (mx id).tm.seq.st = .run ∧ (mx id).tm.held = false ∧ (mx id).stepping = none := by decide +kernel

theorem wit_breakpoints : (let s := onCtx host0 fun k => { k with attached := true, bps := [0x1001, 0, 0, 0] }
     s.Placed ∧ s.fr.skipBp = false ∧ s.fr.wait = .none ∧ s.fr.replay = none ∧ s.ctx.attached = true) ∧
    (let s := onFr host0 fun f => { f with wait := .debug }
     s.Placed ∧ s.fr.wait = .debug ∧ s.fr.lc = 0 ∧ s.fr.replay = none) := by
  simp only [State.Placed]; decide +kernel

/-- The breakpoint register of the same state names the fragment's pc. -/
theorem wit_breakpointMatches : (let s := onCtx host0 fun k => { k with attached := true, bps := [0x1001, 0, 0, 0] }
    ∃ x ∈ s.ctx.bps, x.getLsbD 0 = true ∧ x >>> 1 = s.fr.pc >>> 1) := ⟨0x1001, by decide +kernel, by decide, by rfl⟩

/-- Whatever the free checks of the ROM, of the rails and of the memories decide, one of the clauses applies. -/
theorem wit_bringUpChecks : (∀ image, (Config.signatureValid image = true ∧ host0.fuses.minVer ≤ Config.imageVersion image) ∨
      ¬(Config.signatureValid image = true ∧ host0.fuses.minVer ≤ Config.imageVersion image)) ∧
    (∀ token, (Config.signatureValid token = true ∧ Config.tokenTarget token = 1) ∨
      ¬(Config.signatureValid token = true ∧ Config.tokenTarget token = 1)) ∧
    (Config.powerFails host0.ticks = true ∨ Config.powerFails host0.ticks = false) ∧
    (Config.wipeFails host0.ticks = true ∨ Config.wipeFails host0.ticks = false) :=
  ⟨fun _ => em _, fun _ => em _, by cases Config.powerFails _ <;> simp, by cases Config.wipeFails _ <;> simp⟩

/-- RECOVERY with link 0 and an image that fills the mailbox; a nonce of 32 bytes; a line that no memory has; one of each kind that is
under test and one that is not; the lane slot and the accumulator slot of the team in focus. -/
theorem wit_bringUp : host0.recovery = false ∧ { host0 with recovery := true }.recovery = true ∧
    (host0.hlinks.getD 0 { up := false, mode := .pcie }).up = true ∧ ([5] : List Byte).length ≤ 65536 ∧
    (List.replicate 32 (0 : Byte)).length = 32 ∧ host0.ownMemory 13 0 = false ∧ host0.ownMemory 0 (2 ^ 44) = false ∧
    host0.ownMemory 0 256 = true ∧ (host0.tests.any fun t => t.1 == 0 && t.2.1 == 256) = false ∧
    ((testing 0 256 true).tests.any fun t => t.1 == 0 && t.2.1 == 256) = true ∧ (testing 0 256 true).tests.head? = some (0, 256, true) ∧
    (host0.ownMemory 3 5 = true ∧ host0.tm.live = true ∧ host0.tm.core = 5 / 16) ∧
    (host0.ownMemory 1 7 = true ∧ host0.tm.held = false ∧ host0.tm.core = 7 / 2 ^ 16 / 96 ∧ host0.gp.gslot = 7 / 2 ^ 16 % 96) := by decide +kernel

/-! ### Premises that are met: decoding, steps, invariants -/

theorem wit_roundTrip : (Instr.spawnTry 63 4 ⟨7, true⟩).wf = true ∧ (encode (.spawnTry 63 4 ⟨7, true⟩)).isSome = true ∧
    maxBytes .tison ≤ (toBytes 4 0x0030050B).length := by decide +kernel

theorem wit_accepted : decodeBytes .tison (toBytes 4 0x0030050B) = .ok (.tnRingf 10 3) := rfl

/-- The fragment of the probe, its sequencer and a Tison core, each with the turn; an event on the agenda and one that is due; an encoded
instruction on the agenda; a turn without work; and a module without power, with a doorbell, with another event and with a reset. -/
theorem wit_steps : (State.reset.withFetchWord 16 0).powered = true ∧ (State.reset.withFetchWord 16 0).agenda = [] ∧
    (State.reset.withFetchWord 16 0).turn = .lane ∧ (State.reset.withFetchWord 16 0).pick.isSome = true ∧
    (State.reset.withFetchWord 64 0x4B).turn = .matrix ∧ (State.reset.withFetchWord 64 0x4B).pickSeq.isSome = true ∧
    (State.reset.withFetchWord 32 0x0030050B).turn = .tison ∧ (State.reset.withFetchWord 32 0x0030050B).pickTison = some 0 ∧
    (State.reset.withFetchWord 32 0x0030050B).fetchTison 0 = some (0x0030050B, 4) ∧ 0x0030050B % 128 = 0x0B ∧
    { State.reset with agenda := [.capExpiry] }.agenda = .capExpiry :: [] ∧ Instr.encoded .capExpiry = false ∧ Instr.encoded .nop = true ∧
    (let s := { State.reset with turn := .event, stopReq := true }
     s.agenda = [] ∧ s.turn = .event ∧ s.nextDue.isSome = true) ∧
    (takeTurn State.reset.turn State.reset).isNone = true ∧ { State.reset with powered := false }.powered = false ∧
    isDoorbell (.doorbell (.vf 0, 1) 5) = true ∧ Instr.encoded (.doorbell (.vf 0, 1) 5) = false ∧
    isDoorbell .capExpiry = false ∧ isReset .capExpiry = false ∧ isReset .moduleReset = true ∧ Instr.encoded .moduleReset = false := by decide +kernel

/-- A word of the base set, one that is no instruction, and a pc outside a Tison core's memories. -/
theorem wit_tisonFetch : (let s := (State.reset.withFetchWord 32 0x0030050B).putNat 5 0 4 0x00000013
     s.fetchTison 0 = some (0x13, 4) ∧ 0x13 % 128 ≠ 0x0B) ∧
    (∃ r, decodeBytes .tison (toBytes 4 0xFFFFFF8B) = .error r) ∧
    (let s := State.reset.withFetchWord 32 0x0030050B
     { s with tison := s.tison.modify 0 fun x => { x with pc := 0x40000 } }.fetchTison 0 = none) :=
  ⟨by decide +kernel, ⟨_, rfl⟩, by decide +kernel⟩

/-- The state in which the probe's fragment fetches. -/
def fetching (s : State) (c : Cand) : State := { s.focusCand c with cur := .lane, turn := .matrix }

/-- What the probe's step fetches: the parcel `nop`; a line that the instruction cache lacks; a page that is not known; a page
that may not be read; and its breakpoint. -/
theorem wit_fetch : ∃ c, (State.reset.withFetchWord 16 0).pick = some c ∧
    ((fetching (State.reset.withFetchWord 16 0) c).atBreakpoint = false ∧
      (fetching (State.reset.withFetchWord 16 0) c).fetchLane 0x1000 = .bytes [0, 0]) ∧ decodeBytes .lane [0, 0] = .ok .nop ∧
    (∃ r, decodeBytes .lane [0xF8, 1] = .error r) ∧
    (fetching { State.reset.withFetchWord 16 0 with icache := [] } c).fetchLane 0x1000 = .fill 32 ∧
    (fetching { State.reset.withFetchWord 16 0 with tlb := [], pages := [{ probePage with resident := false }] } c).fetchLane 0x1000 =
      .miss 0x1000 ∧
    (fetching { State.reset.withFetchWord 16 0 with tlb := [(0, { probePage with r := false })] } c).fetchLane 0x1000 = .bad .prot 0x1000 ∧
    (fetching (onCtx (st [] []) fun k => { k with attached := true, bps := [0x1001, 0, 0, 0] }) c).atBreakpoint = true :=
  ⟨_, rfl, ⟨rfl, rfl⟩, rfl, ⟨_, rfl⟩, rfl, rfl, rfl, rfl⟩

/-- The same of the sequencer, for `mhalt`, and a word that is no instruction. -/
theorem wit_fetchMatrix : (let s := { State.reset.withFetchWord 64 0x4B with cur := .matrix, turn := .event }
     s.fetchMatrixWord = .bytes (toBytes 8 0x4B) ∧
       { s with icache := [] }.fetchMatrixWord = .fill 32 ∧ { s with pages := [] }.fetchMatrixWord = .bad .space 0x1000 ∧
       { s with pages := [{ probePage with resident := false, lost := true }] }.fetchMatrixWord = .bad .page 0x1000 ∧
       { s with pages := [{ probePage with resident := false }] }.fetchMatrixWord = .miss 0x1000 ∧
       { s with pages := [{ probePage with r := false }] }.fetchMatrixWord = .bad .prot 0x1000) ∧
    decodeBytes .matrix (toBytes 8 0x4B) = .ok .mhalt ∧ ∃ r, decodeBytes .matrix (toBytes 8 0) = .error r :=
  ⟨⟨rfl, rfl, rfl, rfl, rfl, rfl⟩, rfl, ⟨_, rfl⟩⟩

theorem wit_invariants_memory : State.reset.MemOk := by simp only [State.MemOk]; decide +kernel

theorem wit_invariants_registers : State.reset.RegsOk := by
  refine ⟨by decide +kernel, by decide +kernel, fun k hk w hw => ?_, by decide +kernel, by decide +kernel, by decide +kernel, by decide +kernel⟩
  obtain rfl := List.eq_of_mem_replicate hk
  simp only [LaunchCtx.empty, List.mem_replicate] at hw
  simp [hw.2]

/-- The event on the agenda is the step. -/
theorem wit_invariants_step : ∃ t, step { State.reset with agenda := [.capExpiry] } = .next t := ⟨_, rfl⟩

/-! ### Premises that are met: further clauses -/

/-- No write of the scalar top is pending. -/
theorem wit_scalarArrived : (st [] [7]).pendingTop true 1 = [] ∧ (st [] [7]).stackFault (.of 0 1) (.of 1 0) = none := by decide +kernel

/-- A lane that has not arrived, one that has exited, and a fragment held at the address with other members, with a handler. -/
theorem wit_crossUses : crossUse .ballot = some (.of 1 0, .of 1 1) ∧ crossUse (.perm .b32) = some (.of 3 1, .of 1 0) := ⟨rfl, rfl⟩

theorem wit_crossLaneWaits : (pair [2, 1, 0] [3] .none).Operands (.of 3 1) (.of 1 0) ∧ (pair [5] [3, 0] .none).Operands (.of 1 1) (.of 2 0) ∧
    (pair [5] [3] .none).Operands (.of 1 0) (.of 1 0) ∧ (pair [5] [3] .none).Operands (.of 1 1) (.of 1 0) ∧
    (let s := handled (pair [5] [3] (.xlane 2))
     let s := s.setGp { s.tm.gp with frs := s.tm.gp.frs.map fun f => { f with sstk := [ent 2] } }
     s.Ready ∧ s.Operands (.of 1 0) (.of 1 1) ∧ lo32 (3 : Word) &&& ~~~s.gp.liveMask = 0 ∧ s.gp.frs.length = 1 ∧
       (∀ h ∈ s.gp.frs, h.mask = 2 ∧ h.pc = s.fr.pc ∧ h.wait = .xlane 2 ∧ h.memberMask ≠ 3 ∧ h.trap = none ∧ h.mask &&& s.fr.mask = 0) ∧
       s.fr.trap = none ∧ s.tm.lp.trap ≠ 0) := by
  simp only [State.Ready, State.Fresh, State.LanesOk, State.Operands]; decide +kernel

/-- Two lanes at once: the second one past the end, the first at an odd address; SPACE is raised, with the second lane's address. -/
theorem wit_faultOrder : (let s := st2 [2] [0xC0000] []
     let m := ldOp false .c .w32 .near 0
     s.LanesOk ∧ (∃ r ∈ s.reqs m (s.todoOf m), s.checkAddr m.acc m.sp m.size r.addr.toNat = .bad .align) ∧
       (s.checkAll m (s.reqs m (s.todoOf m))).bad = some ⟨.space, 2, 0xC0000⟩ ∧ Code.space ∈ checkOrder) ∧
    (let s := st2 [2] [0xC0000, 6] []
     let s := s.setLanes (s.gp.lanes.modify 1 fun l => { l with stk := l.stk.tail })
     let m := ldOp false .c .w32 .near 0
     (s.checkAll m (s.reqs m (s.todoOf m))).bad = some ⟨.align, 3, 2⟩) := by
  simp only [State.LanesOk]
  refine ⟨⟨by decide +kernel, ⟨{ ix := 0, addr := 2, a := 0, b := 0 }, by decide +kernel, by decide +kernel⟩, by decide +kernel, by decide⟩,
    by decide +kernel⟩

/-- An operation that a parked fragment is in the midst of, and one of which nothing is left. -/
theorem wit_underWay : waiting1.underWay 1 = false ∧ { st [] [] with posted := [posted1] }.underWay 3 = false ∧
    (onFr waiting1 fun f => { f with
      wait := .page 0x10000
      replay := some { ins := .ld false .g .w32 .near 0, todo := 1, vals := [], entry := true, op := some 1, again := false } }).underWay 1 =
        true := by decide +kernel

/-- A fetched line under test, and one whose own row and whose cores' banks no test holds. -/
theorem wit_fetchTests : (testing 0 32 false).underTest (0, 32) = true ∧
    (let s := onFr (st [] []) fun f => { f with wait := .fetch 32 }
     s.underTest (0, 32) = false ∧ ∀ u ∈ s.allTeams, s.underTest (codeMem, cacheKey u.core 32) = false) := by decide +kernel

/-- A block that holds indices; two that came back, of which the lower is drawn from; a fresh block; a region that holds an index, and one
that is run again; and a TCB that no flip takes away. -/
theorem wit_disp : (onTm (viewed []) fun t => { t with block := [7] }).RoomOf true (.of 0 1) ∧
    (let s := onCtx (viewed []) fun k => { k with returned := [[9, 10], [3]] }
     [3] ∈ s.ctx.returned ∧ (∀ b ∈ s.ctx.returned, b ≠ [3] → 3 < b.headD 0) ∧ s.tm.block = []) ∧
    (let s := onCtx (viewed []) fun k => { k with lp := { k.lp with dcount := 3 } }
     s.tm.block = [] ∧ s.ctx.returned = [] ∧ s.ctx.dispC < s.ctx.lp.dcount ∧ s.tm.ctx < s.ctxs.length) ∧
    (let s := onFr (viewed []) fun f => { f with redisp := some 7 }
     s.Ready ∧ s.fr.redisp = some 7 ∧ s.RoomOf true (.of 0 1)) ∧
    (onFr (viewed []) fun f => { f with region := { f.region with disp := some 7 } }).fr.region.disp.isSome = true ∧
    (viewed []).flipHeld 0x20000 = false := by
  simp only [State.Ready, State.Fresh, State.LanesOk, State.RoomOf]; decide +kernel

/-- A group struck while it was swapped out, and one that was not; a pocket that runs, and one whose team is saved and one whose island's
clock stands. -/
theorem wit_pockets : (onFr (spawning [] 0x10000) fun f => { f with struck := some 2 }).fr.struck = some 2 ∧
    (spawning [] 0x10000).fr.struck = none ∧ (spawning [] 0).pocketRuns (spawning [] 0).teamRef = true ∧
    (onTm (spawning [] 0) fun t => { t with held := true }).pocketRuns (spawning [] 0).teamRef = false ∧
    { spawning [] 0 with islands := (spawning [] 0).islands.modify 0 fun x => { x with pstate := .clkoff, gate := true } }.pocketRuns
      (spawning [] 0).teamRef = false ∧ (spawning [] 0).tm.live = true := by decide +kernel

/-- The two kinds of pocket again, for the swaps of `wit_swap`. -/
theorem wit_swapRuns (n : Nat) : (swapping n).pocketRuns (swapping n).teamRef = true := by
  have e : (swapping n).teams = [] := rfl
  have l : (swapping n).tm.live = true := rfl
  have h : (swapping n).findTeam (swapping n).teamRef = some (swapping n).tm := by
    simp [State.findTeam, State.teamRef, State.allTeams, e, l]
  have r : (swapping n).islandOn (swapping n).tm.core = true := by
    have i : (swapping n).islands = State.reset.islands := rfl
    have c : (swapping n).tm.core = 0 := rfl
    rw [State.islandOn, i, c]; decide +kernel
  have d : (swapping n).tm.held = false := rfl
  simp [State.pocketRuns, h, r, d]

/-- A slot that another holds, one outside the share, and an element number of 4,096. -/
theorem wit_accumulatorFaults : (let s := holding (st [5, 4095] []) .given
     s.Ready ∧ (s.tm.acc.getD 3 AccSlot.empty).tok ≠ .lane s.gp.uid ∧ s.OperandsOf false (.of 1 1) ∧ s.OperandsOf false (.of 2 0)) ∧
    (onTm (st [] []) fun t => { t with acc := t.acc.take 3 }).tm.acc.length ≤ 3 ∧
    (let s := holding (st [4096] []) (.lane 0)
     s.OperandsOf false (.of 1 1) ∧ (s.active.filter fun l => decide (4096 ≤ (arg l.regs.stk 0).toNat)) ≠ []) ∧
    (let s := holding (st [5, 4096] []) (.lane 0)
     s.OperandsOf false (.of 2 0) ∧ (s.active.filter fun l => decide (4096 ≤ (arg l.regs.stk 1).toNat)) ≠ []) ∧
    (let s := holding (st [4095] []) (.lane 0)
     (s.active.filter fun l => decide (4096 ≤ (arg l.regs.stk 0).toNat)) = []) := by
  simp only [State.Ready, State.Fresh, State.LanesOk, State.OperandsOf, State.Operands]; decide +kernel

/-- Both stacks of `perm` and of `s2l`: too few lane entries, no scalar one, entries below the region's depths, and no room. -/
theorem wit_twoStacks : (st [2, 1] [1]).Awake ∧ (st [2, 1] [1]).exempt = false ∧ (st [2, 1] [1]).laneDepth < 3 ∧
    (st [3, 2, 1] []).laneDepth = 3 ∧ (st [3, 2, 1] []).fr.sstk.length = 0 ∧
    (let s := onFr (st [3, 2, 1] [1]) fun f => { f with region := { f.region with ldepth := 1 } }
     s.Awake ∧ s.exempt = false ∧ 3 ≤ s.laneDepth ∧ 1 ≤ s.fr.sstk.length ∧ s.laneDepth - 3 < s.entryDepth false) ∧
    (let s := onFr (st [3, 2, 1] [1]) fun f => { f with region := { f.region with sdepth := 1 } }
     s.exempt = false ∧ 3 ≤ s.laneDepth ∧ s.entryDepth false ≤ s.laneDepth - 3 ∧ s.fr.sstk.length - 1 < s.entryDepth true) ∧
    (let s := st (List.replicate 72 5) [1]
     s.Awake ∧ s.exempt = false ∧ 1 ≤ s.fr.sstk.length ∧ s.entryDepth true ≤ s.fr.sstk.length - 1 ∧ s.laneCap ≤ s.laneDepth) := by
  simp only [State.Awake, State.LanesOk]; decide +kernel

/-- A request that another fragment's came before, and one that is the first. -/
theorem wit_services2 : (let s := serving 0 5
     let s := (onFr s fun f => { f with mask := 1, parkedAt := 4 }).setGp
       { (onFr s fun f => { f with mask := 1, parkedAt := 4 }).tm.gp with frs := [{ s.fr with mask := 2, wait := .svc 1 0, parkedAt := 3 }] }
     s.Placed ∧ s.fr.wait = .svc 0 5 ∧ s.serviceBefore = true) ∧ (serving 0 5).serviceBefore = false ∧ (serving 2 15).serviceBefore = false := by
  simp only [State.Placed]; decide +kernel

/-- A join counter that can be reached; one on a page that is not resident, and one that a flip takes away. -/
theorem wit_counters : (paged (st [] []) [page0 false]).counterAt 0 0x10000 = some { pa := 0x20000, leased := true } ∧
    (paged (st [] []) [{ page0 false with resident := false }]).counterAt 0 0x10000 = none ∧
    { paged (st [] []) [page0 false] with flipping := [(0x20, true)] }.counterAt 0 0x10000 = none := by decide +kernel

/-- A wait of another kind stands before the one that is out of time; and the first waiter of a signal behind one of another. -/
theorem wit_firstWaiters :
    (let s := { tison1 [] with waiters := [.queue 1 9 none, .core 0 7 3 (some 10)], now := 10 }
     (s.waiters.find? fun w => match w with
        | .core c _ _ (some d) => c == 0 && decide (d ≤ s.now)
        | _ => false) = some (.core 0 7 3 (some 10))) ∧
    (let s := { host0 with waiters := [.core 0 7 3 none, .queue 1 9 (some 10)], now := 10 }
     (s.waiters.find? fun w => match w with
        | .queue r _ (some d) => r == 1 && decide (d ≤ s.now)
        | _ => false) = some (.queue 1 9 (some 10))) ∧
    (([.core 1 5 0 none, .core 2 1023 5 none] : List Waiter).find? fun w => w.sig == 1023) = some (.core 2 1023 5 none) ∧
    (([.core 1 5 0 none, .queue 2 1023 none] : List Waiter).find? fun w => w.sig == 1023) = some (.queue 2 1023 none) := by decide +kernel

/-- The last team is gone while no stop stands in the way, and while one does and no fault ended the launch; and a swapped-out group whose
counter only itself would lower. -/
theorem wit_launchEnds2 : (host0.stopped = false ∧ (host0.stopReq = false ∨ host0.commandsOver = false)) ∧
    (({ inCtx (fun k => { k with phase := .running }) with stopped := true }.ctxs.getD 3 LaunchCtx.empty).fatal = none) ∧
    (let s := onTm (handled (spawning [] 0)) fun t => { t with swapped := [(1, { t.gp with
       uid := 7, child := true, fr := { t.gp.fr with wait := .cwait }
       lanes := t.gp.lanes.modify 0 fun l => { l with jcp := 0x10000, jex := some 0x10000 } })] }
     let s := s.putNat 0 0x20000 4 1
     s.Placed ∧ (s.allTeams.map Team.ref).Nodup ∧ s.deadSet 0 = [.swapped s.teamRef 0] ∧ s.tm.swapped.length = 1 ∧ s.tm.lp.trap ≠ 0 ∧
       (∀ g ∈ s.tm.swapped, ∀ f ∈ g.2.allFrags, f.trap = none)) := by
  simp only [State.Placed]; decide +kernel

/-- RECOVERY with a ring of the least and of the greatest size, and a doorbell outside RECOVERY and of a ring that is disabled. -/
theorem wit_doorbells : (let s := { host0 with recovery := true, queues := host0.queues.set 1 (queueWith [] fun h => { h with tail := 2 }) }
     (s.queueAt 1).ownedBy (.vf 0) = true ∧ s.recovery = true ∧ (s.queueAt 1).en = true ∧ 1 < s.queues.length ∧
       4 ≤ (s.queueAt 1).log2.toNat ∧ (s.queueAt 1).log2.toNat ≤ 12) ∧
    (queueWith [] fun h => { h with log2 := 12 }).log2.toNat ≤ 12 ∧ host0.recovery = false ∧ (host0.queueAt 1).en = false := by decide +kernel

/-- SHRINK of no context, of one that is free and never ended, and of one with no die; and each POWER command past the end of a range. -/
theorem wit_rejects :
    (let c := [(0, 1, 5), (16, 1, 8), (17, 1, 1)]
     let s := commanded host0 c
     s.serialTurn 1 = true ∧ s.CommandAt 1 5 (cmdOf c) ∧ 7 < cmdNat (cmdOf c) 16 1) ∧
    (let c := [(0, 1, 5), (16, 1, 3), (17, 1, 1)]
     let s := commanded host0 c
     s.CommandAt 1 5 (cmdOf c) ∧ (s.ctxs.getD 3 LaunchCtx.empty).phase = .free ∧
       (s.ctxs.getD 3 LaunchCtx.empty).lastDone ≤ (s.queueAt 1).order.headD 0) ∧
    (let c := [(0, 1, 5), (16, 1, 0), (17, 1, 16)]
     let s := commanded host0 c
     s.CommandAt 1 5 (cmdOf c) ∧ cmdNat (cmdOf c) 16 1 ≤ 7 ∧ (s.ctxs.getD 0 LaunchCtx.empty).phase ≠ .free ∧ 15 < cmdNat (cmdOf c) 17 1 ∧
       s.liveDies 0 = []) ∧
    (let at_ := fun (c : List (Nat × Nat × Nat)) => (commanded host0 c).serialTurn 1 = true ∧ (commanded host0 c).CommandAt 1 6 (cmdOf c)
     let b := fun (c : List (Nat × Nat × Nat)) off => cmdNat (cmdOf c) off 1
     at_ [(0, 1, 6), (16, 1, 4)] ∧ 3 < b [(0, 1, 6), (16, 1, 4)] 16 ∧ at_ [(0, 1, 6), (17, 1, 4)] ∧ 3 < b [(0, 1, 6), (17, 1, 4)] 17 ∧
       at_ [(0, 1, 6), (18, 1, 12)] ∧ (11 < b [(0, 1, 6), (18, 1, 12)] 18 ∧ b [(0, 1, 6), (18, 1, 12)] 18 ≠ 255) ∧
       at_ [(0, 1, 6), (19, 1, 24)] ∧ 24 ≤ b [(0, 1, 6), (19, 1, 24)] 19 ∧ at_ [(0, 1, 6), (16, 1, 1)] ∧
       cmdNat (cmdOf [(0, 1, 6), (16, 1, 1)]) 20 8 = 0 ∧ at_ [(0, 1, 6), (16, 1, 2), (19, 1, 2)] ∧
       b [(0, 1, 6), (16, 1, 2), (19, 1, 2)] 17 ≤ 3 ∧ 1 < b [(0, 1, 6), (16, 1, 2), (19, 1, 2)] 19) := by
  simp only [State.CommandAt]; decide +kernel

/-- A host link may train once it has trained, in RECOVERY, with every fabric link up, or at the end of the links' time; until then not. -/
theorem wit_linksOpen : host0.opened = true ∧ { host0 with recovery := true }.recovery = true ∧
    (∀ x ∈ { host0 with flinks := host0.flinks.map fun (x : FabricLink) => { x with up := true } }.flinks, x.up = true) ∧
    (let s := { host0 with opened := false, fabricBy := 5, now := 5 }
     s.fabricBy ≤ s.now) ∧
    (let s := { host0 with opened := false, fabricBy := 5, now := 4 }
     ¬(s.recovery = true ∨ s.opened = true ∨ (∀ x ∈ s.flinks, x.up = true) ∨ s.fabricBy ≤ s.now)) := by decide +kernel

/-- A sum from below of eight f32 values, and of twice as many 16-bit ones. -/
theorem wit_sums : (List.replicate 8 (3 : Int)).length = (session1 0).values ∧ (session1 0).isOpen = true ∧
    (List.replicate 16 (3 : Int)).length = { session1 0 with sctl := 0x84000002 }.values := by decide +kernel

/-- BAR0 before and after the host links train; a record whose place is under test, one that goes to device memory behind one on its way, and
one at the head of the stores on their way that is accepted. -/
theorem wit_traceWaits : host0.opened = true ∧ { host0 with opened := false }.opened = false ∧
    { tracing id with tests := [(0, 0x10000 / 128, false)] }.underTest (0, 0x10000 / 128) = true ∧ (tracing id).underTest (0, 0x10000 / 128) = false ∧
    (let p := { posted1 with team := traceTeam, passed := 2 }
     let s := { tracing id with posted := [p] }
     s.posted.countP Posted.isRecord ≠ 0 ∧ s.posted = p :: [] ∧ p.isRecord = true ∧ p.passed = 2) := by decide +kernel

/-- A breakpoint without the debugger, where a handler takes it and where none does; and a fragment that BRK, or WATCH, stopped. -/
theorem wit_unattached : (let s := handled (onCtx host0 fun k => { k with bps := [0x1001, 0, 0, 0] })
     s.Placed ∧ s.fr.skipBp = false ∧ s.fr.wait = .none ∧ s.fr.replay = none ∧ s.ctx.attached = false ∧ s.fr.trap = none ∧ s.tm.lp.trap ≠ 0) ∧
    (let s := onCtx host0 fun k => { k with bps := [0x1001, 0, 0, 0] }
     s.Placed ∧ s.ctx.attached = false ∧ s.tm.lp.trap = 0 ∧ s.tm.ctx < s.ctxs.length) ∧
    (let s := onFr host0 fun f => { f with wait := .debug, fcode := 0x41 }
     s.Placed ∧ s.fr.wait = .debug ∧ s.fr.fcode = 0x41) := by
  simp only [State.Placed]; decide +kernel

theorem wit_unattachedMatches : (let s := handled (onCtx host0 fun k => { k with bps := [0x1001, 0, 0, 0] })
    ∃ x ∈ s.ctx.bps, x.getLsbD 0 = true ∧ x >>> 1 = s.fr.pc >>> 1) := ⟨0x1001, by decide +kernel, by decide, by rfl⟩

/-- A line of each kind of memory, and the accumulator slot that a share lies in. -/
theorem wit_memories : (∀ sp ∈ [2, 4, 5, 6, 7, 8, 9, 10, 11], host0.ownMemory sp 256 = true) ∧
    { host0 with islands := host0.islands.modify 0 fun x => { x with pstate := .retain } }.ownMemory 12 7 = true ∧ host0.ownMemory 12 7 = false ∧
    (let s := onTm host0 fun t => { t with phys := [4, 5] }
     s.tm.live = true ∧ s.tm.held = false ∧ s.tm.core = 5 / 16 ∧ 5 % 16 ∈ s.tm.phys) ∧
    (5 / 2 ^ 47 = 0 ∧ host0.tm.core = 7 / 2 ^ 16 / 96 ∧ host0.gp.gslot = 7 / 2 ^ 16 % 96) := by decide +kernel

/-- What the probe's step makes of `nop`, which issues, and of `add` on operands that are on their way, which does not. -/
theorem wit_issues : ∃ c, (State.reset.withFetchWord 16 0).pick = some c ∧
    (let u := fetching (State.reset.withFetchWord 16 0) c
     after (exec .nop ((u.passOver u.readyPeers false).portIssue .nop)) State.issueNo = some (u.issueNo + 1)) ∧
    (let u := fetching (State.reset.withFetchWord 16 0x0240) c
     let u := u.setLanes (u.gp.lanes.modify 0 fun l => { l with stk := [{ ent 1 with pend := some 1 }, ent 2] })
     u.fetchLane 0x1000 = .bytes [0x40, 2] ∧
       after (exec (.add .rne .i32 false) ((u.passOver u.readyPeers false).portIssue (.add .rne .i32 false))) State.issueNo =
         some u.issueNo) := ⟨_, rfl, by rfl, by rfl, by rfl⟩

/-- A doorbell before the links have trained and one without power; a read behind a write of the same bytes; and one behind nothing. -/
theorem wit_held : isDoorbell (.doorbell (.vf 0, 1) 5) = true ∧ { host0 with opened := false }.opened = false ∧
    inOrder (.hostCxlMemRead 0 0x1000 4) (.hostCxlMemWrite 0 0x1002 [5, 6]) = true ∧
    inOrder (.hostCxlMemRead 0 0x1000 4) (.hostCxlMemWrite 0 0x1100 [5, 6]) = false ∧
    (let s := { host0 with agenda := [.hostCxlMemRead 0 0x1000 4], held := [.hostCxlMemWrite 0 0x1002 [5, 6]], heldAt := [3] }
     s.powered = true ∧ ∃ h ∈ s.held, inOrder (.hostCxlMemRead 0 0x1000 4) h = true) := by decide +kernel

end Sys2Proof.Tests
end

section
/-!
PROOFS. Integer arithmetic and the bit operations (R138 to R140, R145, R146): an instruction that computes values without flags
completes; what a bit pattern comes to by shifts and by arithmetic; the two statements.
-/
namespace Sys2Proof.Machine

/-! ### An instruction without flags -/

@[simp] theorem orFlags_zero (w : Half) : orFlags w 0#5 = w := by simp [orFlags]

/-- The generator that a scalar instruction takes is that of its lowest lane (R130). -/
theorem lead_gen {s : State} (ho : s.LanesOk) {l : Lane} (hl : l ∈ s.active) (hix : l.ix = lowestLane s.fr.mask) :
    s.lead.2 = l.gen := by
  rcases ha : s.active with _ | ⟨x, xs⟩
  · simp [ha] at hl
  · have hx : x ∈ s.active := by simp [ha]
    have hxl : x = l := List.inj_on_of_nodup_map (lanesOk_nodup ho) (List.mem_filter.1 hx).1 (List.mem_filter.1 hl).1
      ((head_ix ho x xs ha).trans hix.symm)
    simp [State.lead, ha, hxl]

theorem scalarArgs_regs (s : State) (n : Nat) : s.scalarArgs n = (s.fr.regs.sstk.take n).reverse := by
  simp [State.scalarArgs, valsOf, argsOf, Frag.regs, vals, List.map_take]

/-- A completion says only what the active lanes and the fragment come to. -/
theorem Completes.congr {len : Nat} {s t : State} {fl gl : LaneRegs → LaneRegs} {ff gf : FragRegs → FragRegs}
    (h : Completes len s t fl ff) (hl : ∀ l ∈ s.active, fl l.regs = gl l.regs) (hf : ff s.fr.regs = gf s.fr.regs) :
    Completes len s t gl gf := by
  obtain ⟨⟨hpc, hregs⟩, hlanes, hrest⟩ := h
  refine ⟨⟨hpc, hregs.trans hf⟩, hlanes.trans (List.map_congr_left fun l hm => ?_), hrest⟩
  by_cases hin : inMask s.fr.mask l.ix
  · simpa only [hin, if_true] using hl l (List.mem_filter.2 ⟨hm, hin⟩)
  · simp [hin]

/-- Results that set no flag leave `%lcw` and the generators alone. -/
theorem NumDone.pureDone {len n : Nat} {d : Bool} {f : List Word → List Word} {s t : State} (ho : s.LanesOk)
    (h : NumDone len d n (fun _ gen ws => NumOut.pure (f ws) gen) s t) : PureDone len d n f s t := by
  cases d
  · exact Completes.congr h (fun l _ => by simp [NumOut.pure, restack]) rfl
  · refine Completes.congr h (fun l hl => ?_) (by simp [NumOut.pure, restack, scalarArgs_regs])
    have hgen : (if l.regs.ix = lowestLane s.fr.mask then s.lead.2 else l.regs.gen) = l.regs.gen := by
      split
      · next hix => exact lead_gen ho hl hix
      · rfl
    simp [NumOut.pure, hgen]

/-- AN INSTRUCTION THAT PUSHES ONE RESULT, without flags, completes where its operands are there. -/
theorem pureStep_done {s : State} {len n : Nat} {d : Bool} (hs : s.Ready) (ho : s.OperandsOf d (.of n 1))
    {f : List Word → List Word} {g : List Word → Word} (h : ∀ ws, f ws = [g ws]) :
    ∃ t, pureStep len d n 1 f s = .next t ∧ PureDone len d n (fun ws => [g ws]) s t := by
  obtain rfl : f = fun ws => [g ws] := funext h
  have ⟨_, hl, _⟩ := hs
  obtain ⟨t, ht, hd⟩ := numStep_done (len := len) (f := fun _ gen ws => NumOut.pure [g ws] gen) hs ho fun _ _ _ => rfl
  exact ⟨t, ht, hd.pureDone hl⟩

/-! ### Integer types -/

theorem isFloat_eq_false_of_isInt {ty : Ty} (h : ty.isInt = true) : ty.isFloat = false := by
  cases ty <;> simp_all [Ty.isInt, Ty.isFloat]

theorem operandBits_lt (ty : Ty) (w : Word) : operandBits ty w < 2 ^ widthOf ty := by
  rw [operandBits, widthOf]
  split
  · exact w.isLt
  · exact (lo32 w).isLt

theorem widthOf_pos (ty : Ty) : 0 < widthOf ty := by
  rw [widthOf]
  split <;> decide

theorem natCast_emod_toNat {w v : Nat} (h : v < 2 ^ w) : ((v : Int) % (2 ^ w : Nat)).toNat = v := by
  rw [← Int.natCast_emod, Int.toNat_natCast, Nat.mod_eq_of_lt h]

/-- A value of `w` bits, read as a signed number and taken modulo `2 ^ w`, is itself. -/
theorem toSigned_emod_toNat {w v : Nat} (h : v < 2 ^ w) : (toSigned w v % (2 ^ w : Nat)).toNat = v := by
  rw [toSigned]
  split
  · exact natCast_emod_toNat h
  · rw [Int.sub_emod_right, natCast_emod_toNat h]

/-- The low bits of an operand's integer are the operand's bits, signed or not. -/
theorem intOf_emod_toNat (ty : Ty) (w : Word) : (intOf ty w % (2 ^ widthOf ty : Nat)).toNat = operandBits ty w := by
  have h := operandBits_lt ty w
  unfold intOf
  split
  · exact toSigned_emod_toNat h
  · exact toSigned_emod_toNat h
  · exact natCast_emod_toNat h

theorem narrow_wrap (ty : Ty) (z : Int) : narrow ty .rne z = place ty (z % (2 ^ widthOf ty : Nat)).toNat := rfl

/-- Wrapping an operand's own integer gives the operand as its type writes it. -/
theorem narrow_intOf (ty : Ty) (w : Word) : narrow ty .rne (intOf ty w) = typed ty w := by
  rw [narrow_wrap, intOf_emod_toNat, typed]

/-- Minus one wraps to all ones. -/
theorem narrow_neg_one (ty : Ty) : narrow ty .rne (-1) = place ty (2 ^ widthOf ty - 1) := by
  rw [narrow_wrap, widthOf]
  split <;> rfl

theorem narrow_intDiv (ty : Ty) (a b : Int) :
    narrow ty .rne (intDiv a b) = if b = 0 then place ty (2 ^ widthOf ty - 1) else narrow ty .rne (a.tdiv b) := by
  rw [intDiv]
  split
  · exact narrow_neg_one ty
  · rfl

theorem narrow_intRem (ty : Ty) (v : Word) (b : Int) :
    narrow ty .rne (intRem (intOf ty v) b) = if b = 0 then typed ty v else narrow ty .rne ((intOf ty v).tmod b) := by
  rw [intRem]
  split
  · exact narrow_intOf ty v
  · rfl

theorem narrow_min (ty : Ty) (ws : List Word) (i j : Nat) :
    narrow ty .rne (min (intOf ty (arg ws i)) (intOf ty (arg ws j))) =
      typed ty (arg ws (if intOf ty (arg ws i) ≤ intOf ty (arg ws j) then i else j)) := by
  rw [min_def]
  split <;> exact narrow_intOf ty _

theorem narrow_max (ty : Ty) (ws : List Word) (i j : Nat) :
    narrow ty .rne (max (intOf ty (arg ws i)) (intOf ty (arg ws j))) =
      typed ty (arg ws (if intOf ty (arg ws i) ≤ intOf ty (arg ws j) then j else i)) := by
  rw [max_def]
  split <;> exact narrow_intOf ty _

/-- On an integer type an arithmetic instruction is its integer operation alone. -/
theorem numStep_arith2_int {ty : Ty} (h : ty.isInt = true) (len : Nat) (d : Bool) (md : Rm) (fi : Int → Int → Int)
    (ff : Fmt → Rm → Nat → FVal → FVal → Nat × Flags) (s : State) :
    numStep len d 2 1 (arith2 md ty fi ff) s = pureStep len d 2 1 (intOp2 ty md fi) s := by
  have hf : arith2 md ty fi ff = fun _ gen ws => NumOut.pure (intOp2 ty md fi ws) gen := by
    funext drm gen ws
    simp [arith2, isFloat_eq_false_of_isInt h]
  rw [hf, pureStep]

/-- `add`, `sub`, `mul`, `div`, `min` and `max` of an integer type complete with the narrowed value of their operation. -/
theorem arith2_int_done {s : State} {d : Bool} {ty : Ty} {md : Rm} {fi : Int → Int → Int}
    {ff : Fmt → Rm → Nat → FVal → FVal → Nat × Flags} {g : List Word → Word} (hs : s.Ready) (hi : ty.isInt = true)
    (ho : s.OperandsOf d (.of 2 1)) (h : ∀ ws, narrow ty md (fi (intOf ty (arg ws 0)) (intOf ty (arg ws 1))) = g ws) :
    ∃ t, numStep 2 d 2 1 (arith2 md ty fi ff) s = .next t ∧ PureDone 2 d 2 (fun ws => [g ws]) s t := by
  rw [numStep_arith2_int hi]
  exact pureStep_done hs ho fun ws => congrArg (fun v => [v]) (h ws)

/-- `neg` and `abs` of an integer type complete with the narrowed value of their operation. -/
theorem signOp_int_done {s : State} {d : Bool} {ty : Ty} {md : Rm} {fi gi : Int → Int} {fb : Fmt → Nat → Nat} (hs : s.Ready)
    (hi : ty.isInt = true) (ho : s.OperandsOf d (.of 1 1)) (h : ∀ a, fi a = gi a) :
    ∃ t, pureStep 2 d 1 1 (signOp md ty fi fb) s = .next t ∧
      PureDone 2 d 1 (fun ws => [narrow ty md (gi (intOf ty (arg ws 0)))]) s t :=
  pureStep_done hs ho fun ws => by simp [signOp, isFloat_eq_false_of_isInt hi, h]

theorem execClamp_int {ty : Ty} (h : ty.isInt = true) (d : Bool) (s : State) :
    execClamp ty d s = pureStep 2 d 3 1 (fun ws =>
      [narrow ty .rne (min (max (intOf ty (arg ws 0)) (intOf ty (arg ws 1))) (intOf ty (arg ws 2)))]) s := by
  simp only [execClamp, isFloat_eq_false_of_isInt h, Bool.false_eq_true, if_false, pureStep]

/-- Settles O3: each instruction is its exact integer operation, narrowed; the choices and the division by zero give an
operand's own bits, or all ones. -/
theorem integerArithmeticCompletes : Obligations.IntegerArithmeticCompletes := by
  unfold Obligations.IntegerArithmeticCompletes
  intro s d md ty hs hty _ a
  refine ⟨fun h2 => ⟨?add, ?sub, ?mul, ?mulhi, ?div, ?rem, ?min, ?max⟩, fun h1 => ⟨?neg, ?abs⟩, fun h3 => ?clamp⟩
  case add => exact arith2_int_done hs hty h2 fun _ => rfl
  case sub => exact arith2_int_done hs hty h2 fun _ => rfl
  case mul => exact arith2_int_done hs hty h2 fun _ => rfl
  case mulhi => exact pureStep_done hs h2 fun _ => rfl
  case div => exact arith2_int_done hs hty h2 fun _ => narrow_intDiv ty _ _
  case rem => exact pureStep_done hs h2 fun ws => congrArg (fun v => [v]) (narrow_intRem ty (arg ws 0) _)
  case min => exact arith2_int_done hs hty h2 fun ws => narrow_min ty ws 0 1
  case max => exact arith2_int_done hs hty h2 fun ws => narrow_max ty ws 0 1
  case neg => exact signOp_int_done hs hty h1 fun _ => rfl
  case abs => exact signOp_int_done hs hty h1 fun v => (Int.abs_eq_natAbs v).symm
  case clamp =>
    show ∃ t, execClamp ty d s = .next t ∧ _
    rw [execClamp_int hty]
    exact pureStep_done hs h3 fun _ => rfl

/-! ### Bit patterns -/

/-- A rotation: the bits that leave at the top and those that come in at the bottom do not meet. -/
theorem rotl_or_eq_add {w x k : Nat} (hx : x < 2 ^ w) (hk : k ≤ w) :
    (x <<< k ||| x >>> (w - k)) % 2 ^ w = x * 2 ^ k % 2 ^ w + x / 2 ^ (w - k) := by
  have hw : 2 ^ w = 2 ^ (w - k) * 2 ^ k := by rw [← Nat.pow_add, Nat.sub_add_cancel hk]
  have hlow : x / 2 ^ (w - k) < 2 ^ k := Nat.div_lt_of_lt_mul (hw ▸ hx)
  have hhigh : x * 2 ^ k % 2 ^ w = (x % 2 ^ (w - k)) <<< k := by
    rw [hw, Nat.mul_mod_mul_right, Nat.shiftLeft_eq]
  calc (x <<< k ||| x >>> (w - k)) % 2 ^ w
      = x * 2 ^ k % 2 ^ w ||| x / 2 ^ (w - k) := by
        rw [Nat.or_mod_two_pow, Nat.shiftLeft_eq, Nat.shiftRight_eq_div_pow,
          Nat.mod_eq_of_lt (lt_of_le_of_lt (Nat.div_le_self _ _) hx)]
    _ = x * 2 ^ k % 2 ^ w + x / 2 ^ (w - k) := by
        rw [hhigh, Nat.shiftLeft_add_eq_or_of_lt hlow]

/-- Looking for the first one from the top finds the place of the binary logarithm. -/
theorem find_leading_one {w x : Nat} (hx : x < 2 ^ w) :
    ((List.range w).find? fun i => x.testBit (w - 1 - i)).getD w = if x = 0 then w else w - 1 - Nat.log2 x := by
  split
  · next h0 => rw [h0, List.find?_eq_none.2 (by simp), Option.getD_none]
  · next h0 =>
    have hl : Nat.log2 x < w := (Nat.log2_lt h0).2 hx
    have hf : (List.range w).find? (fun i => x.testBit (w - 1 - i)) = some (w - 1 - Nat.log2 x) := by
      rw [List.find?_range_eq_some]
      refine ⟨?_, List.mem_range.2 (by omega), fun j hj => ?_⟩
      · rw [show w - 1 - (w - 1 - Nat.log2 x) = Nat.log2 x by omega]
        exact Nat.testBit_log2 h0
      · have hlt : x < 2 ^ (w - 1 - j) := (Nat.log2_lt h0).1 (by omega)
        simp [Nat.testBit_lt_two_pow hlt]
    rw [hf, Option.getD_some]

/-- A number is what lies above a field, the field of `l` bits at `p`, and what lies below. -/
theorem eq_above_add_field_add_below (x p l : Nat) :
    x = x / 2 ^ (p + l) * 2 ^ (p + l) + x / 2 ^ p % 2 ^ l * 2 ^ p + x % 2 ^ p := by
  calc x = x / 2 ^ p * 2 ^ p + x % 2 ^ p := (Nat.div_add_mod' x (2 ^ p)).symm
    _ = (x / 2 ^ p / 2 ^ l * 2 ^ l + x / 2 ^ p % 2 ^ l) * 2 ^ p + x % 2 ^ p := by rw [Nat.div_add_mod' (x / 2 ^ p) (2 ^ l)]
    _ = _ := by rw [Nat.div_div_eq_div_mul, ← Nat.pow_add]; ring

/-- A field replaced by taking the old one off is the field put between what lies above and below (R146). -/
theorem replace_field_eq (x y p l : Nat) :
    x - x / 2 ^ p % 2 ^ l * 2 ^ p + y % 2 ^ l * 2 ^ p = (x >>> (p + l)) <<< (p + l) + (y % 2 ^ l) <<< p + x % 2 ^ p := by
  have h := eq_above_add_field_add_below x p l
  simp only [Nat.shiftLeft_eq, Nat.shiftRight_eq_div_pow]
  omega

/-! ### Bit operations -/

/-- A bit operation completes with the placed value of its function of the operands' bits. -/
theorem bitStep_done {s : State} {d : Bool} {ty : Ty} {n : Nat} {f : Nat → (Nat → Nat) → Nat} {g : List Word → Nat} (hs : s.Ready)
    (ho : s.OperandsOf d (.of n 1)) (h : ∀ ws, f (widthOf ty) (fun k => operandBits ty (arg ws k)) = g ws) :
    ∃ t, bitStep ty d n f s = .next t ∧ PureDone 2 d n (fun ws => [place ty (g ws)]) s t :=
  pureStep_done hs ho fun ws => congrArg (fun v => [place ty v]) (h ws)

/-- Settles O6: each instruction is its function of the operands' bits; shifts, the rotation, the leading zeros and the inserted field
are the model's arithmetic in the statement's shifts. -/
theorem bitOperationsComplete : Obligations.BitOperationsComplete := by
  unfold Obligations.BitOperationsComplete
  intro s d ty hs _ w x gives
  refine ⟨fun h2 => ⟨?and, ?or, ?xor, ?shl, ?shr, ?sar, ?rotl⟩, fun h1 => ⟨?not, ?popc, ?clz, ?ctz⟩, fun h3 => ?bfx, fun h4 => ?bfi⟩
  case and =>
    show ∃ t, execAnd ty d s = .next t ∧ _
    exact bitStep_done hs h2 fun _ => rfl
  case or =>
    show ∃ t, execOr ty d s = .next t ∧ _
    exact bitStep_done hs h2 fun _ => rfl
  case xor =>
    show ∃ t, execXor ty d s = .next t ∧ _
    exact bitStep_done hs h2 fun _ => rfl
  case shl =>
    show ∃ t, execShl ty d s = .next t ∧ _
    exact bitStep_done hs h2 fun ws => congrArg (· % 2 ^ w) (Nat.shiftLeft_eq _ _).symm
  case shr =>
    show ∃ t, execShr ty d s = .next t ∧ _
    exact bitStep_done hs h2 fun ws => (Nat.shiftRight_eq_div_pow _ _).symm
  case sar =>
    show ∃ t, execSar ty d s = .next t ∧ _
    exact bitStep_done hs h2 fun _ => rfl
  case rotl =>
    show ∃ t, execRotl ty d s = .next t ∧ _
    have hk : ∀ n, n % w ≤ w := fun n => (Nat.mod_lt n (widthOf_pos ty)).le
    exact bitStep_done hs h2 fun ws => (rotl_or_eq_add (operandBits_lt ty _) (hk _)).symm
  case not =>
    show ∃ t, execNot ty d s = .next t ∧ _
    exact bitStep_done hs h1 fun _ => rfl
  case popc =>
    show ∃ t, execPopc ty d s = .next t ∧ _
    exact bitStep_done hs h1 fun _ => List.countP_eq_length_filter
  case clz =>
    show ∃ t, execClz ty d s = .next t ∧ _
    exact bitStep_done hs h1 fun _ => (find_leading_one (operandBits_lt ty _)).symm
  case ctz =>
    show ∃ t, execCtz ty d s = .next t ∧ _
    exact bitStep_done hs h1 fun _ => rfl
  case bfx =>
    show ∃ t, execBfx ty d s = .next t ∧ _
    exact bitStep_done hs h3 fun ws =>
      congrArg (· % 2 ^ fieldLen w (x ws 1 % w) (x ws 2)) (Nat.shiftRight_eq_div_pow _ _).symm
  case bfi =>
    show ∃ t, execBfi ty d s = .next t ∧ _
    exact bitStep_done hs h4 fun _ => replace_field_eq _ _ _ _

end Sys2Proof.Machine
end

section
/-!
PROOFS. Compares, the predicates on the stack and `plog` (R88, R156 to R159): an instruction whose body acts completes; what each of the
bodies does; the statement.
-/
namespace Sys2Proof.Machine

/-! ### An instruction whose body acts -/

/-- An instruction goes on at once when its stack effects fit and it uses no operand (R132, R222). -/
theorem withStack_room {s : State} {l sc : Use} (h : s.stackFault l sc = none) (k : State → Res) : s.withStack l sc false k = k s := by
  simp [State.withStack, h]

/-- An instruction completes as its body acts on the issued state, where the body leaves what the fragment waits for, repeats and loops
over alone. -/
theorem laneStep_completes {s u : State} {len : Nat} {body : State → Res} {fl : LaneRegs → LaneRegs} {ff : FragRegs → FragRegs}
    (hs : s.Fresh) (hb : body s.issue = .ok (u.finish len)) (h : Acts s.issue u fl ff)
    (hw : ∀ r, (ff r).wait = r.wait := by intro _; rfl) (hr : ∀ r, (ff r).rc = r.rc := by intro _; rfl)
    (hl : ∀ r, (ff r).lc = r.lc := by intro _; rfl) :
    ∃ t, laneStep len body s = .next t ∧ Completes len s t fl ff :=
  ⟨_, laneStep_ok hb, ((issue_acts s hs).trans h (fun _ => rfl) fun _ => rfl).completes hs hw hr hl len⟩

/-! ### Compares (R156, R157) -/

/-- Changing the fragment's C predicates leaves everything else alone. -/
theorem setCpreds_acts (s : State) (p : Byte → Byte) :
    Acts s (s.setFr { s.fr with cpreds := p s.fr.cpreds }) id (fun r => { r with cpreds := p r.cpreds }) where
  lanes := lanesBy_id rfl
  frag := rfl
  pc := rfl
  replay := rfl
  sslots := rfl
  bytes := fun _ _ => rfl
  team := ⟨rfl, rfl, rfl, rfl, rfl, rfl⟩
  module := rfl

/-- A scalar compare combines into the C predicates and pops the scalar stack; every active lane takes its flags. -/
theorem compareScalar_acts (s : State) (n : Nat) (p : Byte → Byte) (fl : Flags) :
    Acts s (((s.setFr { s.fr with cpreds := p s.fr.cpreds }).mapActive fun l =>
        { l with lcw := orFlags l.lcw fl }).replaceScalar n [])
      (fun l => { l with lcw := orFlags l.lcw fl }) (fun r => { r with cpreds := p r.cpreds, sstk := r.sstk.drop n }) := by
  have hflags := mapActive_acts (s.setFr { s.fr with cpreds := p s.fr.cpreds }) (fun l => { l with lcw := orFlags l.lcw fl })
    (fun l => { l with lcw := orFlags l.lcw fl }) fun _ _ => rfl
  exact ((setCpreds_acts s p).trans hflags (fun _ => rfl) fun _ => rfl).trans (replaceScalar_acts _ n []) (fun _ => rfl) fun _ => rfl

/-- What a compare sets in one lane, before its operands are popped: they decide, under the lane's own guard. -/
def LaneRegs.compared (c : Cond) (ty : Ty) (ct : Combine) (pa pb : Fin 8) (g : Guard) (l : LaneRegs) : LaneRegs :=
  let r := condEval c ty (l.stk.take (condArity c)).reverse
  { l with preds := combine ct pa.val pb.val (predBit l.preds g.p.val != g.neg) r.1 l.preds, lcw := orFlags l.lcw r.2 }

/-- A lane compare combines into each active lane's predicates, sets its flags and pops its operands. -/
theorem compareLanes_acts (s : State) (c : Cond) (ty : Ty) (ct : Combine) (pa pb : Fin 8) (g : Guard) :
    Acts s ((s.mapActive fun l =>
        let r := condEval c ty (valsOf (condArity c) l.stk)
        { l with preds := combine ct pa pb (l.guard g) r.1 l.preds, lcw := orFlags l.lcw r.2 }).popLanes (condArity c))
      (fun l => { l.compared c ty ct pa pb g with stk := l.stk.drop (condArity c) }) id := by
  have hset := mapActive_acts s
    (fun l =>
      let r := condEval c ty (valsOf (condArity c) l.stk)
      { l with preds := combine ct pa pb (l.guard g) r.1 l.preds, lcw := orFlags l.lcw r.2 })
    (LaneRegs.compared c ty ct pa pb g) fun l _ => by
      simp only [valsOf_regs]
      rfl
  exact hset.trans (popLanes_acts (condArity c) _) (fun _ => rfl) fun _ => rfl

theorem execCmp_lanes_done {s : State} (hs : s.Fresh) (c : Cond) (ty : Ty) (pa pb : Fin 8) (ct : Combine) (g : Guard)
    (ho : s.OperandsOf false (.of (condArity c) 0)) :
    ∃ t, execCmp false c ty pa pb ct g s = .next t ∧
      Completes 4 s t (fun l => { l.compared c ty ct pa pb g with stk := l.stk.drop (condArity c) }) id :=
  laneStep_completes hs (withStack_uses (issue_operands hs (operandsOf_iff.1 ho)) _) (compareLanes_acts s.issue c ty ct pa pb g)

/-- The operands and the guard of a scalar compare are those before it issues. -/
theorem execCmp_scalar_done {s : State} (hs : s.Fresh) (c : Cond) (ty : Ty) (pa pb : Fin 8) (ct : Combine) (g : Guard)
    (ho : s.OperandsOf true (.of (condArity c) 0)) :
    ∃ t, execCmp true c ty pa pb ct g s = .next t ∧
      let r := condEval c ty (s.scalarArgs (condArity c))
      Completes 4 s t (fun l => { l with lcw := orFlags l.lcw r.2 }) (fun f => { f with
        cpreds := combine ct pa.val pb.val (predBit s.fr.cpreds g.p.val != g.neg) r.1 f.cpreds,
        sstk := f.sstk.drop (condArity c) }) := by
  have hissue := issue_acts s hs
  have hpreds : s.issue.fr.cpreds = s.fr.cpreds := congrArg FragRegs.cpreds hissue.frag
  rw [← scalarArgs_acts hissue, ← hpreds]
  exact laneStep_completes hs (withStack_uses (issue_operands hs (operandsOf_iff.1 ho)) _)
    (compareScalar_acts s.issue (condArity c) (combine ct pa.val pb.val (s.issue.fr.guard g) _) _)

/-! ### Predicates on the stack (R158) -/

theorem arg_take_one (ws : List Word) : arg (ws.take 1).reverse 0 = ws.headD 0 := by
  cases ws <;> rfl

/-- `ppush` puts each active lane's predicates, P0 reading 1, on its stack. -/
theorem pushPreds_acts (s : State) (ho : s.LanesOk) :
    Acts s (s.replaceLanes 0 1 fun l => [Entry.plain ((l.preds ||| 1).setWidth 64)])
      (fun l => { l with stk := (l.preds ||| 1).setWidth 64 :: l.stk }) id :=
  replaceLanes_acts s 0 1 _ (fun l => [(l.preds ||| 1).setWidth 64]) ho fun _ _ => ⟨rfl, rfl⟩

/-- `ppop` takes each active lane's predicates from the byte on top of its stack, without P0, and pops it. -/
theorem popPreds_acts (s : State) :
    Acts s ((s.mapActive fun l => { l with preds := (arg (valsOf 1 l.stk) 0).setWidth 8 &&& 0xFE }).popLanes 1)
      (fun l => { l with preds := (l.stk.headD 0).setWidth 8 &&& 0xFE, stk := l.stk.tail }) id := by
  have htake := mapActive_acts s (fun l => { l with preds := (arg (valsOf 1 l.stk) 0).setWidth 8 &&& 0xFE })
    (fun l => { l with preds := (l.stk.headD 0).setWidth 8 &&& 0xFE }) fun l _ => by
      simp only [valsOf_regs, arg_take_one]
      rfl
  refine (htake.trans (popLanes_acts 1 _) (fun _ => rfl) fun _ => rfl).congr fun l _ => ?_
  simp only [Function.comp_apply, List.drop_one]

/-- Settles O12: each body acts on the issued state as stated, and issuing changes neither operands nor predicates. -/
theorem comparesAndPredicatesComplete : Obligations.ComparesAndPredicatesComplete := by
  unfold Obligations.ComparesAndPredicatesComplete
  intro s d c ty pa pb ct g tbl pd neg hs
  obtain ⟨hfr, hlanes, _⟩ := hs
  have hlanes' : s.issue.LanesOk := (issue_acts s hfr).lanesOk (fun _ => rfl) hlanes
  refine ⟨fun ho => ?cmp, fun ho => ?ppush, fun ho => ?ppop, ?plog⟩
  case cmp =>
    cases d
    · exact execCmp_lanes_done hfr c ty pa pb ct g ho
    · exact execCmp_scalar_done hfr c ty pa pb ct g ho
  case ppush =>
    exact laneStep_completes hfr (withStack_room ((issue_stackFault s hfr _ _).trans ho) _) (pushPreds_acts s.issue hlanes')
  case ppop =>
    exact laneStep_completes hfr (withStack_uses (issue_operands hfr (operandsOf_iff.1 ho)) _) (popPreds_acts s.issue)
  case plog =>
    exact laneStep_completes hfr rfl (mapActive_acts s.issue _ _ fun _ _ => rfl)

end Sys2Proof.Machine
end
